-- ==== Sys2Proof/Word.lean ====
section
/-!
DEFINITION. Sys2Proof/Word.lean: the plain word types. All multi-byte data is little-endian (R9).
-/
namespace Sys2Proof

/-- The smallest addressable unit of every memory of the device (R9). -/
abbrev Byte := BitVec 8

/-- A 16-bit field, such as a completion token or a tag. -/
abbrev Half := BitVec 16

/-- A 32-bit register, element or FP32 pattern. -/
abbrev Word := BitVec 32

/-- A 64-bit register or handle entry. -/
abbrev DWord := BitVec 64

/-- One tile command, 16 B (R243). -/
abbrev CmdWord := BitVec 128

end Sys2Proof
end

