-- ==== Sys2Proof/Syntax.lean ====
section
/-!
DEFINITION. Sys2Proof/Syntax.lean: the commands of the block, one constructor per row of the table of operations and events,
with the operands that come from outside the block: a host or sideband access, an event on a pin or a rail, a reading of a
sensor, or what a checker met.
-/
namespace Sys2Proof

/-- What the checkers of a command meet (R108, R149, R184, R186, R210, R396; log entry 11, DESIGN CHOICE). -/
inductive Check where
  | clean
  /-- An error of the command's own checker that the first means corrects. -/
  | minor
  /-- One that no means correct. -/
  | major
  /-- An uncorrectable scratchpad word (R210). -/
  | spad
  /-- A corrected scratchpad word, of a command whose own checker is another one (R210). -/
  | spadCorr
  /-- An uncorrectable row among the rows that the command reads beside its own: correction rows, the rows of a fallback (R110, R142). -/
  | row
  /-- Bits that the row code corrected, at most 9 a row (R108). -/
  | bits (n : Nat)
  /-- A residue mismatch that repeats: the rows are corrected through port B, and the next try passes (R184). -/
  | fixed
  /-- A DCM word that a command reads beside its operands: corrected, or rebuilt from its group (R182, R186). -/
  | dcmCorr
  | dcmBad
  /-- A rebuilt word whose re-read fails in one bit-column, or in more (R186). -/
  | column (n : Nat)
  | worse
  deriving DecidableEq, Repr

/-- The first failing address and bit of a self-test (R409). -/
structure SelfFail where
  da : BitVec 48
  bit : Word
  deriving DecidableEq, Repr

/-- A block that fails a self-test slice (R408, R409): the slice kind, the region, the unit as SELFTEST_CTRL names it, the logical core whose
slice holds a tier or stack, and the first failing address and bit. -/
structure BadBlock where
  kind : Nat
  region : Nat
  unit : Nat
  slice : Nat
  fail : SelfFail
  deriving DecidableEq, Repr

/-- What a start-up finds outside the block's own state: whether the flash answers within 50 ms (R416), whether the firmware
reaches its checkpoint (R416), which physical cores, by 68 x region + number, fail self-test (R409), the physical decks whose wear count
cannot be read (R106), the failed bit-lines that calibration finds, as physical deck and bit-line (R117), the copies of
configuration records that fail their digest, as region of the stack and record kind (R30), and the blocks of any kind that fail a
self-test slice with an address (R409). -/
structure StartUp where
  flashAnswers : Bool
  checkpoint : Bool
  failed : List Nat
  wearLost : List Nat
  badLines : List (Nat × Nat)
  badCopies : List (Nat × Nat)
  blocks : List BadBlock
  deriving DecidableEq, Repr

/-- What a region reset finds: the physical cores, by 68 x region + number, that fail self-test (R409), the failed bit-lines that its
calibration finds, as physical deck and bit-line (R117), and the blocks that fail a self-test slice with an address. -/
structure RegionFind where
  failed : List Nat
  badLines : List (Nat × Nat)
  blocks : List BadBlock
  deriving DecidableEq, Repr

/-- The end of a partition's batch: what its exact column reads meet, by vector index (R110, R308). -/
structure BatchEnd where
  part : Fin 4
  reads : List (Nat × Check)
  deriving DecidableEq, Repr

/-- Causes of a device reset (R437, R442). -/
inductive ResetCause where
  | ana
  | message
  | fwActivate
  | lc
  deriving DecidableEq, Repr

/-- Causes of a port reset (R437). -/
inductive PortResetCause where
  | perst
  | hot
  | linkDown
  deriving DecidableEq, Repr

/-- Supply rails (R376). -/
inductive Rail where
  | core (r : Fin 4)
  | sram (r : Fin 4)
  | ana
  | hv
  | hub
  | phy
  | phyh
  | io
  deriving DecidableEq, Repr

/-- One regulator reading (R380): the rail, mV and mA; none where the regulator did not answer. -/
structure Telemetry where
  rail : Rail
  reading : Option (Nat × Nat)
  deriving DecidableEq, Repr

/-- What one read-verify of a deck finds (R113, R117, R118): failed data bit-lines by number. -/
structure VerifyFind where
  drift : Nat
  corrected : Nat
  worstRow : Nat
  uncorrectable : Bool
  failedLines : List Nat
  deckFails : Bool
  deriving DecidableEq, Repr

/-- What one full re-trim of a stack finds (R150, R155): failed data bit-lines, with the position of their deck. -/
structure RetrimFind where
  failedLines : List (Nat × Nat)
  bankFails : Bool
  deriving DecidableEq, Repr

/-- What the Scree walker finds in a range (R412): nothing, a failure of one bit-column of a DCM, of one scratchpad row, or more. -/
inductive ScreeFind where
  | pass
  | column (n : Nat)
  | row (n : Nat)
  | worse
  deriving DecidableEq, Repr

/-- Tamper causes (R429), in the order of the bits of TAMPER_CAUSE (R436). -/
inductive TamperCause where
  | tamper0
  | tamper1
  | volt
  | clk
  | temp
  deriving DecidableEq, Repr

/-- How a host read fails (R343). -/
inductive DmaError where
  | unsupported
  | completerAbort
  | timeout
  | poisoned
  deriving DecidableEq, Repr

/-- Who accesses a register: a host through a port, or the sideband (R347, R432). -/
inductive Agent where
  | host (p : Fin 4)
  | sideband
  deriving DecidableEq, Repr

/-- The two BARs of a function (R346). -/
inductive Bar where
  | bar0
  | bar2
  deriving DecidableEq, Repr

/-- Life-cycle states (R425, R436). -/
inductive LifeCycle where
  | blank
  | provisioned
  | deployed
  | rma
  | scrapped
  deriving DecidableEq, Repr

/-- Instructions of the JTAG TAP (R454): IDCODE, BYPASS, or another by its code. -/
inductive JtagInstr where
  | idcode
  | bypass
  | other (code : Nat)
  deriving DecidableEq, Repr

/-- An extended algorithm entry of SPDM (R422). -/
structure ExtAsym where
  registry : Nat
  vendor : Nat
  algorithm : Nat
  deriving DecidableEq, Repr

/-- The commands of the block, one constructor per row of the table, in its order. -/
inductive Instr where
  /- Resets, supplies and Cirque (R376-R393, R437). -/
  /-- POWER_ON (R437). -/
  | powerOn (strapBif strapPart : BitVec 2) (lc : Bool) (up : StartUp)
  /-- DEVICE_READY (R345). -/
  | deviceReady
  /-- DEVICE_RESET (R437). -/
  | deviceReset (cause : ResetCause) (up : StartUp)
  /-- REGION_RESET (R437). -/
  | regionReset (r : Fin 4) (sramLost : Bool) (failed : RegionFind)
  /-- PORT_RESET (R437). -/
  | portReset (p : Fin 4) (cause : PortResetCause)
  /-- FLR (R437). -/
  | flr (p : Fin 4)
  /-- PORT_READY (R344). -/
  | portReady (p : Fin 4)
  /-- VDD_HV_LOSS (R376). -/
  | vddHvLoss
  /-- SUPPLY_DIP (R389). -/
  | supplyDip (rail : Rail)
  /-- DIP_RECOVERY (R389). -/
  | dipRecovery
  /-- DROOP (R388). -/
  | droop (r : Fin 4) (depth : Nat)
  /-- DROOP_RECOVERY (R388). -/
  | droopRecovery (r : Fin 4) (ns : Nat)
  /-- PMB_ALERT (R380). -/
  | pmbAlert (rail : Rail) (statusWord : BitVec 16)
  /-- PMBUS_TELEMETRY (R380). -/
  | pmbusTelemetry (readings : List Telemetry)
  /-- BEAT_BOUNDARY (R40). -/
  | beatBoundary
  /-- CIRQUE_BUDGET_EPOCH (R382). -/
  | cirqueBudgetEpoch (regionUj : List Nat) (hubUj : Nat)
  /-- CIRQUE_ESTIMATE_UPDATE (R381). -/
  | cirqueEstimateUpdate (r : Fin 4) (uj : Nat)
  /-- CONSERVATIVE_END (R386). -/
  | conservativeEnd (r : Fin 4)
  /-- VF_RAISE (R379). -/
  | vfRaise (r : Fin 4) (coreMv sramMv : Nat)
  /-- VF_ABANDON (R379). -/
  | vfAbandon (r : Fin 4)
  /-- VF_LOWER (R379). -/
  | vfLower (r : Fin 4)
  /-- TEMPERATURE_READ (R390). -/
  | temperatureRead (sensors : List Int) (hub : List Int)
  /-- THROTTLE_STEP (R390). -/
  | throttleStep (r : Fin 4)
  /-- THERM_TRIP (R392). -/
  | thermTrip (celsius : Int)
  /-- PWR_BRAKE (R391). -/
  | pwrBrake (lowNs : Nat)
  /-- BRAKE_RELEASE (R391). -/
  | brakeRelease
  /- The time base and the frame (R31-R55). -/
  /-- PPS_EDGE (R33). -/
  | ppsEdge (edgeNs : Nat) (freq : Int)
  /-- PTM_DIALOG (R32). -/
  | ptmDialog (ok : Bool) (offset freq : Int)
  /-- TIME_FREQ_LOST (R33). -/
  | timeFreqLost
  /-- HOLDOVER_ENTERED (R35). -/
  | holdoverEntered
  /-- HOLDOVER_EXPIRED (R36). -/
  | holdoverExpired
  /-- TIME_CTRL_WRITE (R37). -/
  | timeCtrlWrite (v : Word)
  /-- SOURCE_CHANGE (R37). -/
  | sourceChange
  /-- BEAT_LEN_WRITE (R41). -/
  | beatLenWrite (v : Word)
  /-- BEAT_LEN_CHANGE (R41). -/
  | beatLenChange
  /-- FRAME_COMMIT_GO (R50). -/
  | frameCommitGo (v : Word)
  /-- FRAME_SWITCH (R50). -/
  | frameSwitch
  /-- RUN_END (R46). -/
  | runEnd (r : Fin 4) (late guardLeft : Nat)
  /-- TASK_SWITCH (R202). -/
  | taskSwitch (r : Fin 4) (slot : Fin 8)
  /- Plans in service, streams and batches (R239-R310). -/
  /-- RUN_START (R239). -/
  | runStart (cmd : Nat)
  /-- STEP_START (R52). -/
  | stepStart (plan : Nat)
  /-- STEP_COMPLETE (R241). -/
  | stepComplete (plan : Nat)
  /-- RUN_COMPLETE (R241). -/
  | runComplete (plan : Nat)
  /-- PAGE_ALLOCATION (R297). -/
  | pageAllocation (slot : Nat)
  /-- DECODE_RUN_START (R299). -/
  | decodeRunStart (plan : Nat)
  /-- PREFILL_CHUNK (R301). -/
  | prefillChunk (cmd : Nat)
  /-- BATCH_START (R308). -/
  | batchStart (p : Fin 4)
  /-- BATCH_COMPLETE (R308). -/
  | batchComplete (p : BatchEnd)
  /-- CORPUS_EPOCH (R310). -/
  | corpusEpoch (p : Fin 4)
  /-- CORPUS_MEASUREMENT (R424). -/
  | corpusMeasurement (p : Fin 4)
  /- Rings (R357, R350). -/
  /-- DOORBELL_POLL (R357). -/
  | doorbellPoll (p : Fin 4) (k : Nat)
  /-- MSIX_COALESCE_TIMEOUT (R350). -/
  | msixCoalesceTimeout (p : Fin 4) (cq : Fin 64)
  /- Host commands (R366-R374): the operand is the number of an admitted command, whose 64 B descriptor State holds. -/
  /-- STREAM_OPEN (R287). -/
  | streamOpen (cmd : Nat)
  /-- STREAM_APPEND (R294). -/
  | streamAppend (cmd : Nat)
  /-- STREAM_GENERATE (R300). -/
  | streamGenerate (cmd : Nat)
  /-- STREAM_CLOSE (R292). -/
  | streamClose (cmd : Nat)
  /-- QUERY_SCAN (R305). -/
  | queryScan (cmd : Nat)
  /-- QUERY_RERANK (R307). -/
  | queryRerank (cmd : Nat)
  /-- CORPUS_PROGRAM_NEW (R311). -/
  | corpusProgramNew (cmd : Nat)
  /-- CORPUS_PROGRAM_COMPACT (R313). -/
  | corpusProgramCompact (cmd : Nat)
  /-- CORPUS_PROGRAM_ATTACH (R314). -/
  | corpusProgramAttach (cmd : Nat)
  /-- CORPUS_DELETE_TOMB (R312). -/
  | corpusDeleteTomb (cmd : Nat)
  /-- CORPUS_DELETE_ERASE (R312). -/
  | corpusDeleteErase (cmd : Nat)
  /-- MODEL_INSTALL (R120). -/
  | modelInstall (cmd : Nat)
  /-- PLAN_LOAD (R235). -/
  | planLoad (cmd : Nat)
  /-- PLAN_RUN (R239). -/
  | planRun (cmd : Nat)
  /-- TRAIN_STEP (R320). -/
  | trainStep (cmd : Nat)
  /-- COPY_IN (R370). -/
  | copyIn (cmd : Nat)
  /-- COPY_OUT (R370). -/
  | copyOut (cmd : Nat)
  /-- FENCE (R374). -/
  | fence (cmd : Nat)
  /-- FENCE_RING (R374). -/
  | fenceRing (cmd : Nat)
  /-- TIME_WAIT (R374). -/
  | timeWait (cmd : Nat)
  /-- STATS (R374). -/
  | stats (cmd : Nat)
  /- The sequencer (R203-R206). -/
  /-- SEQUENCER_INSTRUCTION (R203). -/
  | sequencerInstruction (core : Fin 256) (chk : Check)
  /-- CMDHI (R205). -/
  | cmdhi (core : Fin 256) (task : Fin 4) (hi : DWord)
  /- Tile commands (R246-R254): the head of the task's queue segment, as the drain of the segment issues it. -/
  /-- NOP (R246). -/
  | nop (core : Fin 256) (task : Fin 4) (chk : Check)
  /-- FILL (R220). -/
  | fill (core : Fin 256) (task : Fin 4) (chk : Check)
  /-- COPYW (R220). -/
  | copyw (core : Fin 256) (task : Fin 4) (chk : Check)
  /-- DCM_RD (R246). -/
  | dcmRd (core : Fin 256) (task : Fin 4) (chk : Check)
  /-- DCM_WR (R246). -/
  | dcmWr (core : Fin 256) (task : Fin 4) (chk : Check)
  /-- EXRD_ROW (R107). -/
  | exrdRow (core : Fin 256) (task : Fin 4) (chk : Check)
  /-- EXRD_COL (R109). -/
  | exrdCol (core : Fin 256) (task : Fin 4) (chk : Check)
  /-- PUT (R246). -/
  | put (core : Fin 256) (task : Fin 4) (chk : Check)
  /-- STG_IN (R246). -/
  | stgIn (core : Fin 256) (task : Fin 4) (chk : Check)
  /-- STG_OUT (R246). -/
  | stgOut (core : Fin 256) (task : Fin 4) (chk : Check)
  /-- MM (R167). -/
  | mm (core : Fin 256) (task : Fin 4) (chk : Check)
  /-- DCM_COLWR (R176). -/
  | dcmColwr (core : Fin 256) (task : Fin 4) (chk : Check)
  /-- DCM_FILL (R176). -/
  | dcmFill (core : Fin 256) (task : Fin 4) (chk : Check)
  /-- DCM_COPY (R176). -/
  | dcmCopy (core : Fin 256) (task : Fin 4) (chk : Check)
  /-- CR (R128). -/
  | cr (core : Fin 256) (task : Fin 4) (chk : Check)
  /-- PW (R131). -/
  | pw (core : Fin 256) (task : Fin 4) (chk : Check)
  /-- PWT (R132). -/
  | pwt (core : Fin 256) (task : Fin 4) (chk : Check)
  /-- PROG (R251). -/
  | prog (core : Fin 256) (task : Fin 4) (chk : Check)
  /-- ERASE (R100). -/
  | erase (core : Fin 256) (task : Fin 4) (chk : Check)
  /-- CAL (R250). -/
  | cal (core : Fin 256) (task : Fin 4) (chk : Check)
  /-- CORRSEL (R249). -/
  | corrsel (core : Fin 256) (task : Fin 4) (chk : Check)
  /-- ACC (R258). -/
  | acc (core : Fin 256) (task : Fin 4) (chk : Check)
  /-- QUANT (R70). -/
  | quant (core : Fin 256) (task : Fin 4) (chk : Check)
  /-- ACT (R268). -/
  | act (core : Fin 256) (task : Fin 4) (chk : Check)
  /-- RMSNORM (R272). -/
  | rmsnorm (core : Fin 256) (task : Fin 4) (chk : Check)
  /-- LAYERNORM (R272). -/
  | layernorm (core : Fin 256) (task : Fin 4) (chk : Check)
  /-- SOFTMAX (R273). -/
  | softmax (core : Fin 256) (task : Fin 4) (chk : Check)
  /-- MAXIDX (R278). -/
  | maxidx (core : Fin 256) (task : Fin 4) (chk : Check)
  /-- MINIDX (R278). -/
  | minidx (core : Fin 256) (task : Fin 4) (chk : Check)
  /-- TOPK (R279). -/
  | topk (core : Fin 256) (task : Fin 4) (chk : Check)
  /-- MERGE (R281). -/
  | merge (core : Fin 256) (task : Fin 4) (chk : Check)
  /-- SAMPLE (R285). -/
  | sample (core : Fin 256) (task : Fin 4) (chk : Check)
  /-- BSCALE (R262). -/
  | bscale (core : Fin 256) (task : Fin 4) (chk : Check)
  /-- VALIGN (R263). -/
  | valign (core : Fin 256) (task : Fin 4) (chk : Check)
  /-- XDOT (R260). -/
  | xdot (core : Fin 256) (task : Fin 4) (chk : Check)
  /-- DERIV (R328). -/
  | deriv (core : Fin 256) (task : Fin 4) (chk : Check)
  /-- MASK (R329). -/
  | mask (core : Fin 256) (task : Fin 4) (chk : Check)
  /-- GSTAT (R331). -/
  | gstat (core : Fin 256) (task : Fin 4) (chk : Check)
  /-- NORMBWD (R330). -/
  | normbwd (core : Fin 256) (task : Fin 4) (chk : Check)
  /-- SMAXBWD (R330). -/
  | smaxbwd (core : Fin 256) (task : Fin 4) (chk : Check)
  /-- OPTUPD (R335). -/
  | optupd (core : Fin 256) (task : Fin 4) (chk : Check)
  /-- FMTSEL (R333). -/
  | fmtsel (core : Fin 256) (task : Fin 4) (chk : Check)
  /-- WAITBEAT (R254). -/
  | waitbeat (core : Fin 256) (task : Fin 4) (chk : Check)
  /-- BARRIER (R254). -/
  | barrier (core : Fin 256) (task : Fin 4) (chk : Check)
  /-- TSEND (R254). -/
  | tsend (core : Fin 256) (task : Fin 4) (chk : Check)
  /-- TRECV (R283). -/
  | trecv (core : Fin 256) (task : Fin 4) (chk : Check)
  /-- TOKEN (R254). -/
  | token (core : Fin 256) (task : Fin 4) (chk : Check)
  /-- HSET (R254). -/
  | hset (core : Fin 256) (task : Fin 4) (chk : Check)
  /-- PHASE (R254). -/
  | phase (core : Fin 256) (task : Fin 4) (chk : Check)
  /-- DONE (R241). -/
  | done (core : Fin 256) (task : Fin 4) (chk : Check)
  /- Array, storage and maintenance events. -/
  /-- REBUILD_COMPLETE (R187). -/
  | rebuildComplete (core : Fin 256)
  /-- PAGE_PROGRAM (R99). -/
  | pageProgram (deck : Nat) (ok : Bool)
  /-- ERASE_PULSE (R100). -/
  | erasePulse (deck : Nat)
  /-- PUMP_GRANT (R101). -/
  | pumpGrant
  /-- WEAR_SNAPSHOT (R106). -/
  | wearSnapshot
  /-- READ_VERIFY (R113). -/
  | readVerify (deck : Nat) (rv : VerifyFind)
  /-- REFRESH_SWAP (R114). -/
  | refreshSwap (deck : Nat)
  /-- CONFIG_STACK_COMPACTION (R122). -/
  | configStackCompaction (r : Fin 4)
  /-- FULL_RETRIM (R150). -/
  | fullRetrim (core : Fin 256) (stack : Fin 24) (rt : RetrimFind)
  /-- SELFTEST_SLICE (R409). -/
  | selftestSlice (r : Fin 4) (phys kind : Nat) (fail : Option SelfFail)
  /-- SCREE_RANGE (R411). -/
  | screeRange (r : Fin 4) (phys : Nat) (find : ScreeFind)
  /- Faults and repair (R396-R412). -/
  /-- ESCALATION (R400). -/
  | escalation (source : Fin 32) (inst : Nat)
  /-- REPLAY (R402). -/
  | replay (plan : Nat)
  /-- CORE_RETIREMENT (R403). -/
  | coreRetirement (core : Fin 256)
  /-- SPARE_CORE_ADOPTION (R20). -/
  | spareCoreAdoption (core : Fin 256)
  /-- LINK_FLIT_RETRY (R396). -/
  | linkFlitRetry (hop : Nat) (exhausted : Bool)
  /-- FLT_ALIVE (R407). -/
  | fltAlive
  /-- TAMPER (R430). -/
  | tamper (cause : TamperCause)
  /- Ports (R341-R343, R439). -/
  /-- HOST_DMA_ERROR (R343). -/
  | hostDmaError (p : Fin 4) (cmd : Nat) (kind : DmaError)
  /-- ATOMICOP_REQUEST (R342). -/
  | atomicopRequest (p : Fin 4)
  /-- BUS_MASTER_ENABLE (R343). -/
  | busMasterEnable (p : Fin 4) (on : Bool)
  /-- D3HOT_ENTRY (R439). -/
  | d3hotEntry (p : Fin 4)
  /-- D3HOT_EXIT (R439). -/
  | d3hotExit (p : Fin 4)
  /-- ASPM_L1 (R341). -/
  | aspmL1 (p : Fin 4) (enter : Bool)
  /- Setup and control writes. -/
  /-- SQ_ENABLE (R351). -/
  | sqEnable (p : Fin 4) (ring : Fin 64) (v : Word)
  /-- SQ_DISABLE (R351). -/
  | sqDisable (p : Fin 4) (ring : Fin 64) (v : Word)
  /-- CQ_ENABLE (R351). -/
  | cqEnable (p : Fin 4) (ring : Fin 64) (v : Word)
  /-- CQ_DISABLE (R351). -/
  | cqDisable (p : Fin 4) (ring : Fin 64) (v : Word)
  /-- ATTENTION_ACK (R400). -/
  | attentionAck (p : Fin 4)
  /-- FLT_ACK (R400). -/
  | fltAck (v : Word)
  /-- DECK_OWNER_WRITE (R97). -/
  | deckOwnerWrite (deck : Nat) (v : Word)
  /-- DECK_OWNER_CHANGE (R97). -/
  | deckOwnerChange (deck : Nat)
  /-- PWR_CFG_WRITE (R382). -/
  | pwrCfgWrite (v : Word)
  /-- INJ_CTRL_ARM (R406). -/
  | injCtrlArm (v : Word)
  /-- INJ_LOCK (R406). -/
  | injLock (v : Word)
  /-- SELFTEST_GO (R409). -/
  | selftestGo (v : Word)
  /-- PT_COMMIT_GO (R434). -/
  | ptCommitGo (v : Word)
  /-- PARTITION_TABLE_APPLY (R434). -/
  | partitionTableApply
  /-- REGION_DORMANT_ENTRY (R440). -/
  | regionDormantEntry (r : Fin 4) (v : Word)
  /-- REGION_DORMANT_EXIT (R439). -/
  | regionDormantExit (r : Fin 4) (v : Word)
  /-- HIBERNATE_ENTRY (R440). -/
  | hibernateEntry
  /-- HIBERNATE_EXIT (R439). -/
  | hibernateExit
  /- Register accesses (R10, R347, R432). -/
  /-- RC_REGISTER_READ (R10). -/
  | rcRegisterRead (src : Agent) (da : BitVec 48) (size : Nat)
  /-- LATCHED_HIGH_READ (R347). -/
  | latchedHighRead (p : Fin 4) (offset : Nat)
  /-- REGISTER_WRITE (R10). -/
  | registerWrite (p : Fin 4) (bar : Bar) (offset size : Nat) (v : DWord)
  /-- REG_READ (R432). -/
  | regRead (da : BitVec 48) (size : Nat)
  /-- REG_WRITE (R432). -/
  | regWrite (da : BitVec 48) (size : Nat) (v : DWord)
  /-- DUMP_READ (R432). -/
  | dumpRead (da : BitVec 48) (len : Nat)
  /- Management (R414-R433). -/
  /-- DEVICE_RESET_MESSAGE (R432). -/
  | deviceResetMessage (up : StartUp)
  /-- STATUS (R432). -/
  | status
  /-- LC_TRANSITION (R426). -/
  | lcTransition (target : LifeCycle) (lc : Bool) (up : StartUp)
  /-- ERASE_ALL (R426). -/
  | eraseAll
  /-- KEY_SET (R428). -/
  | keySet (slot : Fin 32) (owner : Fin 4) (key : List Byte)
  /-- KEY_CLEAR (R428). -/
  | keyClear (slot : Fin 32)
  /-- KEY_REVOKE (R419). -/
  | keyRevoke (index : Fin 4)
  /-- CERT_WRITE (R432). -/
  | certWrite (cert : List Byte)
  /-- MCTP_CONTROL (R431). -/
  | mctpControl (code : Byte) (data : List Byte)
  /-- SMBUS_FALLBACK (R431). -/
  | smbusFallback
  /-- GET_SENSOR_READING (R433). -/
  | getSensorReading (sensor : Nat) (events : Option Bool)
  /-- REQUEST_UPDATE (R420). -/
  | requestUpdate (imageBytes : Nat)
  /-- REQUEST_FIRMWARE_DATA (R420). -/
  | requestFirmwareData (offset : Nat) (data : List Byte) (last : Bool)
  /-- APPLY_COMPLETE (R420). -/
  | applyComplete (ok : Bool)
  /-- ACTIVATE_FIRMWARE (R420). -/
  | activateFirmware (up : StartUp)
  /-- FUSE_BLOW (R418). -/
  | fuseBlow
  /-- ALIAS_CERT_SIGN (R421). -/
  | aliasCertSign
  /-- GET_VERSION (R422). -/
  | getVersion
  /-- GET_CAPABILITIES (R422). -/
  | getCapabilities
  /-- NEGOTIATE_ALGORITHMS (R422). -/
  | negotiateAlgorithms (hash asym : BitVec 32) (ext : List ExtAsym)
  /-- GET_DIGESTS (R422). -/
  | getDigests
  /-- GET_CERTIFICATE (R422). -/
  | getCertificate (slot offset len : Nat)
  /-- CHALLENGE (R422). -/
  | challenge (nonce : List Byte)
  /-- GET_MEASUREMENTS (R423). -/
  | getMeasurements (index : Nat) (signed : Bool) (nonce : List Byte)
  /-- RESPOND_IF_READY (R422). -/
  | respondIfReady (token : Nat)
  /-- TIME_FREQ_RESTORED (R33). -/
  | timeFreqRestored
  /-- COMMAND_COMPLETION_WATCHDOG (R396). -/
  | commandCompletionWatchdog (core : Fin 256)
  /-- MANAGEMENT_WATCHDOG_EXPIRY (R396). -/
  | managementWatchdogExpiry
  /-- JTAG_INSTRUCTION (R454). -/
  | jtagInstruction (instr : JtagInstr)
  /-- HOST_READ_COMPLETION (R224). -/
  | hostReadCompletion (p : Fin 4) (addr : DWord) (data : List Byte)
  /-- DYNAMIC_ADDRESS_ASSIGNMENT (R431). -/
  | dynamicAddressAssignment (addr : BitVec 7)
  deriving DecidableEq, Repr

end Sys2Proof
end

