-- ==== Sys2Proof/Decode.lean ====
section
/-!
DEFINITION. Sys2Proof/Decode.lean: the command that a word spells by the bits of the table of operations and events. No row of
the table gives bits, so no word spells a command.
-/
namespace Sys2Proof

/-- The command that the word w of nbits bits spells: none, since no row gives bits. -/
def decodeTableWord (_nbits _w : Nat) : Option Instr := none

end Sys2Proof
end

