-- ==== Sys2Proof/Machine/Bits.lean ====
section
/-!
DEFINITION. Sys2Proof/Machine/Bits.lean: bit fields, sign extension and byte order (R9, R10, R57).
-/
namespace Sys2Proof.Machine

/-- Bits [hi:lo] of a number. -/
def bitsOf (x hi lo : Nat) : Nat := (x >>> lo) % 2 ^ (hi + 1 - lo)

/-- Field [hi:lo] of a register or word, as a number. -/
def fld {n : Nat} (v : BitVec n) (hi lo : Nat) : Nat := bitsOf v.toNat hi lo

/-- Bit i of a register as a Bool. -/
def bitAt {n : Nat} (v : BitVec n) (i : Nat) : Bool := v.getLsbD i

/-- v with field [hi:lo] replaced by the low bits of x. -/
def setFld {n : Nat} (v : BitVec n) (hi lo x : Nat) : BitVec n :=
  let mask := (2 ^ (hi + 1 - lo) - 1) <<< lo
  (v &&& ~~~(BitVec.ofNat n mask)) ||| (BitVec.ofNat n ((x % 2 ^ (hi + 1 - lo)) <<< lo))

/-- The two's complement value of the low w bits of x. -/
def signed (w x : Nat) : Int :=
  let y := x % 2 ^ w
  if 0 < w ∧ 2 ^ (w - 1) ≤ y then (y : Int) - (2 ^ w : Nat) else (y : Int)

/-- The w-bit two's complement code of an integer. -/
def unsigned (w : Nat) (x : Int) : Nat := (x % ((2 ^ w : Nat) : Int)).toNat

/-- The number that bytes spell, lowest address first (R9). -/
def leNat : List Byte → Nat
  | [] => 0
  | b :: bs => b.toNat + 256 * leNat bs

/-- The k bytes of a number, lowest address first (R9). -/
def toLe : Nat → Nat → List Byte
  | 0, _ => []
  | k + 1, n => BitVec.ofNat 8 n :: toLe k (n / 256)

/-- ceil(a / b) for b > 0. -/
def ceilDiv (a b : Nat) : Nat := (a + b - 1) / b

/-- 1 for true. -/
def b2n (b : Bool) : Nat := if b then 1 else 0

/-- Saturating increment of a w-bit counter by k. -/
def satAdd {w : Nat} (v : BitVec w) (k : Nat) : BitVec w :=
  if v.toNat + k < 2 ^ w then BitVec.ofNat w (v.toNat + k) else BitVec.allOnes w

/-- The list of the first n values of f. -/
def tabulate {α : Type} (n : Nat) (f : Nat → α) : List α := (List.range n).map f

/-- Split a list into consecutive pieces of n elements; fuel is the list's length. -/
def chunksGo {α : Type} (n : Nat) : Nat → List α → List (List α)
  | 0, _ => []
  | _ + 1, [] => []
  | fuel + 1, l => l.take n :: chunksGo n fuel (l.drop n)

def chunks {α : Type} (n : Nat) (l : List α) : List (List α) := chunksGo n l.length l

/-- Element i of a packed little-endian stream of w-bit elements (R57). -/
def packedAt (w : Nat) (bs : List Byte) (i : Nat) : Nat := bitsOf (leNat bs) (w * i + w - 1) (w * i)

/-- Pack w-bit codes into bytes as a little-endian bit stream of k bytes (R57). -/
def packBits (w k : Nat) (cs : List Nat) : List Byte :=
  toLe k (cs.foldr (fun c acc => c % 2 ^ w + 2 ^ w * acc) 0)

/-- All w-bit codes of a byte row, n of them (R57). -/
def unpackBits (w n : Nat) (bs : List Byte) : List Nat :=
  let x := leNat bs
  tabulate n fun i => bitsOf x (w * i + w - 1) (w * i)

/-- Replace element i of a list. -/
def setAt {α : Type} (l : List α) (i : Nat) (v : α) : List α := l.set i v

end Sys2Proof.Machine
end

