-- ==== Sys2Proof/Machine/Flags.lean ====
section
/-!
DEFINITION. Sys2Proof/Machine/Flags.lean: status codes (R375), reproducibility classes and event bits (R315, R365), and how they
join.
-/
namespace Sys2Proof.Machine

/-! ## Status codes (R375) -/

def stSuccess : Nat := 0x00
def stAborted : Nat := 0x01
def stDeadline : Nat := 0x02
def stBadDescriptor : Nat := 0x03
def stBadStream : Nat := 0x04
def stStreamFailed : Nat := 0x05
def stAccessDenied : Nat := 0x06
def stQuotaExceeded : Nat := 0x07
def stNoInput : Nat := 0x08
def stPlanBusy : Nat := 0x09
def stNoSlot : Nat := 0x0A
def stPlanInvalid : Nat := 0x0B
def stPlanConflict : Nat := 0x0C
def stSeqFault : Nat := 0x0D
def stFormatError : Nat := 0x0E
def stBoundFault : Nat := 0x0F
def stDeckState : Nat := 0x10
def stWearLimit : Nat := 0x11
def stProgramFail : Nat := 0x12
def stArrayUncorrectable : Nat := 0x13
def stDcmLost : Nat := 0x14
def stDcmUncorrectable : Nat := 0x15
def stSpadUncorrectable : Nat := 0x16
def stAuthFailed : Nat := 0x17
def stCorpusFull : Nat := 0x18
def stDeckLive : Nat := 0x19
def stHostDmaError : Nat := 0x1A
def stRegionReset : Nat := 0x1B
def stContextExceeded : Nat := 0x1C

/-! ## Events (R365), as masks -/

def evClip : Nat := 1
def evSaturated : Nat := 2
def evCorrOverflow : Nat := 4
def evBoundFail : Nat := 8
def evCalOff : Nat := 16
def evOverflow : Nat := 32
def evNonfinite : Nat := 64
def evReplayed : Nat := 128

/-- A class with its events (R161, R315). -/
structure Grade2 where
  klass : Nat
  events : Nat
  deriving DecidableEq, Repr

/-- Nothing happened: class 0, no event. -/
def Grade2.none : Grade2 := { klass := 0, events := 0 }

/-- The largest class and the union of the events (R161). -/
def Grade2.join (a b : Grade2) : Grade2 := { klass := max a.klass b.klass, events := a.events ||| b.events }

/-- A class 2 event. -/
def Grade2.event (e : Nat) : Grade2 := { klass := 2, events := e }

/-- Class 2 with an event where a condition holds. -/
def Grade2.when (b : Bool) (e : Nat) : Grade2 := if b then .event e else .none

end Sys2Proof.Machine
end

