-- ==== Sys2Proof/Config.lean ====
section
/-!
DEFINITION. Sys2Proof/Config.lean: what the manual leaves open. Every constant here is opaque and has no body, so no
proof can see a value of it: a statement that holds of the model holds for every value of these constants.
Each is named in a log entry.
-/
namespace Sys2Proof.Config

/-- A free integer. The first argument is `State.freeCtr` at the command, the second numbers the values that one command
takes. Used for analogue errors, undefined contents and unstated fields (log entry 3, DESIGN CHOICE). -/
opaque free : Nat → Nat → Int

/-- The bits of an FP32 NaN that the device produces: the manual says which results are NaN and not which NaN (log 20). -/
opaque nanBits : Word

/-- Candidate results of the fixed algorithms of R269: each is limited to the bound of that rule where it is used (log 21). -/
opaque expBits : Word → Word
opaque sigmoidBits : Word → Word
opaque erfBits : Word → Word
opaque recipBits : Word → Word
opaque rsqrtBits : Word → Word
opaque siluBits : Word → Word
opaque geluBits : Word → Word

/-- SLH-DSA-SHAKE-256s verification of a message under a public key, as FIPS 205 defines it (R415). The standard is named and
not restated by the manual, so the function is left uninterpreted (log 22). -/
opaque slhDsaVerify : List Byte → List Byte → List Byte → Bool

/-- SLH-DSA-SHAKE-256s signature of a message under a key seed (R421, R422), with the value of the free counter as randomness (log 22). -/
opaque slhDsaSign : List Byte → List Byte → Nat → List Byte

/-- SLH-DSA public key, 64 B, of the 96 B of key material of R421 (log 22). -/
opaque slhDsaPublic : List Byte → List Byte

/-- The X.509 v3 encoding of the alias certificate over a public key, before its signature (R421; log 22). -/
opaque aliasTbs : List Byte → List Byte

/-- The Serosturn root certificate of slot 0 (R422; log 22). -/
opaque rootCert : List Byte

/-- The device-unique secret generated on the transition to PROVISIONED from the device's own entropy (R421). -/
opaque entropy : Nat → List Byte

/-- The boot ROM measurement fused at test (R423 index 0x01). -/
opaque bootRomDigest : List Byte

/-- The configuration measurement of R423 index 0x05: SHA3-256 over the parts that the manual lists, whose layout it does not
state (log 31). -/
opaque configMeasurement : List Byte → List Byte

/-- Silicon stepping (R349 DEV_INFO, R454 IDCODE names stepping 0 as an example). -/
opaque stepping : BitVec 4

/-- The device serial number, a fuse (R349, R414). -/
opaque serial : DWord

/-- Byte k of the 16 reference cells of a word-line that serve drift measurement: known level patterns that the manual does not list
(R92, R148; log 110). -/
opaque driftPattern : Nat → Nat → Byte

/-- The 126 parity bits of the row code over a row's 8,192 digit bits (R108). The manual names the code and not its generator (log 110). -/
opaque bchParity : List Byte → BitVec 126

/-- The places of the frames of a slot page, as the plan of this image lays them out: logical core, logical DCM and frame number of each. The
plan places pages (R297) and no section of its container says where (log entry 81). -/
opaque pageFrames (image : List Byte) (slot page : Nat) : List (Nat × Nat × Nat)

/-- The kind of frame, key, value or scale (modulo 3), that a DCM of a core holds under a plan (R190; log entry 81). -/
opaque pageKind (image : List Byte) (core dcm : Nat) : Nat

/-- The gain and offset temperature coefficients of a stack, by 24 x core + stack, measured at test (R151; log 111). -/
opaque tempCoefs : Nat → Int × Int

/-- The fused voltages of V/F point v in mV, VDD_CORE then VDD_SRAM (R378). -/
opaque vfCore : Nat → BitVec 10
opaque vfSram : Nat → BitVec 10

end Sys2Proof.Config
end

