-- ==== Sys2Proof/Machine/SMap.lean ====
section
/-!
DEFINITION. Sys2Proof/Machine/SMap.lean: sparse maps and memories. A map lists (key, value) pairs with keys strictly rising and
no value equal to what an unlisted key reads as, so equal maps are equal data.
-/
namespace Sys2Proof.Machine

/-- A sparse map: keys strictly rising, no entry equal to the default that an unlisted key reads as. -/
abbrev SMap (α : Type) := List (Nat × α)

/-- The value at key k, d where k is not listed. -/
def sget {α : Type} (d : α) : SMap α → Nat → α
  | [], _ => d
  | (k', v) :: m, k => if k' = k then v else sget d m k

/-- Remove every entry of key k. -/
def sdel {α : Type} : SMap α → Nat → SMap α
  | [], _ => []
  | (k', v) :: m, k => if k' = k then sdel m k else (k', v) :: sdel m k

/-- Insert or replace the entry of key k, whatever its value. -/
def sins {α : Type} : SMap α → Nat → α → SMap α
  | [], k, v => [(k, v)]
  | (k', v') :: m, k, v =>
    if k' = k then (k, v) :: m else if k < k' then (k, v) :: (k', v') :: m else (k', v') :: sins m k v

/-- Write value v at key k; writing the default removes the entry. -/
def sput {α : Type} [DecidableEq α] (d : α) (m : SMap α) (k : Nat) (v : α) : SMap α :=
  if v = d then sdel m k else sins m k v

/-- Replace the value at k by f of it. -/
def smod {α : Type} [DecidableEq α] (d : α) (m : SMap α) (k : Nat) (f : α → α) : SMap α :=
  sput d m k (f (sget d m k))

/-- The keys rise strictly from above lo. -/
def risingFrom {α : Type} : Option Nat → SMap α → Bool
  | _, [] => true
  | none, (k, _) :: m => risingFrom (some k) m
  | some lo, (k, _) :: m => decide (lo < k) && risingFrom (some k) m

/-- The canonical form: keys strictly rising and no entry equal to the default. -/
def swf {α : Type} [DecidableEq α] (d : α) (m : SMap α) : Bool :=
  risingFrom none m && m.all fun e => decide (e.2 ≠ d)

/-- A byte memory: an unlisted address reads as zero (log entry 7, DESIGN CHOICE). -/
abbrev Mem := SMap Byte

/-- The byte at an address. -/
def Mem.byte (m : Mem) (a : Nat) : Byte := sget 0 m a

/-- Store one byte. -/
def Mem.put (m : Mem) (a : Nat) (b : Byte) : Mem := sput 0 m a b

/-- n bytes from address a upward. -/
def Mem.read (m : Mem) (a n : Nat) : List Byte := tabulate n fun i => Mem.byte m (a + i)

/-- Store bytes from address a upward. -/
def Mem.write : Mem → Nat → List Byte → Mem
  | m, _, [] => m
  | m, a, b :: bs => Mem.write (Mem.put m a b) (a + 1) bs

/-- The little-endian number of n bytes at a (R9). -/
def Mem.num (m : Mem) (a n : Nat) : Nat := leNat (Mem.read m a n)

/-- Store the n low bytes of x at a (R9). -/
def Mem.putNum (m : Mem) (a n x : Nat) : Mem := Mem.write m a (toLe n x)

/-- Set n bytes from a to zero: the entries of that range are removed. -/
def Mem.clear (m : Mem) (a n : Nat) : Mem := m.filter fun e => decide (e.1 < a) || decide (a + n ≤ e.1)

/-- The canonical form of a memory. -/
def Mem.wf (m : Mem) : Bool := swf 0 m

end Sys2Proof.Machine
end

