-- ==== Sys2Proof/Machine/State.lean ====
section
/-!
DEFINITION. Sys2Proof/Machine/State.lean: the state of the block as plain data: every register, queue, memory, counter, mode
and pin of the manual, and the queue of commands that wait.
-/
namespace Sys2Proof.Machine

/-- Why a command stops the block with a fault. -/
inductive Fault where
  /-- Raised by TEMPERATURE_READ and CIRQUE_BUDGET_EPOCH when the reading they carry does not have the shape of the manual (eight
  sensors of each region and two of the hub, one energy for each region): no such event exists. Safe: the block stops. -/
  | illFormed
  deriving DecidableEq, Repr

/-- Why a command is refused. -/
inductive Refusal where
  /-- A command whose meaning is not written yet, by its name in the table. Safe: nothing is claimed of it. -/
  | notModelled (mnemonic : String)
  /-- Raised by JTAG_INSTRUCTION: R454 makes every TAP instruction available in BLANK and RMA and says of none but IDCODE and
  BYPASS what it does. Safe: the block stops where the manual says nothing. -/
  | jtagUnstated
  deriving DecidableEq, Repr

/-- The two grades (R1). -/
inductive Grade where
  | szt640
  | szt320
  deriving DecidableEq, Repr

/-! ## Time, beats and the frame -/

/-- States of the time base (R34), in the order of TIME_STATUS.STATE. -/
inductive LockState where
  | free
  | acquiring
  | locked
  | holdover
  deriving DecidableEq, Repr

/-- The time base (R31-R41). Times are device time in ns. -/
structure TimeBase where
  now : Nat
  lock : LockState
  /-- Consecutive accepted edges or successful dialogs within the lock offset (R32). -/
  good : Nat
  /-- Consecutive failed dialogs (R32). -/
  bad : Nat
  lastEdge : Option Nat
  /-- Offset still to be removed right after the last accepted edge (R33). -/
  edgeSlew : Int
  /-- Beat of the last PTM dialog (R32). -/
  dialogAt : Option Nat
  /-- Offset of the first successful dialog while acquiring (R38). -/
  firstDialog : Option Int
  /-- First lock after the reset made (R38). -/
  stepped : Bool
  /-- Offset still to be removed by slewing, ns (R31). -/
  slew : Int
  changedAt : Option Nat
  holdoverAt : Option Nat
  /-- A write of TIME_CTRL that waits for the beat boundary (R37). -/
  ctrlPending : Option Word
  /-- A written BEAT_LEN code that waits for the common boundary (R41). -/
  lenPending : Option Nat
  lenLocked : Bool
  freqPresent : Bool
  ppsPresent : Bool
  epochWritten : Bool
  deriving DecidableEq, Repr

def TimeBase.init : TimeBase :=
  { now := 0, lock := .free, good := 0, bad := 0, lastEdge := none, edgeSlew := 0, dialogAt := none, firstDialog := none,
    stepped := false, slew := 0, changedAt := none, holdoverAt := none, ctrlPending := none, lenPending := none,
    lenLocked := false, freqPresent := false, ppsPresent := false, epochWritten := false }

/-- The schedule frame (R47-R51): the active entries, the shadow entries, index 8 x position + slot. -/
structure Frame where
  active : List Word
  len : Nat
  origin : Nat
  shadow : List Word
  bank : Bool
  /-- A commit that waits for the frame boundary, with its PERSIST bit (R50). -/
  commit : Option Bool
  deriving DecidableEq, Repr

/-! ## Partitions, ports and rings -/

/-- One entry of the partition table (R352, R434). -/
structure PartEntry where
  valid : Bool
  ports : Nat
  share : Nat
  power : Nat
  streams : Nat
  genSlots : Nat
  cachePages : Nat
  maxContext : Nat
  queryInflight : Nat
  queryBatch : Nat
  sram : List Nat
  deriving DecidableEq, Repr

def PartEntry.none : PartEntry :=
  { valid := false, ports := 0, share := 0, power := 0, streams := 0, genSlots := 0, cachePages := 0, maxContext := 0,
    queryInflight := 0, queryBatch := 0, sram := [0, 0, 0, 0] }

/-- A partition entry in the register layout of R352, bytes 0x00-0x3F, as (offset, word). -/
def PartEntry.words (e : PartEntry) (p : Nat) : List (Nat × Word) :=
  let w := fun (o n : Nat) => (o, BitVec.ofNat 32 n)
  [w 0x00 ((if e.valid then 0x80000000 else 0) + 16 * e.ports + p), w 0x04 e.share, w 0x08 e.power,
   w 0x10 e.streams, w 0x14 e.genSlots, w 0x18 e.cachePages, w 0x1C e.maxContext, w 0x20 e.queryInflight, w 0x24 e.queryBatch,
   w 0x30 (e.sram.getD 0 0), w 0x34 (e.sram.getD 1 0), w 0x38 (e.sram.getD 2 0), w 0x3C (e.sram.getD 3 0)]

/-- The partition table in force (R352), and a commit that waits, with its PERSIST bit (R434). -/
structure PartTable where
  entries : List PartEntry
  seq : Nat
  commit : Option Bool
  deriving DecidableEq, Repr

/-- A submission ring (R350, R355-R361). -/
structure SubRing where
  base : DWord
  cfg : Word
  headword : DWord
  /-- The enable that takes effect at the port's next poll (R351). -/
  inEffect : Bool
  head : Word
  held : Bool
  dbErr : Bool
  /-- HEAD, HELD or DB_ERR changed since the last head word (R361). -/
  headDirty : Bool
  tail : Word
  deriving DecidableEq, Repr

def SubRing.init : SubRing :=
  { base := 0, cfg := 0, headword := 0, inEffect := false, head := 0, held := false, dbErr := false, headDirty := false, tail := 0 }

/-- A completion ring (R350, R359, R360). -/
structure CplRing where
  base : DWord
  cfg : Word
  /-- The enable that takes effect at the port's next poll (R351). -/
  inEffect : Bool
  count : Word
  /-- CQ_HEAD as last accepted (R357). -/
  cqHead : Word
  reserved : Nat
  full : Bool
  coal : Word
  unsignalled : Nat
  oldestBeat : Nat
  deriving DecidableEq, Repr

def CplRing.init : CplRing :=
  { base := 0, cfg := 0, inEffect := false, count := 0, cqHead := 0, reserved := 0, full := false, coal := 0, unsignalled := 0, oldestBeat := 0 }

/-- A posted write that waits until the port may issue requests (R343): data, or an MSI-X message. -/
inductive HostWrite where
  | bytes (addr : Nat) (data : List Byte)
  | msix (vec : Nat)
  deriving DecidableEq, Repr

/-- A PCIe port and its function (R338-R353, R437-R439). -/
structure Port where
  present : Bool
  /-- The link is up (R344, R437). -/
  linkUp : Bool
  /-- The function is ready: it answers configuration requests and issues its own (R344). -/
  ready : Bool
  busMaster : Bool
  d3hot : Bool
  /-- D0 has been written and the poll at which the port's work resumes is still to come (R439). -/
  resuming : Bool
  l1 : Bool
  doorbellBase : DWord
  /-- POLL_CTRL as written and as in force since the last beat boundary (R349). -/
  pollCtrl : Word
  cadence : Nat
  eventCtrl : Word
  eventStatus : Word
  setupErr : Word
  readyBeat : Nat
  /-- The latched high halves of 64-bit registers, by offset (R347). -/
  latch : SMap Word
  /-- MSI-X table, 1,024 B, and pending bits (R346). -/
  msix : Mem
  pba : DWord
  sqs : SMap SubRing
  cqs : SMap CplRing
  /-- The ring at which the first round of the previous beat started, and its beat (R358). -/
  lastFirst : Nat
  lastFirstBeat : Option Nat
  thisFirst : Nat
  /-- The instant of the port's last poll (R54, R357). -/
  polledAt : Option Nat
  /-- Host memory as this port has read and written it (log entry 8, DESIGN CHOICE). -/
  host : Mem
  /-- Posted writes that wait while the port may issue no request (R343, R439). -/
  queued : List HostWrite
  /-- Errors logged under AER (R343, R399). -/
  aer : Nat
  deriving DecidableEq, Repr

/-- The MSI-X table at reset: every vector masked, all else 0 (log entry 24, PRESUMED). -/
def msixReset : Mem := (List.range 64).map fun n => (16 * n + 12, 1)

def Port.init : Port :=
  { present := false, linkUp := false, ready := false, busMaster := false, d3hot := false, resuming := false, l1 := false,
    doorbellBase := 0, pollCtrl := 4, cadence := 4, eventCtrl := 0, eventStatus := 0, setupErr := 0, readyBeat := 0, latch := [], msix := msixReset, pba := 0,
    sqs := [], cqs := [], lastFirst := 63, lastFirstBeat := none, thisFirst := 63, polledAt := none, host := [], queued := [], aer := 0 }

/-- How far an admitted command has come. -/
inductive Phase where
  | waiting
  | running
  | finished
  deriving DecidableEq, Repr

/-- An admitted command (R317, R372): its ring and place, its 64 B descriptor and what it has done so far. -/
structure Cmd where
  id : Nat
  port : Nat
  sq : Nat
  cq : Nat
  desc : List Byte
  part : Nat
  admitBeat : Nat
  phase : Phase
  /-- Tokens delivered or cached, bytes moved, decks or steps done. -/
  done : Nat
  /-- Class and events of the result so far (R315, R365). -/
  klass : Nat
  events : Nat
  /-- Positions that the step or chunk in progress caches for it (R299, R301). -/
  joined : Nat
  /-- The status with which it will complete, where something of it has failed already (R361). -/
  fail : Option Nat
  /-- An abort waits for the next step boundary (R292, R437), and whether its completion is discarded (R437). -/
  abort : Bool
  discard : Bool
  /-- Decks that the command programs or erases, in content order, by device deck number (R311, R120). -/
  decks : List Nat
  /-- The install-key slot that an encrypted package names (R119, R428). -/
  keySlot : Option Nat
  /-- What the device has fetched for it: a query and its index list, tags and tombstones of each deck, or a package's CONTENT_DIGEST. -/
  content : List Byte
  deriving DecidableEq, Repr

/-! ## Streams, plans and the corpus -/

/-- States of a stream (R290). -/
inductive StreamState where
  | free
  | idle
  | active
  | closing
  | failed
  deriving DecidableEq, Repr

/-- A stream-table entry (R289), and the committed STEP of a training job (R323). -/
structure Stream where
  state : StreamState
  kind : Nat
  part : Nat
  slot : Option Nat
  pending : Option Word
  abort : Bool
  plan : Nat
  prefill : Nat
  inflight : Nat
  length : Nat
  limit : Nat
  pages : Nat
  classMax : Nat
  events : Nat
  sampling : List Byte
  openBeat : Nat
  lastTime : Nat
  commands : Nat
  units : Nat
  stop : List Word
  trainStep : Nat
  deriving DecidableEq, Repr

def Stream.init : Stream :=
  { state := .free, kind := 0, part := 0, slot := none, pending := none, abort := false, plan := 0, prefill := 0, inflight := 0,
    length := 0, limit := 0, pages := 0, classMax := 0, events := 0, sampling := [], openBeat := 0, lastTime := 0, commands := 0,
    units := 0, stop := [], trainStep := 0 }

/-- A bound generation slot (R293, R297). -/
structure Slot where
  stream : Nat
  allocated : Nat
  deriving DecidableEq, Repr

/-- A loaded plan (R227-R236): its container as it arrived, the partition, the staging window the hub chose, and where in staging the
container arrived, whose CODE section stays there (R15). -/
structure Plan where
  part : Nat
  image : List Byte
  stageBase : Nat
  codeBase : Nat
  /-- Chunks placed in the prefill ring so far (R301). -/
  chunks : Nat
  deriving DecidableEq, Repr

/-- A run in progress (R239-R242), of an admitted command or, for a decode or prefill plan, of the hub (R299). -/
structure Run where
  cmd : Option Nat
  seed : DWord
  /-- Steps begun, and steps completed. -/
  step : Nat
  stepsDone : Nat
  /-- The step in progress, its first beat and its length in beats (R52). -/
  inStep : Bool
  firstBeat : Nat
  beats : Nat
  klass : Nat
  events : Nat
  /-- A fault has ended the replay unit in progress, and whether it has been re-run once (R402). -/
  broken : Bool
  replayed : Bool
  /-- The status with which the run ends where its region was lost or it was aborted (R21, R437). -/
  fail : Option Nat
  deriving DecidableEq, Repr

/-- A change of a corpus that is ready for the next epoch (R310-R314). -/
structure CorpusChange where
  cmd : Nat
  /-- Decks that join, with their corpus deck indices, decks that leave, and vector indices to tombstone. -/
  add : List (Nat × Nat)
  remove : List Nat
  tomb : List Nat
  /-- The command completes with it. -/
  last : Bool
  deriving DecidableEq, Repr

/-- The corpus of a partition (R303): decks as (device deck number, corpus deck index on its slice). -/
structure Corpus where
  decks : List (Nat × Nat)
  tagDcm : Nat
  checkDcm : Nat
  winBase : Nat
  winLen : Nat
  epoch : Word
  changes : List CorpusChange
  /-- The scan service's task number (R304). -/
  task : Nat
  /-- The corpus measurement and its epoch (R424). -/
  measured : Option (Word × List Byte)
  /-- The beat at which the last epoch took effect, the beat at which the present series of batches without a gap began, and the
  boundary at or after the end of its last batch (R310). -/
  epochBeat : Option Nat
  seriesFrom : Nat
  lastEnd : Option Nat
  /-- Corpus deck indices of decks that are being programmed: their check tables are written before they are READY (R109, R303). -/
  placed : List (Nat × Nat)
  deriving DecidableEq, Repr

/-- A query batch in flight (R308). -/
structure Batch where
  cmds : List Nat
  /-- The beat at which it started, or from which it runs again. -/
  start : Nat
  epoch : Word
  /-- It runs again after a fault (R402). -/
  replayed : Bool
  deriving DecidableEq, Repr

/-- A MODEL_INSTALL record (R423). -/
structure Install where
  part : Nat
  decks : List Nat
  digest : List Byte
  deriving DecidableEq, Repr

/-! ## Cores and slices -/

/-- The task's sequencer (R202-R206, R241). -/
inductive SeqState where
  | idle
  | running
  | stallPush (w : CmdWord)
  | waitStep
  | wfi
  | halted
  | stopped
  deriving DecidableEq, Repr

/-- A task's error record (R242, R255). -/
structure ErrRec where
  valid : Bool
  discarding : Bool
  opcode : Nat
  status : Nat
  detail : Word
  beat : Nat
  word : CmdWord
  deriving DecidableEq, Repr

def ErrRec.init : ErrRec :=
  { valid := false, discarding := false, opcode := 0, status := 0, detail := 0, beat := 0, word := 0 }

/-- An array operation that has ended while others of its command still wait to issue (R135): its repeats, the passes that a fill
operation still owes (R135), its class and events, and its results. -/
structure ArrDone where
  rep : Nat
  owed : Nat
  klass : Nat
  events : Nat
  vals : List Int
  deriving DecidableEq, Repr

/-- An operation in flight in the run: a DCM compute by its logical number, or a copy (1,000) (R168, R219): the first and the last cycle in
which it works, its rate in 1/720,720 MAC per cycle, and for a copy the byte ranges it writes and reads. -/
structure Flight where
  unit : Nat
  first : Nat
  last : Nat
  rate : Nat
  dst : List (Nat × Nat)
  src : List (Nat × Nat)
  deriving DecidableEq, Repr

/-- A byte that a command writes to the scratchpad in an access cycle of the run (R209, R212). -/
structure LateWrite where
  cycle : Nat
  addr : Nat
  byte : Byte
  deriving DecidableEq, Repr

/-- A token of a task that counts up in a cycle of the run (R217). -/
structure TokWait where
  task : Nat
  tok : Nat
  cycle : Nat
  deriving DecidableEq, Repr

/-- A task of a core (R200-R206, R229, R230). -/
structure Task where
  valid : Bool
  plan : Nat
  klass : Nat
  part : Nat
  base : Nat
  bound : Nat
  dcmLo : Nat
  dcmHi : Nat
  stageBase : Nat
  stageLen : Nat
  qdepth : Nat
  imemBase : Nat
  imemLen : Nat
  handles : List DWord
  tokens : List Half
  queue : List CmdWord
  /-- Cycle of the run from which each queued command may issue, in the queue's order; the cycle in which the head became the head, and the
  cycle in which the last of the issued commands ends (R206, R217, R254). -/
  pushAt : List Nat
  headFrom : Nat
  endAt : Nat
  cmdLo : DWord
  tokSel : Nat
  xs : List DWord
  pc : Nat
  mcycle : DWord
  minstret : DWord
  seq : SeqState
  err : ErrRec
  phaseTag : Nat
  /-- A PHASE tag that waits for the beat boundary (R254). -/
  phaseNext : Option Nat
  /-- The rounding sequence number, 48 bits (R77). -/
  srSeq : Nat
  doneStep : Bool
  doneEnd : Bool
  doneWords : Option (List Byte)
  deckMap : List Word
  /-- Array operations of the head command that have ended while others of it still wait (R135). -/
  arr : List ArrDone
  /-- rows_left of R141, by 32 x layer + row-block; unlisted: the layer's CORR_ROWS. -/
  rowsLeft : SMap Nat
  /-- Candidates that CORRSEL keeps between chunks, by D's handle number: element index and excess (R249; log entry 61, DESIGN CHOICE). -/
  cands : SMap (List (Nat × Int))
  /-- Barriers the task has issued and waits for, with their done tokens (R254). -/
  barriers : List (Nat × Option Nat)
  /-- Class and events of its commands since the step or run began (R315). -/
  resClass : Nat
  resEvents : Nat
  deriving DecidableEq, Repr

def Task.init : Task :=
  { valid := false, plan := 0, klass := 0, part := 0, base := 0, bound := 0, dcmLo := 0, dcmHi := 0, stageBase := 0, stageLen := 0,
    qdepth := 0, imemBase := 0, imemLen := 0, handles := [], tokens := [], queue := [], pushAt := [], headFrom := 0, endAt := 0, cmdLo := 0, tokSel := 0, xs := List.replicate 32 0, pc := 0,
    mcycle := 0, minstret := 0, seq := .idle, err := ErrRec.init, phaseTag := 0, phaseNext := none, srSeq := 0, doneStep := false,
    doneEnd := false, doneWords := none, deckMap := [], arr := [], rowsLeft := [], cands := [], barriers := [], resClass := 0, resEvents := 0 }

/-- States of a deck (R95), in the order of DECK_PHYS.STATE. -/
inductive DeckState where
  | erased
  | programming
  | incomplete
  | ready
  | erasing
  | retired
  deriving DecidableEq, Repr

/-- A program job of a deck: who programs it, the data still to be programmed and how far it is (R98-R104). -/
structure ProgJob where
  /-- Task of the PROG that holds it, or the host command, or neither for a refresh copy (R114). -/
  task : Option Nat
  cmd : Option Nat
  /-- The next word-line a PROG must name (R251). -/
  nextWl : Nat
  /-- Word-lines accepted and not yet programmed: 1,024 codes each, 17 pages (R98). -/
  data : List (List Byte)
  /-- Accepted PROG commands by their last word-line: each ends when that word-line has closed (R251). -/
  words : List (Nat × CmdWord)
  /-- The deck whose rows a refresh copies into this one, by its physical index within the core (R114). -/
  source : Option Nat
  /-- The table that a PROG named for column checks: DCM and row (R109). -/
  crc : Option (Nat × Nat)
  deriving DecidableEq, Repr

/-- A physical deck (R89-R118). Codes are bytes of 4 base-4 digits in place order; an unlisted byte is 0, four cells at L0. -/
structure Deck where
  cells : Mem
  /-- The bit-lines beside the data, 128 B a word-line, four cells a byte: 384 redundant, 64 reference and 64 check bit-lines (R92). The
  wear count lies on the first 8 reference cells of word-line 0 (R106). -/
  aux : Mem
  /-- Pages programmed, 17 a word-line (R98). -/
  pages : Nat
  state : DeckState
  /-- Retired at the wear limit (R95, R105). -/
  worn : Bool
  drift : Nat
  /-- Beat of the last read-verify; none: not yet since power-up (R113, R116). -/
  verifiedAt : Option Nat
  /-- Replaced bit-lines, each with the redundant bit-line that takes its place (R92, R98, R117). -/
  replaced : List (Nat × Nat)
  /-- Offset and gain estimates of the 16 column groups, keys g and 16 + g, as n / 16^k (R148). -/
  est : SMap (Int × Nat)
  fmt4 : Bool
  colcheck : Bool
  enc : Bool
  noResume : Bool
  patched : List Nat
  standIn : Bool
  job : Option ProgJob
  /-- Erase pulses still to run, whether the erase record of this erase is written (R100), and the host command or the task, with its
  token, that asked; none of them: the device itself. -/
  pulses : Nat
  recorded : Bool
  eraseCmd : Option Nat
  eraseTask : Option Nat
  eraseToken : Option (Nat × Nat)
  /-- The erase is that of a change of ownership whose boundary has passed: the previous users have no rights left (R97). -/
  handover : Bool
  holdsGrant : Bool
  queuedAt : Option Nat
  refreshDue : Bool
  copyDone : Bool
  /-- The install that the deck holds, by its place in the list of installs (R423). -/
  installed : Option Nat
  deriving DecidableEq, Repr

def Deck.init : Deck :=
  { cells := [], aux := [], pages := 0, state := .erased, worn := false, drift := 0, verifiedAt := none, replaced := [], est := [], fmt4 := false, colcheck := false, enc := false,
    noResume := false, patched := [], standIn := false, job := none, pulses := 0, recorded := false, eraseCmd := none,
    eraseTask := none, eraseToken := none, handover := false, holdsGrant := false, queuedAt := none, refreshDue := false, copyDone := false, installed := none }

/-- The trims of a stack at one V/F point (R150, R154): beat and temperature of the re-trim, the largest check residual since, and the
number under which the free values of its comparator offsets, ramp slopes, capacitor ratios and group baselines were taken (log entry 111). -/
structure Trim where
  beat : Nat
  temp : Int
  resid : Nat
  seed : Option Nat
  deriving DecidableEq, Repr

def Trim.init : Trim := { beat := 0, temp := 0, resid := 0, seed := none }

/-- A stack of a slice: which physical position serves each logical deck and the spare (R94, R114), and its converters (R150-R155). -/
structure Stack where
  /-- Physical position of logical deck k, k = 0..7. -/
  pos : List Nat
  spare : Nat
  /-- By V/F point (R154). -/
  trims : SMap Trim
  /-- Column trim latches, by physical position: the number under which a deck's residuals were taken (R152; log entry 111). -/
  colTrims : SMap Nat
  /-- A re-trim in progress: its V/F point and the cycles it still needs (R150). -/
  retrim : Option (Nat × Nat)
  borrow : Bool
  lender : Nat
  lending : Bool
  /-- Instant from which a borrowing stack computes again (R155). -/
  resumeAt : Nat
  /-- The converters have failed and no neighbour can lend (R118). -/
  bankLost : Bool
  deriving DecidableEq, Repr

def Stack.init : Stack :=
  { pos := [0, 1, 2, 3, 4, 5, 6, 7], spare := 8, trims := [], colTrims := [], retrim := none,
    borrow := false, lender := 0, lending := false, resumeAt := 0, bankLost := false }

/-- Operands and errors of a CR operation that carried class 1: what R158 compares a later one with (log entry 112). -/
structure ErrVec where
  weights : Mem
  fmt4 : Bool
  bx : Nat
  codes : List Int
  errs : List Int
  deriving DecidableEq, Repr

/-- A logical DCM of a slice (R166, R182-R188). -/
structure Dcm where
  lost : Bool
  /-- Lost while another rebuild of the slice runs: its own rebuild follows (log entry 44, DEDUCED). -/
  queued : Bool
  /-- The logical number was given up by a rebuild (R187, R238). -/
  gone : Bool
  spareColumns : Nat
  transient : Nat
  /-- Physical tier position serving it; none: its own (R166). -/
  position : Option Nat
  /-- The first of the rows that a second loss in its group has made unrecoverable (R189). -/
  deadFrom : Option Nat
  deriving DecidableEq, Repr

def Dcm.init : Dcm := { lost := false, queued := false, gone := false, spareColumns := 0, transient := 0, position := none, deadFrom := none }

/-- A rebuild in progress (R187): the lost DCM, its target, and the least row that the cursor can stand at. -/
structure Rebuild where
  lost : Nat
  target : Nat
  cursor : Nat
  deriving DecidableEq, Repr

/-- A logical core and its slice (R17, R18, R199). -/
structure Core where
  scratch : Mem
  side : Mem
  imem : Mem
  tasks : List Task
  seqTask : Nat
  seqOn : Bool
  /-- Data DCMs, 512 x 256 KiB, linear (R28); a lost DCM holds nothing. -/
  dcm : Mem
  /-- Parity DCMs, 64 x 256 KiB, one of each group (R166). -/
  parity : Mem
  /-- Spare columns and corrected words of retired positions, by 144 x tier + position (R198). -/
  retired : SMap (Nat × Nat)
  dcms : SMap Dcm
  /-- Logical DCM of each tier's rebuild reserve (R188, R238). -/
  reserves : List (Option Nat)
  consumed : List Nat
  standIn : Option Nat
  standInDeck : Option Nat
  rebuild : Option Rebuild
  /-- Physical decks, 9 x stack + position. -/
  decks : SMap Deck
  stk : SMap Stack
  /-- Engine registers and counters at 0x0004_0000-0x000A_FFFF, by offset. -/
  regs : SMap Word
  /-- Cycle of the current run until which each engine is busy: stacks 0-23, DCMs at 100 + l, the drain 700, the row engine 701, the hold
  buffer of tile-form copies 702; and at 2,000 + l the writes held for DCM l (R93, R168, R179, R219, R256; log entry 10, DEDUCED). -/
  busy : SMap Nat
  /-- The first cycle of the run in which the core may issue, that in which its sequencer may, and that in which fill may (R49, R206). -/
  clock : Nat
  seqClock : Nat
  fillEnd : Nat
  flights : List Flight
  /-- Writes of the run by their access cycles, and the scratchpad before them (R212). `scratch` is what stands once all have landed. -/
  late : List LateWrite
  old : Mem
  tokWait : List TokWait
  /-- Error vectors of earlier CR operations (log entry 112, DESIGN CHOICE). -/
  errLog : List ErrVec
  deriving DecidableEq, Repr

def Core.init : Core :=
  { scratch := [], side := [], imem := [], tasks := [Task.init, Task.init, Task.init, Task.init], seqTask := 0, seqOn := false,
    dcm := [], parity := [], retired := [], dcms := [], reserves := [none, none, none, none], consumed := [], standIn := none, standInDeck := none,
    rebuild := none, decks := [], stk := [], regs := [], busy := [], clock := 0, seqClock := 0, fillEnd := 0, flights := [], late := [], old := [], tokWait := [],
    errLog := [] }

/-- A physical core (R18, R20, R412). -/
inductive PhysState where
  | good
  | retired
  | unusable
  deriving DecidableEq, Repr

/-- A physical core's walker and self-test progress (R408-R412). -/
structure Phys where
  state : PhysState
  range : Nat
  passes : Nat
  /-- Spare rows used of each scratchpad bank (R410). -/
  spareRows : SMap Nat
  /-- Device time until which the walker's range is under test (R411). -/
  walkUntil : Nat
  /-- The period of 2^20 beats of the last field test of a spare, and the slices of kinds 0 and 1 run in it (R409). -/
  period : Nat
  logicSlices : Nat
  memSlices : Nat
  deriving DecidableEq, Repr

def Phys.init : Phys := { state := .good, range := 0, passes := 0, spareRows := [], walkUntil := 0, period := 0, logicSlices := 0, memSlices := 0 }

/-! ## Power, regions and faults -/

/-- Service states of a region (R439, R442), in the order of REGION_PM.STATE. -/
inductive Service where
  | inService
  | entering
  | dormant
  | exiting
  | outOfService
  deriving DecidableEq, Repr

/-- An energy estimate of Cirque (R381): key (1,024 x partition + 256 x task + tag; maintenance is key 4096), beat of its last use,
microjoules per beat. -/
structure Estimate where
  key : Nat
  used : Nat
  uj : Nat
  deriving DecidableEq, Repr

/-- The run in progress in a region (R43, R202): its slots, owner and budget in cycles. -/
structure RegionRun where
  beat : Nat
  first : Nat
  slots : Nat
  klass : Nat
  part : Nat
  budget : Nat
  deriving DecidableEq, Repr

/-- A region (R16, R376-R393, R439). -/
structure Region where
  service : Service
  point : Nat
  /-- A raise in progress: the target point, and the beat it was commanded, none once the voltages have been reached and the region waits
  for a step to begin (R379). -/
  raise : Option (Nat × Option Nat)
  /-- The point to which the frequency falls at a beat boundary (R379). -/
  lower : Option Nat
  /-- Rate level of each partition after every limiter (R393), and as Cirque chose it (R383). -/
  levels : List Nat
  cirque : List Nat
  /-- The point that Cirque chose in DVFS mode (R384). -/
  want : Nat
  /-- Steps by which the thermal ceiling has fallen (R390). -/
  ceiling : Nat
  throttled : Bool
  throttleBeats : Nat
  coolBeats : Nat
  conservative : Option Nat
  offBeats : Nat
  predicted : Nat
  droop : Option Nat
  /-- The hottest sensor, and the two sensors of the charge-trap tiers (R390). -/
  temp : Int
  ctTemp : List Int
  run : Option RegionRun
  estimates : List Estimate
  staticUj : Nat
  deriving DecidableEq, Repr

def Region.init : Region :=
  { service := .inService, point := 0, raise := none, lower := none, levels := [0, 0, 0, 0], cirque := [16, 16, 16, 16], want := 0, ceiling := 0, throttled := false,
    throttleBeats := 0, coolBeats := 0, conservative := none, offBeats := 0, predicted := 0, droop := none, temp := 0, ctTemp := [0, 0], run := none,
    estimates := [], staticUj := 0 }

/-- Device-wide power and thermal state (R376-R393). -/
structure Power where
  /-- Measured energy of past beats, newest first, in microjoules (R382). -/
  history : List Nat
  /-- The last beat in which a rail was below its warning threshold, while a dip lasts (R389). -/
  dip : Option Nat
  brake : Bool
  /-- The instant at which PWR_BRAKE_N rose again (R391). -/
  brakeAt : Nat
  /-- The last reading of each regulator, with which the on-die sensors agree (R380). -/
  readings : List Telemetry
  /-- The beat of the last such readings. -/
  readAt : Option Nat
  /-- Measured energy of the hub in the last beat, microjoules. -/
  hubUj : Nat
  severe : Bool
  coolBeats : Nat
  hubTemp : Int
  /-- A write of PWR_CFG that waits for the beat boundary (R382). -/
  cfgPending : Option Word
  deriving DecidableEq, Repr

def Power.init : Power :=
  { history := [], dip := none, brake := false, brakeAt := 0, readings := [], readAt := none, hubUj := 0, severe := false, coolBeats := 0, hubTemp := 0,
    cfgPending := none }

/-- Events of one instance of a fault source (R396-R400): beats of its last events, its pending acknowledgement and its partitions. -/
structure FaultInst where
  source : Nat
  inst : Nat
  beats : List Nat
  /-- Beat of the L1 event that waits for acknowledgement (R400). -/
  pending : Option Nat
  severe : Bool
  parts : List Nat
  deriving DecidableEq, Repr

/-! ## Stored records, fuses and management -/

/-- A soft repair record (R410): 16 B. -/
abbrev Repair := List Byte

/-- What one record of the configuration stacks holds (R29): region r's repair map, group baselines, wear counts, deck positions and deck
owners; the erase record of a deck; and the device-wide records. -/
inductive CfgData where
  | repairs (r : Nat) (l : List Repair)
  | baselines (r seed : Nat)
  | wear (r : Nat) (m : SMap Nat)
  | swaps (r : Nat) (m : List (Nat × List Nat × Nat))
  | owners (r : Nat) (m : SMap Byte)
  | partTable (t : PartTable)
  | frame (w : List Word)
  | settings (source : Nat) (pwr therm tamper : Option Word)
  | cert (b : List Byte)
  | erase (i count : Nat)
  deriving DecidableEq, Repr

/-- A record as it lies in a stack: contents, sequence number and SHA3-256 digest (R29), and the physical deck and word-lines it takes (R122). -/
structure CfgRecord where
  data : CfgData
  seq : Nat
  digest : List Byte
  deck : Nat
  line : Nat
  lines : Nat
  deriving DecidableEq, Repr

/-- A configuration stack (R29, R122): its live records by kind, the physical decks that serve its 8 data decks, its spare, the
word-lines written and the wear count of each physical deck, and records that wait for room. -/
structure CfgStack where
  records : SMap CfgRecord
  pos : List Nat
  spare : Nat
  used : SMap Nat
  wear : SMap Nat
  waiting : List (CfgData × Nat)
  deriving DecidableEq, Repr

def CfgStack.init : CfgStack := { records := [], pos := [0, 1, 2, 3, 4, 5, 6, 7], spare := 8, used := [], wear := [], waiting := [] }

/-- The configuration records (R29, R30): the values in force, none where no copy is valid, and the four stacks that hold their copies. -/
structure Config where
  repairs : List (List Repair)
  partTable : Option PartTable
  frame : Option (List Word)
  timeSource : Nat
  pwrCfg : Option Word
  thermCfg : Option Word
  tamperCfg : Option Word
  /-- Group baselines, by region: the number under which their free values were taken (log entry 111). -/
  baselines : SMap Nat
  wear : SMap Nat
  cert : List Byte
  /-- Sequence number of the last record written (R29). -/
  seq : Nat
  /-- Compactions done of each region's stack (R122). -/
  compactions : List Nat
  /-- Erase records, deck and count, of erases that have not ended (R100, R104). -/
  erases : List (Nat × Nat)
  cfgStacks : List CfgStack
  deriving DecidableEq, Repr

def Config.init : Config :=
  { repairs := [[], [], [], []], partTable := none, frame := none, timeSource := 0, pwrCfg := none, thermCfg := none, tamperCfg := none,
    baselines := [], wear := [], cert := [], seq := 0, compactions := [0, 0, 0, 0], erases := [],
    cfgStacks := [CfgStack.init, CfgStack.init, CfgStack.init, CfgStack.init] }

/-- Fuses (R410, R414-R426). -/
structure Fuses where
  life : LifeCycle
  keyDigests : List (List Byte)
  revoked : List Bool
  svn : Nat
  secret : List Byte
  /-- Spare columns assigned at test, by 576 x core + logical DCM (R185, R410). -/
  spareColumns : SMap Nat
  deriving DecidableEq, Repr

def Fuses.init : Fuses := { life := .blank, keyDigests := [], revoked := [false, false, false, false], svn := 0, secret := [], spareColumns := [] }

/-- The Vermilion store (R427): install keys with their owners, and the derived key material. -/
structure Vermilion where
  slots : SMap (Option (List Byte × Nat))
  identity : Option (List Byte)
  aliasKey : Option (List Byte)
  certSigned : Option (List Byte)
  deriving DecidableEq, Repr

def Vermilion.init : Vermilion := { slots := [], identity := none, aliasKey := none, certSigned := none }

/-- Progress of a start-up (R345, R416). -/
inductive BootPhase where
  | start
  | failed (code : Nat)
  | booted
  | ready
  deriving DecidableEq, Repr

/-- The running image (R415, R416). -/
structure Boot where
  phase : BootPhase
  keyIndex : Nat
  version : Word
  svn : Nat
  digest : List Byte
  lcEnable : Bool
  strapBif : BitVec 2
  strapPart : BitVec 2
  deriving DecidableEq, Repr

def Boot.init : Boot :=
  { phase := .start, keyIndex := 0, version := 0, svn := 0, digest := [], lcEnable := false, strapBif := 0, strapPart := 0 }

/-- Transport of the sideband (R431). -/
inductive Sideband where
  | none
  | i3c (addr : BitVec 7)
  | smbus
  deriving DecidableEq, Repr

/-- Firmware update (R420). -/
inductive Update where
  | idle
  | receiving (base len : Nat)
  | verified (base len : Nat)
  | applied
  deriving DecidableEq, Repr

/-- A request that needs a signature (R422). -/
inductive SpdmRequest where
  | challenge (nonce : List Byte)
  | measurements (index : Nat) (nonce : List Byte)
  deriving DecidableEq, Repr

/-- A request that received ResponseNotReady, and its token (R422). -/
structure SpdmWait where
  token : Nat
  request : SpdmRequest
  signed : Bool
  deriving DecidableEq, Repr

/-- SPDM answers (R422, R423). -/
inductive SpdmAnswer where
  | version
  | capabilities
  | algorithms (extAsym : Bool)
  | digests (d : List Byte)
  | certificate (data : List Byte)
  | challengeAuth (signature : List Byte)
  | measurements (values : List (Nat × List Byte)) (signature : List Byte)
  | unsupportedRequest
  | notReady (token exponent : Nat)
  | unexpected
  deriving DecidableEq, Repr

/-- Management state (R418-R433). -/
structure Mgmt where
  sideband : Sideband
  /-- Device time of power good, for the 1 s of R431. -/
  powerGoodAt : Nat
  update : Update
  negotiated : Bool
  waiting : Option SpdmWait
  nextToken : Nat
  /-- A signature is being made until this instant (R422). -/
  signUntil : Nat
  eventsOn : Bool
  lastFuse : Nat
  deriving DecidableEq, Repr

def Mgmt.init : Mgmt :=
  { sideband := .none, powerGoodAt := 0, update := .idle, negotiated := false,
    waiting := none, nextToken := 0, signUntil := 0, eventsOn := false, lastFuse := 0 }

/-- Messages the block sends to the outside (R343, R349, R399, R432, R433). -/
inductive Msg where
  /-- MSI-X message of a port. -/
  | msix (port vector : Nat)
  /-- Device Readiness Status (R344). -/
  | drs (port : Nat)
  /-- A read returned to a host. -/
  | hostRead (port : Nat) (data : DWord)
  /-- An AtomicOp completed with Unsupported Request (R342). -/
  | unsupportedRequest (port : Nat)
  /-- AER error reported on a port (R399). -/
  | aer (port : Nat) (fatal : Bool)
  /-- A sideband answer: completion code of R432 and data. -/
  | answer (code : Nat) (data : List Byte)
  /-- PLDM PlatformEventMessage (R433): source and level. -/
  | platformEvent (source level : Nat)
  /-- PLDM firmware update message (R420): command and result. -/
  | update (what result : Nat)
  /-- SPDM answer (R422, R423). -/
  | spdm (a : SpdmAnswer)
  /-- Answer to an MCTP control message (R431). -/
  | mctp (code : Byte)
  /-- PLDM sensor reading (R433): sensor, value, and whether it is above warning and above critical. -/
  | sensor (id : Nat) (value : Int) (warning critical : Bool)
  /-- JTAG data (R454). -/
  | jtag (data : Word)
  /-- FLT_ALIVE pin (R407), THERM_TRIP_N pin (R392). -/
  | pin (name : String) (level : Bool)
  /-- PMBus command of a voltage set point (R379). -/
  | pmbus (region core sram : Nat)
  deriving DecidableEq, Repr

/-- Latches and pins of the whole device (R392, R401, R407). -/
structure Latches where
  tripped : Bool
  l3 : Bool
  fltAlive : Bool
  /-- Instant of the last edge of FLT_ALIVE. -/
  aliveAt : Option Nat
  deriving DecidableEq, Repr

/-- The whole state of the block. -/
structure State where
  /-- The commands that wait, first in first out. -/
  pending : List Instr
  /-- Numbers the free values taken so far: the model's own field (log entry 3, DESIGN CHOICE). -/
  freeCtr : Nat
  /-- Messages sent, newest first. -/
  out : List Msg
  grade : Grade
  latches : Latches
  boot : Boot
  time : TimeBase
  frame : Frame
  /-- Hub register space 0x0010_0000-0x0018_FFFF, by offset from 0x0010_0000. -/
  hub : SMap Word
  ports : List Port
  parts : PartTable
  /-- One more than the last beat that OVERLOAD_BEATS counted, by partition (R318). -/
  overloadBeat : SMap Nat
  cmds : List Cmd
  nextCmd : Nat
  streams : SMap Stream
  slots : SMap Slot
  plans : SMap Plan
  runs : SMap Run
  /-- Cores that have issued a barrier, by 16 x plan + number (R254). -/
  barriers : SMap (List Nat)
  corpora : SMap Corpus
  batches : SMap Batch
  installs : List Install
  staging : Mem
  cores : SMap Core
  /-- Core map of R18: physical core of a logical core (device-wide numbers); an unlisted core has its own, some none is unbound. -/
  coreMap : SMap (Option (Option Nat))
  phys : SMap Phys
  /-- Tasks as they stood when the replay unit of their run began (R402), by 4 x core + task. -/
  snaps : SMap Task
  /-- Cores whose binding changes at the next beat boundary: logical core, adopting physical core, fault source (R20). -/
  adoptions : List (Nat × Nat × Nat)
  /-- Logical cores whose physical core is to be retired before the next unit start of their tasks, with the fault source (R403). -/
  retireDue : SMap Nat
  deckOwner : SMap Byte
  /-- Ownership changes requested: device deck number, DECK_OWNER value (R97). -/
  ownerPending : SMap Byte
  regions : List Region
  power : Power
  faults : List FaultInst
  config : Config
  fuses : Fuses
  verm : Vermilion
  mgmt : Mgmt
  /-- Image in the SPI flash; an unlisted byte is 0xFF (R415). -/
  flash : SMap Byte
  deriving DecidableEq, Repr

/-- Slot entry of the default frame of R51 for one partition: maintenance in slot 7 of beats 5, 11, 17 and 23, else decode with
FILL = 1 of partition p. -/
def defaultEntry (p beat slot : Nat) (regions : Nat) : Word :=
  let b : Nat := if slot = 7 ∧ beat % 6 = 5 then 0x70 else 0x90 + p
  BitVec.ofNat 32 (if regions = 4 then b * 0x01010101 else b * 0x0101)

/-- The default frame of R51, whose whole beats belong to partition 0. -/
def defaultFrame (regions : Nat) : List Word :=
  (List.range 24).flatMap fun beat => (List.range 8).map fun slot => defaultEntry 0 beat slot regions

/-- The strap default of R340 for one partition that owns the four ports, with the figures of R316 and R434. -/
def PartTable.strap0 : PartTable :=
  { entries :=
      [{ valid := true, ports := 0xF, share := 65536, power := 255, streams := 8192, genSlots := 256, cachePages := 16384,
         maxContext := 1048576, queryInflight := 4096, queryBatch := 64, sram := [8192, 8192, 8192, 8192] },
       PartEntry.none, PartEntry.none, PartEntry.none],
    seq := 0, commit := none }

/-- PT_STAGE as it reads for a table in force (R436): the words that are not zero. -/
def stageWords (entries : List PartEntry) : SMap Word :=
  ((List.range 4).flatMap fun p =>
    ((entries.getD p PartEntry.none).words p).map fun x => (0x71000 + 0x80 * p + x.1, x.2)).filter fun x => x.2 != 0

/-- The block right after reset (log entry 5, DESIGN CHOICE): power is good, the boot ROM has not run, nothing is stored. -/
def State.reset : State :=
  { pending := [], freeCtr := 0, out := [], grade := .szt640, latches := { tripped := false, l3 := false, fltAlive := false, aliveAt := none },
    boot := Boot.init, time := TimeBase.init,
    frame := { active := defaultFrame 4, len := 24, origin := 0, shadow := defaultFrame 4, bank := false, commit := none },
    hub := stageWords PartTable.strap0.entries, ports := [{ Port.init with present := true }, { Port.init with present := true }, { Port.init with present := true },
      { Port.init with present := true }],
    parts := PartTable.strap0, overloadBeat := [], cmds := [], nextCmd := 0, streams := [], slots := [], plans := [], runs := [], barriers := [],
    corpora := [], batches := [], installs := [], staging := [], cores := [], coreMap := [], phys := [], snaps := [],
    adoptions := [], retireDue := [], deckOwner := [], ownerPending := [],
    regions := [Region.init, Region.init, Region.init, Region.init], power := Power.init, faults := [], config := Config.init,
    fuses := Fuses.init, verm := Vermilion.init, mgmt := Mgmt.init, flash := [] }

end Sys2Proof.Machine
end

