-- ==== Sys2Proof/Machine/Regs.lean ====
section
/-!
DEFINITION. Sys2Proof/Machine/Regs.lean: where each register lies, its reset value and what a write may change (R10). Hub offsets
count from 0x0010_0000, core offsets are register offsets of DA class 0xF, port offsets are BAR0 offsets.
-/
namespace Sys2Proof.Machine

/-! ## Hub registers -/

/-- R55. -/
def rTimeCtrl : Nat := 0x00000
def rTimeStatus : Nat := 0x00004
def rTimeEvents : Nat := 0x00008
def rDeviceTime : Nat := 0x00010
def rBeatNumber : Nat := 0x00018
def rPhaseOffset : Nat := 0x00020
def rFreqOffset : Nat := 0x00024
def rHoldoverLimit : Nat := 0x00028
def rEpochSeconds : Nat := 0x00030
def rBeatCfg : Nat := 0x00040
def rFrameCfg : Nat := 0x00044
def rFrameCommit : Nat := 0x00048
def rFrameStatus : Nat := 0x0004C
def rFrameOrigin : Nat := 0x00050
def rOverrunCount : Nat := 0x00058
def rGuardLow : Nat := 0x0005C
def rSlotShadow : Nat := 0x01000
def rSlotActive : Nat := 0x01800

/-- R123. -/
def rArrayCfg : Nat := 0x20000
def rPumpStatus : Nat := 0x20004
def rRefreshCount : Nat := 0x20008
def rColcheckFallback : Nat := 0x2000C
def rUncorrectable : Nat := 0x20010
def rSuspectPage : Nat := 0x20014
def rBchCorrected : Nat := 0x20018
def rRefreshPending : Nat := 0x2001C

/-- R319: 0x40 B per partition. -/
def rService : Nat := 0x40000

/-- R394. -/
def rPwrCfg : Nat := 0x50000
def rPwrStatus : Nat := 0x50004
def rPwrEvents : Nat := 0x50008
def rWindowEnergy : Nat := 0x50010
def rAvgPower : Nat := 0x50018
def rLastBeatPower : Nat := 0x5001C
def rRegionState : Nat := 0x50020
def rThermCfg : Nat := 0x50030
def rDroopCfg : Nat := 0x50034
def rTempMax : Nat := 0x50040
def rDipCount : Nat := 0x50060
def rDisagreeCount : Nat := 0x50064
def rThrottleBeats : Nat := 0x50068
def rBrakeBeats : Nat := 0x5006C
def rDroopCount : Nat := 0x50070
def rIccWait : Nat := 0x50080
def rVfAbandon : Nat := 0x50090
def rVfTable : Nat := 0x50100
def rIccFast : Nat := 0x50140
def rTagSel : Nat := 0x50200
def rTagEst : Nat := 0x50204

/-- R413. -/
def rFltSticky : Nat := 0x60000
def rFltPending : Nat := 0x60008
def rFltAck : Nat := 0x6000C
def rFltCfg : Nat := 0x60010
def rFltStatus : Nat := 0x60014
def rEscalateCount : Nat := 0x60020
def rSevereCount : Nat := 0x60024
def rReplayCount : Nat := 0x60028
def rFltSrcCfg : Nat := 0x60080
def rFltCount : Nat := 0x60100
def rInjCtrl : Nat := 0x60200
def rInjLock : Nat := 0x60204
def rInjStatus : Nat := 0x60208
def rSelftestCtrl : Nat := 0x60300
def rSelftestStatus : Nat := 0x60304
def rSelftestFailDa : Nat := 0x60308
def rSelftestFailBit : Nat := 0x60310
def rScreeCtrl : Nat := 0x60400
def rScreePasses : Nat := 0x60404
def rScreeFail : Nat := 0x60408
def rRepairUsed : Nat := 0x60410

/-- R436. -/
def rLcStatus : Nat := 0x70000
def rBootStatus : Nat := 0x70004
def rKeyStatus : Nat := 0x70008
def rTamperCfg : Nat := 0x70010
def rTamperCause : Nat := 0x70014
def rKeySlots : Nat := 0x70018
def rKeyBusy : Nat := 0x7001C
def rFwDigest : Nat := 0x70020
def rKeyOwner : Nat := 0x70040
def rPtCommit : Nat := 0x70100
def rPtStatus : Nat := 0x70104
def rPtSeq : Nat := 0x70108
def rPtStage : Nat := 0x71000
def rPtActive : Nat := 0x71200

/-- R442. -/
def rResetCause : Nat := 0x80000
def rRegionPm : Nat := 0x80010
def rHibCtrl : Nat := 0x80020
def rHibStatus : Nat := 0x80024

/-- Default WINDOW_LOG2 and N of each fault source (R396). -/
def fltDefault : Nat → Nat × Nat
  | 1 => (6, 16)
  | 3 => (14, 64)
  | 4 => (14, 4)
  | 6 => (14, 64)
  | 7 => (14, 2)
  | 12 => (14, 256)
  | 13 => (14, 4)
  | 15 => (14, 2)
  | 16 => (20, 3)
  | 19 => (12, 8)
  | 21 => (14, 1024)
  | _ => (14, 0)

/-- Reset value of the hub register word at an offset. -/
def hubReset (off : Nat) : Word :=
  if off = rTimeCtrl then 0xA00
  else if off = rHoldoverLimit then 3600
  else if off = rBeatCfg then 2
  else if off = rFrameCfg then 23
  else if off = rGuardLow then 0xFFFFFFFF
  else if off = rArrayCfg then BitVec.ofNat 32 (2700 * 0x10000 + 22 * 0x100 + 16)
  else if off = rPwrCfg then BitVec.ofNat 32 (10 * 2 ^ 18 + 420 * 2 ^ 9 + 350)
  else if off = rThermCfg then 95
  else if off = rDroopCfg then 30
  else if rIccFast ≤ off ∧ off < rIccFast + 32 then (if (off - rIccFast) / 4 % 2 = 0 then 150 else 60)
  else if off = rFltCfg then 128
  else if rFltSrcCfg ≤ off ∧ off < rFltSrcCfg + 128 then
    let d := fltDefault ((off - rFltSrcCfg) / 4)
    BitVec.ofNat 32 (d.1 * 0x10000 + d.2)
  else if off = rScreeCtrl then 1
  else if off = rTamperCfg then 0x0F
  else if rRegionPm ≤ off ∧ off < rRegionPm + 16 then 2
  else 0

/-- Bits of a hub register word that a sideband write sets (RW; RWL while unlocked). -/
def hubRw (off : Nat) : Word :=
  if off = rTimeCtrl then 0x000F0FCB
  else if off = rHoldoverLimit then 0xFFFFFFFF
  else if off = rEpochSeconds ∨ off = rEpochSeconds + 4 then 0xFFFFFFFF
  else if off = rBeatCfg then 3
  else if off = rFrameCfg then 0x3F
  else if rSlotShadow ≤ off ∧ off < rSlotShadow + 0x800 then 0xF3F3F3F3
  else if off = rArrayCfg then 0x0FFF1F3F
  else if off = rPwrCfg then 0x877FFFFF
  else if off = rThermCfg then 0x7F
  else if off = rDroopCfg then 0x3F
  else if rIccFast ≤ off ∧ off < rIccFast + 32 then 0x3FF
  else if off = rTagSel then 0x3FFF
  else if off = rFltCfg then 0xFFFF
  else if rFltSrcCfg ≤ off ∧ off < rFltSrcCfg + 128 then 0x001F07FF
  else if off = rInjCtrl then 0xFFFFFFFF
  else if off = rInjLock then 1
  else if off = rSelftestCtrl then 0xFFFFE000
  else if off = rScreeCtrl then 1
  else if off = rTamperCfg then 0x8000001F
  else if rPtStage ≤ off ∧ off < rPtStage + 0x200 then
    match (off - rPtStage) % 0x80 with
    | 0x00 => 0x800000F3
    | 0x04 => 0x1FFFF
    | 0x08 => 0xFF
    | o => if (0x10 ≤ o ∧ o < 0x28) ∨ (0x30 ≤ o ∧ o < 0x40) then 0xFFFFFFFF else 0
  else if rRegionPm ≤ off ∧ off < rRegionPm + 16 then 3
  else if off = rHibCtrl then 1
  else 0

/-- Bits of a hub register word that a write of 1 clears (RW1C and RWS). -/
def hubW1c (off : Nat) : Word :=
  if off = rTimeEvents then 0xF
  else if off = rFrameStatus then 0xF0
  else if off = rPwrEvents then 0x3F
  else if off = rFltSticky then 0xFFFFFFFF
  else if off = rTamperCause then 0x1F
  else if off = rPtStatus then 0xF0
  else if off = rResetCause then 0xFF
  else 0

/-- Words of the hub register space that a read returns to the reset value (RC). -/
def hubRc (off : Nat) : Bool :=
  off == rOverrunCount || off == rGuardLow || off == rRefreshCount || off == rColcheckFallback || off == rUncorrectable
  || off == rSuspectPage || off == rBchCorrected
  || (decide (rService ≤ off ∧ off < rService + 0x100) && ((off - rService) % 0x40 == 0x10 || (off - rService) % 0x40 == 0x14))
  || off == rDipCount || off == rDisagreeCount || off == rThrottleBeats || off == rBrakeBeats
  || decide (rDroopCount ≤ off ∧ off < rIccWait + 0x10) || off == rVfAbandon
  || off == rEscalateCount || off == rSevereCount || off == rReplayCount || decide (rFltCount ≤ off ∧ off < rFltCount + 0x80)
  || off == rScreePasses || off == rScreeFail

/-! ## Core registers: offsets of DA class 0xF (R124, R163, R197, R225, R255, R286, R413) -/

def cDeckPhys : Nat := 0x40000
def cDeckOwner : Nat := 0x40400
def cDeckInfo : Nat := 0x40800
def cAfeCtrl : Nat := 0x50000
def cAfeStatus : Nat := 0x50004
def cCrOps : Nat := 0x50010
def cPwOps : Nat := 0x50018
def cPwtOps : Nat := 0x50020
def cClipCount : Nat := 0x50028
def cRepeatCount : Nat := 0x5002C
def cSatCount : Nat := 0x50030
def cCorrCount : Nat := 0x50034
def cCorrOverflow : Nat := 0x50038
def cAlignCount : Nat := 0x5003C
def cBoundRetry : Nat := 0x50040
def cGated : Nat := 0x50048
def cLayerTbl : Nat := 0x50100
def cStaticSet : Nat := 0x50200
def cStackCal : Nat := 0x50600
def cDcmCtrl : Nat := 0x60000
def cDcmStatus : Nat := 0x60004
def cRebuildStatus : Nat := 0x60008
def cComputeOps : Nat := 0x60010
def cMacCount : Nat := 0x60018
def cSecdedCorrected : Nat := 0x60020
def cParityRead : Nat := 0x60024
def cResidueMismatch : Nat := 0x60028
def cResidueRepeat : Nat := 0x6002C
def cHoldStall : Nat := 0x60030
def cLimitWait : Nat := 0x60034
def cScrubWrite : Nat := 0x60038
def cValignCount : Nat := 0x6003C
def cReserve : Nat := 0x60040
def cDcmMap : Nat := 0x60400
def cCoreStatus : Nat := 0x70000
def cCopyBytes : Nat := 0x70010
def cCopyFallback : Nat := 0x70018
def cFormatError : Nat := 0x7001C
def cBoundFault : Nat := 0x70020
def cSpadCorrected : Nat := 0x70024
def cFenceWait : Nat := 0x70028
def cBankConflict : Nat := 0x70040
def cTask : Nat := 0x70100
def cToken : Nat := 0x70200
def cErr : Nat := 0x80000
def cDrainStatus : Nat := 0x90000
def cDrainOps : Nat := 0x90010
def cSrElements : Nat := 0x90018
def cAccOverflow : Nat := 0x90020
def cAccRepeat : Nat := 0x90024
def cAccSat : Nat := 0x90028
def cQuantSat : Nat := 0x9002C
def cNonfinite : Nat := 0x90030
def cExpAlign : Nat := 0x90034
def cFiltered : Nat := 0x90038
def cSideCorrected : Nat := 0x9003C
def cFltCount : Nat := 0xA0000

/-- Reset value of a core register word. -/
def coreReset (off : Nat) : Word :=
  if off = cAfeCtrl then 0x1F else if off = cDcmCtrl then 0x118 else 0

/-- Bits of a core register word that a sideband write sets (R10, R124, R163, R197); DECK_OWNER is handled apart. -/
def coreRw (off : Nat) : Word :=
  if off = cAfeCtrl then 0x1F else if off = cDcmCtrl then 0x11F
  else if cLayerTbl ≤ off ∧ off < cLayerTbl + 0x80 then (if off % 8 = 0 then 0xFFFFCF07 else 0xFFFFFFE0)
  else if cStaticSet ≤ off ∧ off < cStaticSet + 0x400 then 0xFFFFFFFF else 0

/-- Core register words that a read returns to the reset value (RC). -/
def coreRc (off : Nat) : Bool :=
  decide (cClipCount ≤ off ∧ off ≤ cBoundRetry) || decide (cSecdedCorrected ≤ off ∧ off ≤ cValignCount)
  || decide (cCopyFallback ≤ off ∧ off ≤ cFenceWait) || decide (cBankConflict ≤ off ∧ off < cBankConflict + 64)
  || decide (cAccOverflow ≤ off ∧ off ≤ cSideCorrected) || decide (cFltCount ≤ off ∧ off < cFltCount + 60)

end Sys2Proof.Machine
end

