-- ==== Sys2Proof/Machine/Ops.lean ====
section
/-!
DEFINITION. Sys2Proof/Machine/Ops.lean: the named operations over the state: cores, ports, regions, registers, time, messages
and free values. Every other file reads and writes the state through these.
-/
namespace Sys2Proof.Machine

/-! ## Components -/

/-- Logical core n, device-wide (R18). -/
def State.core (s : State) (n : Nat) : Core := sget Core.init s.cores n

/-- Nothing of a run is in flight: what the core has written stands. -/
def Core.settled (c : Core) : Core :=
  { c with busy := [], clock := 0, seqClock := 0, fillEnd := 0, flights := [], late := [], old := [], tokWait := [],
           tasks := c.tasks.map fun t => { t with pushAt := [], headFrom := 0, endAt := 0 } }

def State.setCore (s : State) (n : Nat) (c : Core) : State := { s with cores := sput Core.init s.cores n c }

def Core.task (c : Core) (t : Nat) : Task := c.tasks.getD t Task.init

def Core.setTask (c : Core) (t : Nat) (k : Task) : Core := { c with tasks := c.tasks.set t k }

def State.modCore (s : State) (n : Nat) (f : Core → Core) : State := s.setCore n (f (s.core n))

def State.modTask (s : State) (n t : Nat) (f : Task → Task) : State :=
  s.modCore n fun c => c.setTask t (f (c.task t))

/-- f on every core that the map lists; a core that becomes the initial one is no longer listed. -/
def State.mapCores (s : State) (f : Nat → Core → Core) : State :=
  { s with cores := (s.cores.map fun e => (e.1, f e.1 e.2)).filter fun e => e.2 ≠ Core.init }

def State.port (s : State) (p : Nat) : Port := s.ports.getD p Port.init

def State.setPort (s : State) (p : Nat) (x : Port) : State := { s with ports := s.ports.set p x }

def State.region (s : State) (r : Nat) : Region := s.regions.getD r Region.init

def State.setRegion (s : State) (r : Nat) (x : Region) : State := { s with regions := s.regions.set r x }

def Port.sq (p : Port) (n : Nat) : SubRing := sget SubRing.init p.sqs n
def Port.cq (p : Port) (n : Nat) : CplRing := sget CplRing.init p.cqs n
def Port.setSq (p : Port) (n : Nat) (x : SubRing) : Port := { p with sqs := sput SubRing.init p.sqs n x }
def Port.setCq (p : Port) (n : Nat) (x : CplRing) : Port := { p with cqs := sput CplRing.init p.cqs n x }

def Core.deck (c : Core) (i : Nat) : Deck := sget Deck.init c.decks i
def Core.setDeck (c : Core) (i : Nat) (d : Deck) : Core := { c with decks := sput Deck.init c.decks i d }
def Core.stack (c : Core) (i : Nat) : Stack := sget Stack.init c.stk i
def Core.setStack (c : Core) (i : Nat) (x : Stack) : Core := { c with stk := sput Stack.init c.stk i x }
def Core.dcmInfo (c : Core) (i : Nat) : Dcm := sget Dcm.init c.dcms i
def Core.setDcmInfo (c : Core) (i : Nat) (x : Dcm) : Core := { c with dcms := sput Dcm.init c.dcms i x }

/-- The wear count that a deck carries: 16 bits on the first 8 reference cells of word-line 0 (R106). -/
def Deck.wear (d : Deck) : Nat := d.aux.num 96 2
def Deck.setWear (d : Deck) (n : Nat) : Deck := { d with aux := d.aux.write 96 (toLe 2 n) }

/-- The trims of a stack at a V/F point (R154). -/
def Stack.trim (x : Stack) (v : Nat) : Trim := sget Trim.init x.trims v
def Stack.setTrim (x : Stack) (v : Nat) (t : Trim) : Stack := { x with trims := sput Trim.init x.trims v t }

/-- A physical deck by its device-wide index 216 x core + 9 x stack + position. -/
def State.deck (s : State) (i : Nat) : Deck := (s.core (i / 216)).deck (i % 216)
def State.setDeck (s : State) (i : Nat) (d : Deck) : State := s.modCore (i / 216) fun c => c.setDeck (i % 216) d

/-- The physical position, within the slice, that serves slice deck number d = 8 x stack + logical deck (R94). -/
def Core.deckPos (c : Core) (d : Nat) : Nat := 9 * (d / 8) + (c.stack (d / 8)).pos.getD (d % 8) 0

def State.stream (s : State) (n : Nat) : Stream := sget Stream.init s.streams n
def State.setStream (s : State) (n : Nat) (x : Stream) : State := { s with streams := sput Stream.init s.streams n x }

/-- Lookup and update of maps whose keys are present or absent. -/
def mget {α : Type} : SMap α → Nat → Option α
  | [], _ => none
  | (k', v) :: m, k => if k' = k then some v else mget m k

def State.plan? (s : State) (n : Nat) : Option Plan := mget s.plans n
def State.run? (s : State) (n : Nat) : Option Run := mget s.runs n
def State.setRun (s : State) (n : Nat) (r : Run) : State := { s with runs := sins s.runs n r }
def State.endRun (s : State) (n : Nat) : State := { s with runs := sdel s.runs n }
def State.corpus? (s : State) (p : Nat) : Option Corpus := mget s.corpora p
def State.setCorpus (s : State) (p : Nat) (c : Corpus) : State := { s with corpora := sins s.corpora p c }

def State.cmd? (s : State) (id : Nat) : Option Cmd := s.cmds.find? fun c => c.id == id
def State.setCmd (s : State) (c : Cmd) : State :=
  { s with cmds := s.cmds.map fun x => if x.id = c.id then c else x }

def State.part (s : State) (p : Nat) : PartEntry := s.parts.entries.getD p PartEntry.none

/-! ## Grade (R1-R3) -/

def State.nRegions (s : State) : Nat := if s.grade = .szt640 then 4 else 2
def State.nCores (s : State) : Nat := 64 * s.nRegions
def State.nStreams (s : State) : Nat := if s.grade = .szt640 then 8192 else 4096
def State.nSlots (s : State) : Nat := if s.grade = .szt640 then 256 else 128

/-- The region of a device-wide core. -/
def regionOf (core : Nat) : Nat := core / 64

/-- The physical core, device-wide 68 x region + number, that serves a logical core (R18); none: unbound (R21). -/
def State.physOf (s : State) (core : Nat) : Option Nat :=
  match sget none s.coreMap core with
  | none => some (68 * (core / 64) + core % 64)
  | some b => b

/-- Step 4 of a firmware update is under way: the flash is being erased and written (R420). -/
def Mgmt.applying (m : Mgmt) : Bool := match m.update with
  | .verified _ _ => true
  | _ => false

/-- A reset that comes between VerifyComplete and ApplyComplete cuts the writing of the flash, whose erase has begun: no valid image is left
(R420; log entry 34, DEDUCED). -/
def State.cutFlash (s : State) : SMap Byte := if s.mgmt.applying then [] else s.flash
def State.cutUpdate (s : State) : State := { s with flash := s.cutFlash }

def State.physCore (s : State) (p : Nat) : Phys := sget Phys.init s.phys p
def State.setPhys (s : State) (p : Nat) (x : Phys) : State := { s with phys := sput Phys.init s.phys p x }

/-! ## Registers -/

def State.hubWord (s : State) (off : Nat) : Word := sget (hubReset off) s.hub off
def State.setHub (s : State) (off : Nat) (v : Word) : State := { s with hub := sput (hubReset off) s.hub off v }
def State.hubOr (s : State) (off : Nat) (v : Word) : State := s.setHub off (s.hubWord off ||| v)
def State.hubInc (s : State) (off k : Nat) : State := s.setHub off (satAdd (s.hubWord off) k)

/-- A 64-bit hub register of two words. -/
def State.hub64 (s : State) (off : Nat) : Nat := (s.hubWord off).toNat + 2 ^ 32 * (s.hubWord (off + 4)).toNat
def State.setHub64 (s : State) (off n : Nat) : State :=
  (s.setHub off (BitVec.ofNat 32 n)).setHub (off + 4) (BitVec.ofNat 32 (n / 2 ^ 32))

def Core.reg (c : Core) (off : Nat) : Word := sget (coreReset off) c.regs off
def Core.setReg (c : Core) (off : Nat) (v : Word) : Core := { c with regs := sput (coreReset off) c.regs off v }

/-- A saturating 32-bit counter of a core (R397). -/
def Core.inc (c : Core) (off k : Nat) : Core := if k = 0 then c else c.setReg off (satAdd (c.reg off) k)

def Core.reg64 (c : Core) (off : Nat) : Nat := (c.reg off).toNat + 2 ^ 32 * (c.reg (off + 4)).toNat

/-- A 64-bit counter of a core. -/
def Core.inc64 (c : Core) (off k : Nat) : Core :=
  let n := c.reg64 off + k
  (c.setReg off (BitVec.ofNat 32 n)).setReg (off + 4) (BitVec.ofNat 32 (n / 2 ^ 32))

/-- Current temperature of a stack: the sensor of its charge-trap tier in its region (R94, R151, R390). -/
def State.stackTemp (s : State) (core st : Nat) : Int := (s.region (regionOf core)).ctTemp.getD (st / 12) 0

/-- ARRAY_CFG.DRIFT_WINDOW, 8-24; other values act as 16 (R123). -/
def State.driftWindow (s : State) : Nat :=
  let v := fld (s.hubWord rArrayCfg) 5 0
  if 8 ≤ v ∧ v ≤ 24 then v else 16

/-- The compensation that a stack applies: its gain and offset coefficients times the temperature difference to its last re-trim at the
region's point (R151). -/
def State.tempComp (s : State) (core st : Nat) : Int × Int :=
  let dt := s.stackTemp core st - (((s.core core).stack st).trim (s.region (regionOf core)).point).temp
  let k := Config.tempCoefs (24 * core + st)
  (k.1 * dt, k.2 * dt)

/-! ## Time -/

/-- Beat length in ns of a BEAT_LEN code (R40). -/
def beatNsOf : Nat → Nat
  | 0 => 250000
  | 1 => 125000
  | 2 => 62500
  | _ => 31250

def State.beatCode (s : State) : Nat := fld (s.hubWord rBeatCfg) 1 0
def State.beatNs (s : State) : Nat := beatNsOf s.beatCode
/-- The current beat number (R40). -/
def State.beat (s : State) : Nat := s.time.now / s.beatNs
/-- The instant at which slot k of beat b begins (R40). -/
def State.slotStart (s : State) (b k : Nat) : Nat := b * s.beatNs + k * s.beatNs / 8

/-- Frequency of a V/F point in units of 100 MHz (R42). -/
def vfMhz100 : Nat → Nat
  | 0 => 19
  | 1 => 17
  | 2 => 15
  | 3 => 13
  | 4 => 11
  | 5 => 9
  | 6 => 7
  | _ => 5

/-- Nominal cycles per beat (R42). -/
def cyclesPerBeat (v ns : Nat) : Nat := vfMhz100 v * ns / 10

/-- Budget of a run of n slots (R43). -/
def runBudget (v ns n : Nat) : Nat := n * (cyclesPerBeat v ns - 1250) / 8

/-- Move device time forward, never back (R31). -/
def State.advanceTo (s : State) (t : Nat) : State :=
  { s with time := { s.time with now := if s.time.now < t then t else s.time.now } }

/-- Frame position of a beat, and the slot entry of a region there (R47). -/
def State.framePos (s : State) (b : Nat) : Nat := (b - s.frame.origin) % s.frame.len
def entryByte (e : Word) (r : Nat) : Nat := fld e (8 * r + 7) (8 * r)
def State.slotByte (s : State) (b k r : Nat) : Nat :=
  entryByte (s.frame.active.getD (8 * s.framePos b + k) 0) r
def slotClass (b : Nat) : Nat := bitsOf b 6 4
def slotPart (b : Nat) : Nat := bitsOf b 1 0
def slotFill (b : Nat) : Bool := 0x80 ≤ b

/-- Two slots belong to one run: same class and, but for idle and maintenance, same partition (R43, R47). -/
def sameRun (a b : Nat) : Bool :=
  slotClass a == slotClass b && (slotClass a == 0 || slotClass a == 7 || slotPart a == slotPart b)

/-- The first slot of the run that holds slot k: go down while the slot below belongs to the same run. -/
def runFirst (e : Nat → Nat) : Nat → Nat
  | 0 => 0
  | k + 1 => if sameRun (e k) (e (k + 1)) then runFirst e k else k + 1

/-- Slots from k on that belong to k's run; the fuel is 8 - k. -/
def runLenFrom (e : Nat → Nat) : Nat → Nat → Nat
  | 0, _ => 0
  | fuel + 1, k => if k < 7 ∧ sameRun (e k) (e (k + 1)) then 1 + runLenFrom e fuel (k + 1) else 1

/-- The rate level of a run: the partition's in the region; maintenance 16, or 4 under the brake settings (R385, R391). -/
def State.runLevel (s : State) (r klass part : Nat) : Nat :=
  if klass = 7 then (if s.power.brake || s.power.severe then 4 else 16) else (s.region r).levels.getD part 0

/-- The run that holds slot k of beat b in region r, with the budget of its rate level (R43, R385). -/
def State.runAt (s : State) (b k r : Nat) : RegionRun :=
  let e := fun j => s.slotByte b j r
  let f := runFirst e k
  let n := runLenFrom e 8 f
  { beat := b, first := f, slots := n, klass := slotClass (e f), part := slotPart (e f),
    budget := s.runLevel r (slotClass (e f)) (slotPart (e f)) * runBudget (s.region r).point s.beatNs n / 16 }

/-- Total budget of a partition's runs of a class in beat b in region r (R52). -/
def State.classBudget (s : State) (b r klass part : Nat) : Nat :=
  let mine := fun k => slotClass (s.slotByte b k r) == klass && (slotPart (s.slotByte b k r) == part)
  let starts := (List.range 8).filter fun k => mine k && (k == 0 || !(sameRun (s.slotByte b (k - 1) r) (s.slotByte b k r)))
  (starts.map fun k => (s.runAt b k r).budget).sum

/-- Does the frame hold any slot of the class and partition in region r? -/
def State.ownsClass (s : State) (r klass part : Nat) : Bool :=
  (List.range (8 * s.frame.len)).any fun i =>
    let x := entryByte (s.frame.active.getD i 0) r
    slotClass x == klass && slotPart x == part

/-! ## Free values and messages -/

/-- The i-th free value of this command (log entry 3, DESIGN CHOICE). -/
def State.free (s : State) (i : Nat) : Int := Config.free s.freeCtr i

/-- The free values of a command are taken once. -/
def State.tookFree (s : State) : State := { s with freeCtr := s.freeCtr + 1 }

/-- A free value limited to [lo, hi]. -/
def freeIn (x lo hi : Int) : Int := if hi ≤ lo then lo else if lo ≤ x ∧ x ≤ hi then x else lo

/-- k free bytes. -/
def State.freeBytes (s : State) (k : Nat) : List Byte := tabulate k fun i => BitVec.ofInt 8 (s.free i)

def State.emit (s : State) (m : Msg) : State := { s with out := m :: s.out }

/-- The state with the answer to a sideband message (R432). -/
def State.answer (s : State) (code : Nat) (data : List Byte) : State := s.emit (.answer code data)

/-- Nothing moves by itself: after a trip no clock runs (R392), and at L3 every memory, register and counter stays as it stands
(R401; log entry 30, DEDUCED). -/
def State.dead (s : State) : Bool := s.latches.tripped || s.latches.l3

/-- Issue and port DMA are stopped: a trip, L3 (R401) or a start-up that has not reached DEVICE_READY (R345). -/
def State.serving (s : State) : Bool := !s.latches.tripped && !s.latches.l3 && decide (s.boot.phase = .ready)

/-! ## Ports -/

/-- The port may issue requests: Bus Master Enable is set, the function is in D0 and the link is up (R343, R437, R439). -/
def Port.dmaOn (x : Port) : Bool := x.present && x.linkUp && x.ready && x.busMaster && !x.d3hot && !x.resuming

/-- Post a write to host memory; while the port may issue no request it waits (R343). -/
def State.hostWrite (s : State) (p addr : Nat) (bs : List Byte) : State :=
  let x := s.port p
  if x.dmaOn then s.setPort p { x with host := x.host.write addr bs, l1 := false }
  else s.setPort p { x with queued := x.queued ++ [.bytes addr bs] }

/-- Send a message on a vector: a masked vector sets its pending bit (R346; log entry 24, PRESUMED); while the port may issue no request it
waits (R343). -/
def State.sendMsix (s : State) (p vec : Nat) : State :=
  let x := s.port p
  if x.dmaOn = false then s.setPort p { x with queued := x.queued ++ [.msix vec] }
  else if bitAt (x.msix.byte (16 * vec + 12)) 0 then
    s.setPort p { x with pba := x.pba ||| BitVec.ofNat 64 (2 ^ vec) }
  else s.emit (.msix p vec)

/-- Set a bit of EVENT_STATUS; the event message goes out where the bit was clear and IEN is set (R349). -/
def State.portEvent (s : State) (p bit : Nat) : State :=
  let x := s.port p
  let was := bitAt x.eventStatus bit
  let s := s.setPort p { x with eventStatus := x.eventStatus ||| BitVec.ofNat 32 (2 ^ bit) }
  if !was && bitAt x.eventCtrl 31 && x.present then s.sendMsix p (fld x.eventCtrl 5 0) else s

/-- The partition of a port, none where the table gives it to none (R340). -/
def State.portPart (s : State) (p : Nat) : Option Nat :=
  (List.range 4).find? fun q => (s.part q).valid && Nat.testBit (s.part q).ports p

/-- The ports of a partition. -/
def State.partPorts (s : State) (q : Nat) : List Nat :=
  (List.range 4).filter fun p => (s.port p).present && (s.part q).valid && Nat.testBit (s.part q).ports p

/-- Every port event on a list of ports. -/
def State.portEvents (s : State) (ps : List Nat) (bit : Nat) : State := ps.foldl (fun s p => s.portEvent p bit) s

end Sys2Proof.Machine
end

