-- ==== Sys2Proof/Machine/FaultBase.lean ====
section
/-!
DEFINITION. Sys2Proof/Machine/FaultBase.lean: recording an event of a fault source (R396-R401): sticky bit, counters, history of
the instance, levels, acknowledgement and reporting. What a Severe handling does stands in Repair.lean and Faults.lean.
-/
namespace Sys2Proof.Machine

/-- What holds one instance of a source (R396). -/
inductive Scope where
  | device
  | region
  | core
  | dcm
  | deck
  | stack
  | hop
  deriving DecidableEq, Repr

def scopeOf : Nat → Scope
  | 1 => .region
  | 2 => .region
  | 5 => .region
  | 6 => .core
  | 7 => .core
  | 8 => .core
  | 9 => .core
  | 10 => .core
  | 11 => .core
  | 12 => .dcm
  | 13 => .dcm
  | 14 => .dcm
  | 15 => .deck
  | 16 => .deck
  | 17 => .deck
  | 18 => .stack
  | 19 => .stack
  | 20 => .stack
  | 21 => .hop
  | 22 => .region
  | _ => .device

/-- Device deck number -> core, physical deck index -> core and the like are quotients: the logical core of an instance (R396).
Sources 6 to 8 number physical cores (68 a region): the core they serve is looked up. -/
def State.coreOfInst (s : State) (src inst : Nat) : Nat :=
  match scopeOf src with
  | .core => if src ≤ 8 then
      ((List.range 256).find? fun c => s.physOf c == some inst).getD (64 * (inst / 68))
    else inst
  | .dcm => inst / 576
  | .deck => inst / 216
  | .stack => inst / 24
  | _ => inst

/-- The partitions with a task on a core or that own a deck of its slice (R399). -/
def State.corePart (s : State) (core p : Nat) : Bool :=
  ((s.core core).tasks.any fun t => t.valid && t.part == p)
  || ((List.range 192).any fun d =>
       let o := sget (0 : Byte) s.deckOwner (192 * core + d)
       bitAt o 2 && fld o 1 0 == p)
  || (match s.corpus? p with
      | some c => c.decks.any fun d => d.1 / 192 == core
      | none => false)

/-- The affected partitions of an instance (R399). -/
def State.affected (s : State) (src inst : Nat) : List Nat :=
  (List.range 4).filter fun p => (s.part p).valid &&
    match scopeOf src with
    | .device => true
    | .hop => true
    | .region => (List.range 64).any fun c => (s.core (64 * inst + c)).tasks.any fun t => t.valid && t.part == p
    | _ => s.corePart (s.coreOfInst src inst) p

def State.faultInst (s : State) (src inst : Nat) : FaultInst :=
  (s.faults.find? fun f => f.source == src && f.inst == inst).getD
    { source := src, inst := inst, beats := [], pending := none, severe := false, parts := [] }

def State.setFaultInst (s : State) (f : FaultInst) : State :=
  let rest := s.faults.filter fun g => !(g.source == f.source && g.inst == f.inst)
  if f.beats = [] ∧ f.pending = none ∧ f.severe = false then { s with faults := rest } else { s with faults := f :: rest }

/-- Window in beats and threshold N of a source, with the values that act as defaults (R396, R413). -/
def State.fltWindow (s : State) (src : Nat) : Nat × Nat :=
  let v := s.hubWord (rFltSrcCfg + 4 * src)
  let w := fld v 20 16
  (2 ^ (if 4 ≤ w ∧ w ≤ 24 then w else (fltDefault src).1), fld v 10 0)

/-- Sources that their Severe handling never makes Severe by count (R396). -/
def noSevere (src : Nat) : Bool := src == 23 || src == 24 || src == 26 || src == 31

/-- Sticky bit, device counter and, for sources 6 to 20, the core's counter (R397, R413). -/
def State.countEvent (s : State) (src inst : Nat) : State :=
  let s := s.hubOr rFltSticky (BitVec.ofNat 32 (2 ^ src))
  let s := s.hubInc (rFltCount + 4 * src) 1
  if 6 ≤ src ∧ src ≤ 20 then s.modCore (s.coreOfInst src inst) fun c => c.inc (cFltCount + 4 * (src - 6)) 1 else s

/-- ATTENTION on every port of each affected partition, and the PLDM event (R399, R433). -/
def State.reportAttention (s : State) (src level : Nat) (parts : List Nat) : State :=
  let s := parts.foldl (fun s q => s.portEvents (s.partPorts q) 1) s
  if s.mgmt.eventsOn then s.emit (.platformEvent src level) else s

def State.aerOn (s : State) (ps : List Nat) (fatal : Bool) : State :=
  ps.foldl (fun s p =>
    let x := s.port p
    (s.setPort p { x with aer := x.aer + 1 }).emit (.aer p fatal)) s

/-- The Fatal level (R401): issue and DMA stop, every port reports, and the state stays as it stands. -/
def State.fatal (s : State) (src : Nat) : State :=
  let s := s.aerOn ((List.range 4).filter fun p => (s.port p).present) true
  let s := if s.mgmt.eventsOn then s.emit (.platformEvent src 3) else s
  { s with latches := { s.latches with l3 := true } }

/-- The Severe level's report (R399; of the thermal source to every host, R390): counted, Attention and AER Correctable Internal Error. The instance is marked until its
handling ends. -/
def State.severeReport (s : State) (src inst : Nat) : State :=
  let parts := if src = 5 then (List.range 4).filter fun p => (s.part p).valid else s.affected src inst
  let s := s.hubInc rSevereCount 1
  let s := s.reportAttention src 2 parts
  let s := s.aerOn (parts.flatMap s.partPorts) false
  s.setFaultInst { s.faultInst src inst with severe := true, pending := none }

/-- The handling of a Severe instance has ended: its history is cleared (R398). -/
def State.severeEnd (s : State) (src inst : Nat) : State :=
  s.setFaultInst { s.faultInst src inst with beats := [], severe := false }

/-- Record one event at its level (R397-R400). The flag says that the instance is now Severe and wants its handling. -/
def State.recordEvent (s : State) (src inst lvl : Nat) : State × Bool :=
  if s.latches.l3 then (s, false) else
  let s := s.countEvent src inst
  if lvl = 3 then (s.fatal src, false) else
  let (w, n) := s.fltWindow src
  let f := s.faultInst src inst
  let beats := if n = 0 then [] else (f.beats ++ [s.beat]).drop (f.beats.length + 1 - n)
  let byCount := n != 0 && !noSevere src && decide (n ≤ beats.length) && decide (s.beat - beats.headD 0 ≤ w - 1)
  let again := lvl == 1 && f.pending.isSome
  let parts := s.affected src inst
  let s := s.setFaultInst { f with beats := beats, pending := if lvl = 1 then some (f.pending.getD s.beat) else f.pending,
                                   parts := if lvl = 1 then parts else f.parts }
  let s := if lvl = 1 then s.reportAttention src 1 parts else s
  let s := if again then s.hubInc rEscalateCount 1 else s
  if lvl = 2 ∨ byCount ∨ again then (s.severeReport src inst, true) else (s, false)

/-- An event whose source has no handling beyond its report: `Report only` and the dashes of R396. -/
def State.reportOnly (s : State) (src inst lvl : Nat) : State :=
  let (s, sev) := s.recordEvent src inst lvl
  if sev then s.severeEnd src inst else s

/-- Bit s of FLT_PENDING: an L1 event of source s is pending (R400). -/
def State.fltPending (s : State) : Nat :=
  (List.range 32).foldl (fun acc i => if s.faults.any fun f => f.source == i && f.pending.isSome then acc + 2 ^ i else acc) 0

/-- Highest unacknowledged fault level (R433). -/
def State.faultLevel (s : State) : Nat :=
  if s.latches.l3 then 3
  else if s.faults.any fun f => f.severe then 2
  else if s.faults.any fun f => f.pending.isSome then 1 else 0

/-- Acknowledge the events that a predicate names (R400). -/
def State.ackEvents (s : State) (p : FaultInst → Bool) : State :=
  { s with faults := (s.faults.map fun f => if p f then { f with pending := none } else f).filter fun f =>
      !(f.beats == [] && f.pending == none && !f.severe) }

end Sys2Proof.Machine
end

