-- ==== Sys2Proof/Machine/Keccak.lean ====
section
/-!
DEFINITION. Sys2Proof/Machine/Keccak.lean: SHA3-256 and SHAKE256 (R29, R119, R227, R416, R423), as FIPS 202 defines them. The manual
names the functions and does not restate them (log 23).
-/
namespace Sys2Proof.Machine

/-- The sponge state: 25 words of 64 bits, plane after plane. -/
abbrev Sponge := List Nat

/-- A 64-bit word turned left by n places. -/
def turn (w n : Nat) : Nat := (w * 2 ^ n) % 2 ^ 64 + w / 2 ^ (64 - n)

/-- The column parities of the five sheets, and theta: each sheet takes the parities of its neighbours. -/
def sheetParity (a : Sponge) (x : Nat) : Nat := ((chunks 5 a).map fun p => p.getD x 0).foldl (· ^^^ ·) 0

def theta (a : Sponge) : Sponge :=
  let mix := tabulate 5 fun x => sheetParity a ((x + 4) % 5) ^^^ turn (sheetParity a ((x + 1) % 5)) 1
  (chunks 5 a).flatMap fun p => List.zipWith (· ^^^ ·) p mix

/-- The walk of rho and pi over the 24 words other than word 0: from (x, y) it goes to (y, 2x + 3y), and the k-th word on it, from k = 1,
turns by the k-th triangular number. Words still to be placed come from `a`; `b` holds those placed. -/
def walk (a : Sponge) : Nat → Nat × Nat → Sponge → Sponge
  | 0, _, b => b
  | left + 1, (x, y), b =>
    let k := 24 - left
    let to_ := (y, (2 * x + 3 * y) % 5)
    walk a left to_ (b.set (to_.1 + 5 * to_.2) (turn (a.getD (x + 5 * y) 0) (k * (k + 1) / 2 % 64)))

/-- Chi on one plane: a word flips where the next is 0 and the one after it is 1. -/
def chiPlane (p : List Nat) : List Nat :=
  match p with
  | [v0, v1, v2, v3, v4] =>
    let f := fun (u v w : Nat) => u ^^^ (w ^^^ (v &&& w))
    [f v0 v1 v2, f v1 v2 v3, f v2 v3 v4, f v3 v4 v0, f v4 v0 v1]
  | _ => p

/-- The bit generator of iota, x^8 + x^6 + x^5 + x^4 + 1: one step, and the constant of a round from its next seven bits, at places
2^j - 1. -/
def iotaStep (r : Nat) : Nat := if 128 ≤ r then (2 * r) % 256 ^^^ 0x71 else 2 * r

def iotaWord : Nat → Nat → Nat → Nat × Nat
  | 0, _, r => (0, r)
  | n + 1, j, r =>
    let (w, r') := iotaWord n (j + 1) (iotaStep r)
    (w + (r % 2) * 2 ^ (2 ^ j - 1), r')

/-- n rounds of Keccak-f[1600], the generator standing at r. -/
def rounds : Nat → Nat → Sponge → Sponge
  | 0, _, a => a
  | n + 1, r, a =>
    let (rc, r') := iotaWord 7 0 r
    let t := theta a
    rounds n r' (((chunks 5 (walk t 24 (1, 0) t)).flatMap chiPlane).modifyHead (· ^^^ rc))

/-- Add a block of 136 bytes to the state and permute. -/
def absorb (a : Sponge) (block : List Byte) : Sponge :=
  rounds 24 1 (List.zipWith (· ^^^ ·) a ((chunks 8 block).map leNat ++ List.replicate 8 0))

/-- The sponge over a message followed by a suffix byte and the padding to whole blocks of 136 bytes: its words as one number. -/
def spongeOf (suffix : Nat) (msg : List Byte) : Nat :=
  let gap := 135 - msg.length % 136
  let tail := toLe (gap + 1) (suffix + 2 ^ (8 * gap + 7))
  ((chunks 136 (msg ++ tail)).foldl absorb (List.replicate 25 0)).foldr (fun w acc => w + 2 ^ 64 * acc) 0

/-- SHA3-256. -/
def sha3_256 (msg : List Byte) : List Byte := toLe 32 (spongeOf 0x06 msg)

/-- SHAKE256 with an output of up to 136 bytes, the longest the device uses being 96. -/
def shake256 (n : Nat) (msg : List Byte) : List Byte := toLe n (spongeOf 0x1F msg)

end Sys2Proof.Machine
end

