-- ==== Sys2Proof/Machine/Stored.lean ====
section
/-!
DEFINITION. Sys2Proof/Machine/Stored.lean: the configuration stacks: how a record is written and read at power-on (R29, R30), and
the compaction of a stack (R122).
-/
namespace Sys2Proof.Machine

/-! ## Records -/

/-- The number of a kind of record: the kinds of region r at r, 4 + r, 8 + r, 12 + r and 16 + r, the device-wide ones at 20 to 23, and the
erase record of deck i at 32 + i (log entry 116, DESIGN CHOICE). -/
def CfgData.kind : CfgData → Nat
  | .repairs r _ => r
  | .baselines r _ => 4 + r
  | .wear r _ => 8 + r
  | .swaps r _ => 12 + r
  | .owners r _ => 16 + r
  | .partTable _ => 20
  | .frame _ => 21
  | .settings _ _ _ _ => 22
  | .cert _ => 23
  | .erase i _ => 32 + i

/-- The region to which a kind belongs; none: device-wide (R29). -/
def kindRegion (k : Nat) : Option Nat :=
  if k < 20 then some (k % 4) else if k < 32 then none else some ((k - 32) / 13824)

/-- An optional word. -/
def optBytes (o : Option Word) : List Byte := match o with
  | none => [0]
  | some w => 1 :: toLe 4 w.toNat

/-- The bytes of a record's contents (log entry 116, DESIGN CHOICE: the manual gives the layout of a repair record only). -/
def CfgData.bytes : CfgData → List Byte
  | .repairs _ l => l.flatten
  | .baselines _ n => toLe 8 n
  | .wear _ m => m.flatMap fun e => toLe 4 e.1 ++ toLe 2 e.2
  | .swaps _ m => m.flatMap fun e => toLe 4 e.1 ++ e.2.1.flatMap (toLe 1) ++ toLe 1 e.2.2
  | .owners _ m => m.flatMap fun e => toLe 4 e.1 ++ [e.2]
  | .partTable t => t.entries.mapIdx (fun p e => (e.words p).flatMap fun w => toLe 4 w.2.toNat) |>.flatten
  | .frame l => l.flatMap fun w => toLe 4 w.toNat
  | .settings n a b c => toLe 1 n ++ optBytes a ++ optBytes b ++ optBytes c
  | .cert b => b
  | .erase i n => toLe 4 i ++ toLe 2 n

/-- The digest of a record: over its sequence number, its kind and its contents (R29; log entry 116). -/
def CfgData.digest (d : CfgData) (seq : Nat) : List Byte := sha3_256 (toLe 8 seq ++ toLe 4 d.kind ++ d.bytes)

/-- A copy is valid when its digest matches (R122). -/
def CfgRecord.valid (x : CfgRecord) : Bool := x.digest == x.data.digest x.seq

/-- Whole word-lines that a record takes, with 8 bytes of sequence number and 32 of digest (R122; log entry 116). -/
def CfgData.lines (d : CfgData) : Nat := ceilDiv (44 + d.bytes.length) 1024

/-! ## Writing (R30, R122) -/

/-- Append a record to a stack: into the first data deck with room, or it waits for a compaction. -/
def CfgStack.append (x : CfgStack) (d : CfgData) (seq : Nat) : CfgStack :=
  match x.pos.find? fun p => decide (sget 0 x.used p + d.lines ≤ 1024) with
  | some p =>
    { x with records := sins x.records d.kind { data := d, seq := seq, digest := d.digest seq, deck := p, line := sget 0 x.used p, lines := d.lines },
             used := sins x.used p (sget 0 x.used p + d.lines) }
  | none => { x with waiting := (x.waiting.filter fun e => e.1.kind != d.kind) ++ [(d, seq)] }

/-- The stacks that hold a kind of record: both mirrors, and the region's own (R29). -/
def holdsKind (r k : Nat) : Bool := decide (r < 2) || kindRegion k == some r

/-- Write a record: the copy of region 0, which an exact read verifies, that of region 1, and the working copy (R30). The partition table's
sequence number is TABLE_SEQ (R435), any other's the next. -/
def Config.put (c : Config) (d : CfgData) : Config :=
  let seq := match d with
    | .partTable t => t.seq
    | _ => c.seq + 1
  { c with seq := (match d with | .partTable _ => c.seq | _ => c.seq + 1),
           cfgStacks := c.cfgStacks.mapIdx fun r x => if holdsKind r d.kind then x.append d seq else x }

/-- Write the stored settings (R30, R394). -/
def Config.putSettings (c : Config) : Config := c.put (.settings c.timeSource c.pwrCfg c.thermCfg c.tamperCfg)

/-- The positions of the stacks of a region that have moved, by 24 x core + stack (R114). -/
def State.swapsOf (s : State) (r : Nat) : List (Nat × List Nat × Nat) :=
  (s.cores.filter fun e => regionOf e.1 == r).flatMap fun e => e.2.stk.map fun x => (24 * e.1 + x.1, x.2.pos, x.2.spare)

/-- Record the deck positions of a region (R114). -/
def State.putSwaps (s : State) (r : Nat) : State := { s with config := s.config.put (.swaps r (s.swapsOf r)) }

/-- Record the deck owners of a region (R97). -/
def State.putOwners (s : State) (r : Nat) : State :=
  { s with config := s.config.put (.owners r (s.deckOwner.filter fun e => e.1 / 12288 == r)) }

/-! ## Reading at power-on (R30) -/

/-- The value of a record comes into force. Deck positions and owners stand in the state itself. -/
def Config.restore (c : Config) : CfgData → Config
  | .repairs r l => { c with repairs := c.repairs.set r l }
  | .baselines r n => { c with baselines := sins c.baselines r n }
  | .wear r m => { c with wear := (c.wear.filter fun e => decide (e.1 / 13824 < r)) ++ m ++ c.wear.filter fun e => decide (r < e.1 / 13824) }
  | .swaps _ _ => c
  | .owners _ _ => c
  | .partTable t => { c with partTable := some t }
  | .frame l => { c with frame := some l }
  | .settings n a b d => { c with timeSource := n, pwrCfg := a, thermCfg := b, tamperCfg := d }
  | .cert b => { c with cert := b }
  | .erase i n => { c with erases := (c.erases.filter fun e => e.1 != i) ++ [(i, n)] }

/-- No copy of a record is valid: the strap default, fuse repair alone, baselines of the next calibration; any other record is as never written (log
entry 116, DESIGN CHOICE: the manual names the fallback of those three). -/
def Config.lose (c : Config) (d : CfgData) : Config :=
  let c := { c with cfgStacks := c.cfgStacks.map fun x => { x with records := sdel x.records d.kind } }
  match d with
  | .repairs r _ => { c with repairs := c.repairs.set r [] }
  | .baselines r _ => { c with baselines := sdel c.baselines r }
  | .wear r _ => { c with wear := c.wear.filter fun e => e.1 / 13824 != r }
  | .swaps _ _ => c
  | .owners _ _ => c
  | .partTable _ => { c with partTable := none }
  | .frame _ => { c with frame := none }
  | .settings _ _ _ _ => { c with timeSource := 0, pwrCfg := none, thermCfg := none, tamperCfg := none }
  | .cert _ => { c with cert := [] }
  | .erase i _ => { c with erases := c.erases.filter fun e => e.1 != i }

/-- The valid copy of a kind with the highest sequence number. -/
def Config.best (c : Config) (k : Nat) : Option CfgRecord :=
  (c.cfgStacks.filterMap fun x => (x.records.find? fun e => e.1 == k).map (·.2)).foldl (fun (b : Option CfgRecord) x =>
    if x.valid = false then b else match b with
    | some y => if y.seq < x.seq then some x else some y
    | none => some x) none

/-- The kinds of record that a stack holds, with one copy of each. -/
def Config.kinds (c : Config) : SMap CfgData :=
  c.cfgStacks.foldl (fun m x => x.records.foldl (fun m e => sins m e.1 e.2.data) m) []

/-- Read one kind of record: use the best copy and rewrite every other from it, or fall back. The list collects the kinds that are lost. -/
def Config.readKind (c : Config × List Nat) (k : Nat) (d : CfgData) : Config × List Nat :=
  match c.1.best k with
  | none => (c.1.lose d, c.2 ++ [k])
  | some b =>
    ({ c.1.restore b.data with
        cfgStacks := c.1.cfgStacks.mapIdx fun r x =>
          if holdsKind r k && !((x.records.find? fun e => e.1 == k).any fun e => e.2.valid && e.2.seq == b.seq) then x.append b.data b.seq else x },
     c.2)

/-- Copies whose cells fail their digest, as region of the stack and kind. -/
def Config.damage (c : Config) (bad : List (Nat × Nat)) : Config :=
  { c with cfgStacks := c.cfgStacks.mapIdx fun r x =>
      { x with records := x.records.map fun e => if bad.contains (r, e.1) then (e.1, { e.2 with digest := [] }) else e } }

/-- The configuration stacks as a power-on reads them, and the kinds of record of which no copy is valid. -/
def Config.readStacks (c : Config) (bad : List (Nat × Nat)) : Config × List Nat :=
  let c := c.damage bad
  c.kinds.foldl (fun c e => Config.readKind c e.1 e.2) (c, [])

/-! ## Compaction (R122) -/

/-- Word-lines of a physical deck that live records take. -/
def CfgStack.live (x : CfgStack) (p : Nat) : Nat :=
  ((x.records.filter fun e => e.2.deck == p).map fun e => e.2.lines).sum

/-- The data deck with the most dead word-lines; none: every line is live. -/
def CfgStack.fullest (x : CfgStack) : Option Nat :=
  (x.pos.foldl (fun (b : Option (Nat × Nat)) p =>
    let n := sget 0 x.used p - x.live p
    match b with
    | some (m, _) => if m < n then some (n, p) else b
    | none => if 0 < n then some (n, p) else none) none).map (·.2)

/-- Write the live records of a deck into the spare, one after another, swap it in, and erase the old deck (R122, R105, R106). -/
def CfgStack.compact (x : CfgStack) (p : Nat) : CfgStack :=
  let (recs, n) := x.records.foldl (fun (a : SMap CfgRecord × Nat) e =>
    if e.2.deck = p then (a.1 ++ [(e.1, { e.2 with deck := x.spare, line := a.2 })], a.2 + e.2.lines) else (a.1 ++ [e], a.2)) ([], 0)
  { x with records := recs, pos := x.pos.map fun q => if q = p then x.spare else q, spare := p,
           used := sdel (sput 0 x.used x.spare n) p, wear := sins x.wear p (sget 0 x.wear p + 1) }

/-- Records that waited for room are appended. -/
def CfgStack.flush (x : CfgStack) : CfgStack :=
  x.waiting.foldl (fun x e => x.append e.1 e.2) { x with waiting := [] }

/-- Can the stack be compacted: dead word-lines in a data deck, and a spare that has not reached its endurance? -/
def CfgStack.canCompact (x : CfgStack) : Option Nat := if 3000 ≤ sget 0 x.wear x.spare then none else x.fullest

/-- Compact the stack of a region. -/
def Config.compact (c : Config) (r : Nat) : Config :=
  let x := c.cfgStacks.getD r CfgStack.init
  match x.canCompact with
  | some p => { c with cfgStacks := c.cfgStacks.set r (x.compact p).flush, compactions := c.compactions.set r (c.compactions.getD r 0 + 1) }
  | none => c

end Sys2Proof.Machine
end

