-- ==== Sys2Proof/Machine/Time.lean ====
section
/-!
DEFINITION. Sys2Proof/Machine/Time.lean: the time base and the schedule frame: PPS edges, PTM dialogs, lock and holdover, source
changes, beat length and frame commits (R31-R51).
-/
namespace Sys2Proof.Machine

/-- One second in ns. -/
def second : Nat := 1000000000

/-- The instant of the next beat boundary at or after now (R40). -/
def State.nextBoundary (s : State) : Nat := ceilDiv s.time.now s.beatNs * s.beatNs

/-- The time source selected by TIME_CTRL.SOURCE (R32): 0 Free-running, 1 PPS, 2 PTM. -/
def State.timeSource (s : State) : Nat := fld (s.hubWord rTimeCtrl) 1 0

/-- The PTM port: an absent port, or a reserved number, acts as 0 (R339; log entry 27, DESIGN CHOICE). -/
def State.ptmPort (s : State) : Nat :=
  let p := fld (s.hubWord rTimeCtrl) 19 16
  if p < 4 ∧ (s.port p).present then p else 0

/-- The whole second nearest to t. -/
def nearestSecond (t : Int) : Int := (t + (second : Int) / 2) / (second : Int) * (second : Int)

/-- Set the measured offset and the learned frequency (R55). An offset that does not fit 32 bits signed is kept modulo 2^32: the spec
says nothing of it (log entry 123, DESIGN CHOICE). -/
def State.measured (s : State) (offset freq : Int) : State :=
  let s := s.setHub rPhaseOffset (BitVec.ofInt 32 offset)
  s.setHub rFreqOffset (BitVec.ofInt 32 freq)

/-- Enter LOCKED (R34, R38). At the first lock after a reset device time steps once to `target`, forward only; a backward step is
slewed instead. -/
def State.lockAt (s : State) (target : Int) : State :=
  let s := s.hubOr rTimeEvents 2
  let tm := { s.time with lock := .locked, changedAt := none, holdoverAt := none, bad := 0 }
  if tm.stepped then { s with time := { tm with slew := target - (tm.now : Int) } }
  else if (tm.now : Int) ≤ target then { s with time := { tm with stepped := true, now := target.toNat, slew := 0 } }
  else { s with time := { tm with stepped := true, slew := target - (tm.now : Int) } }

/-- Put the time base in ACQUIRING (R34, R36, R37). -/
def State.acquire (s : State) : State :=
  { s with time := { s.time with lock := .acquiring, good := 0, bad := 0, lastEdge := none, firstDialog := none, holdoverAt := none } }

/-- The value that the edge takes at the first lock (R38). -/
def State.epochTarget (s : State) : Int :=
  if s.time.epochWritten then (second * s.hub64 rEpochSeconds : Nat) else (second * (s.time.now / second + 1) : Nat)

/-- A rejected edge (R33). -/
def State.rejectEdge (s : State) : State :=
  let s := s.hubOr rTimeEvents 1
  { s with time := { s.time with ppsPresent := false } }

/-- Distance in ns from the nearest whole number k >= 1 of seconds after the last edge, and k (R33). -/
def secondsAfter (last edge : Nat) : Nat × Nat :=
  let k := if edge < last then 1 else (edge - last + second / 2) / second
  let k := if k = 0 then 1 else k
  let p := second * k + last
  (if p ≤ edge then edge - p else p - edge, k)

/-- The last accepted edge in the device time of now: what has been slewed since it moves the instants predicted from it (R31, R33). -/
def State.edgeBase (s : State) (last : Nat) : Nat := ((last : Int) + s.time.edgeSlew - s.time.slew).toNat

/-- An edge becomes the last accepted one. -/
def State.acceptEdge (s : State) (edge : Nat) (slew : Int) : State :=
  { s with time := { s.time with lastEdge := some edge, ppsPresent := true, slew := slew, edgeSlew := slew } }

/-- An accepted edge while acquiring: the count of R32 and R33, and the lock. `fresh`: a first edge. Before the first lock the residual
is taken from whole seconds after the last accepted edge in device time, which runs on the crystal as disciplined with the frequency
learned so far (R38; log entry 123, DEDUCED). -/
def State.acceptAcquiring (s : State) (edge k : Nat) (fresh : Bool) (freq : Int) : State :=
  let offset : Int :=
    if s.time.stepped then nearestSecond ((edge : Int) + s.time.slew) - (edge : Int)
    else if fresh then 0 else
      match s.time.lastEdge with
      | some l => ((second * k + s.edgeBase l : Nat) : Int) - (edge : Int)
      | none => 0
  let close := decide (offset.natAbs ≤ 100)
  let good := if fresh || 2 ≤ k then (if s.time.stepped && !close then 0 else 1) else if close then s.time.good + 1 else 0
  let s := s.measured offset freq
  let s := s.acceptEdge edge (if s.time.stepped then offset else s.time.slew)
  let s := { s with time := { s.time with good := good } }
  if 4 ≤ good then
    let t := if s.time.stepped then (edge : Int) + offset else s.epochTarget
    let s := s.lockAt t
    s.acceptEdge s.time.now s.time.slew
  else s

/-- PPS_EDGE (R33): an edge of TIME_PPS at device time edgeNs, with the crystal offset measured so far. An edge before now, or
with a source other than PPS, changes nothing. -/
def ppsEdge (edge : Nat) (freq : Int) (s : State) : State :=
  if s.dead ∨ s.timeSource ≠ 1 ∨ edge < s.time.now then s else
  let s := s.advanceTo edge
  let s := if s.time.lock = .free ∨ s.time.lock = .holdover then s.acquire else s
  if s.time.lock = .locked then
    match s.time.lastEdge with
    | some l =>
      let (d, _) := secondsAfter (s.edgeBase l) edge
      if d ≤ 10000 then
        let offset := nearestSecond ((edge : Int) + s.time.slew) - (edge : Int)
        let s := s.measured offset freq
        s.acceptEdge edge offset
      else s.rejectEdge
    | none => s.acceptEdge edge s.time.slew
  else
    match s.time.lastEdge with
    | none => s.acceptAcquiring edge 1 true freq
    | some l =>
      let (d, k) := secondsAfter (s.edgeBase l) edge
      if d ≤ 100000 ∧ l < edge then s.acceptAcquiring edge k false freq
      else if 3 * second + l ≤ edge then s.acceptAcquiring edge 1 true freq
      else s.rejectEdge

/-- Beats from one PTM dialog to the next: 2^PTM_INTERVAL for 4 to 14, any other value acts as 10 (R55). -/
def State.dialogBeats (s : State) : Nat :=
  let n := fld (s.hubWord rTimeCtrl) 11 8
  2 ^ (if 4 ≤ n ∧ n ≤ 14 then n else 10)

/-- The requester's next dialog is due: one every 2^PTM_INTERVAL beats (R32). -/
def State.dialogDue (s : State) : Bool := match s.time.dialogAt with
  | none => true
  | some b => decide (b + s.dialogBeats ≤ s.beat) || decide (s.beat < b)

/-- PTM_DIALOG (R32, R38): one requester dialog on the PTM port, with its offset (reference - device time). Before it is due the
requester makes none. -/
def ptmDialog (ok : Bool) (offset freq : Int) (s : State) : State :=
  if s.dead ∨ s.timeSource ≠ 2 ∨ s.dialogDue = false then s else
  let s := { s with time := { s.time with dialogAt := some s.beat } }
  if !ok ∨ (s.port s.ptmPort).linkUp = false then
    { s with time := { s.time with bad := s.time.bad + 1, good := 0 } }
  else
    let s := if s.time.lock = .free ∨ s.time.lock = .holdover then s.acquire else s
    let s := s.measured offset freq
    if s.time.lock = .locked then { s with time := { s.time with bad := 0, slew := offset } }
    else
      let first := s.time.firstDialog.getD offset
      let rel := if s.time.stepped then offset else offset - first
      let good := if rel.natAbs ≤ 200 then s.time.good + 1 else 0
      let s := { s with time := { s.time with good := good, bad := 0, firstDialog := some first } }
      if 8 ≤ good then s.lockAt ((s.time.now : Int) + offset) else s

/-- TIME_FREQ leaves or enters +-50 ppm (R33). -/
def timeFreqLost (s : State) : State :=
  if s.dead ∨ s.time.freqPresent = false then s else
  let s := { s with time := { s.time with freqPresent := false } }
  if s.timeSource = 1 ∧ s.time.lock = .locked then s.reportOnly 0 0 0 else s

def timeFreqRestored (s : State) : State :=
  if s.dead ∨ fld (s.hubWord rTimeCtrl) 7 6 = 0 ∨ fld (s.hubWord rTimeCtrl) 7 6 = 3 then s
  else { s with time := { s.time with freqPresent := true } }

/-- The loss condition of R32, or 8 s without lock after a source change (R37). -/
def State.lossMet (s : State) : Bool :=
  match s.time.lock with
  | .locked =>
    if s.timeSource = 1 then decide (3 * second + 10000 + s.time.lastEdge.getD 0 ≤ s.time.now)
    else s.timeSource == 2 && (decide (4 ≤ s.time.bad) || !(s.port s.ptmPort).linkUp)
  | .acquiring => match s.time.changedAt with
    | some t => decide (8 * second + t ≤ s.time.now)
    | none => false
  | _ => false

/-- HOLDOVER entered or expired: the TIME event on every port and the time-base fault (R35, R36, R349). -/
def State.timeFault (s : State) : State :=
  (s.portEvents ((List.range 4).filter fun p => (s.port p).present) 2).reportOnly 0 0 1

/-- HOLDOVER_ENTERED (R35), at the next beat boundary after the condition (R33). -/
def holdoverEntered (s : State) : State :=
  if s.dead ∨ s.lossMet = false then s else
  let s := s.advanceTo s.nextBoundary
  let s := s.hubOr rTimeEvents 8
  let s := { s with time := { s.time with lock := .holdover, holdoverAt := some s.time.now, changedAt := none, good := 0 } }
  s.timeFault

/-- HOLDOVER_LIMIT in seconds; a value outside 1-86,400 is never stored (R36, R55). -/
def State.holdoverLimit (s : State) : Nat := (s.hubWord rHoldoverLimit).toNat

/-- HOLDOVER_EXPIRED (R36). -/
def holdoverExpired (s : State) : State :=
  match s.time.lock, s.time.holdoverAt with
  | .holdover, some t =>
    if s.dead ∨ s.time.now < second * s.holdoverLimit + t then s else
    let s := s.hubOr rTimeEvents 4
    let s := { s with time := { s.time with lock := .free, holdoverAt := none } }
    s.timeFault
  | _, _ => s

/-- A write of TIME_CTRL waits for the next beat boundary (R37). A second write before that boundary takes the place of the first
whole, its reserved SOURCE against the SOURCE in force: the spec says nothing of two (log entry 123, DESIGN CHOICE). -/
def timeCtrlWrite (v : Word) (s : State) : State :=
  if s.dead then s else { s with time := { s.time with ctrlPending := some v } }

/-- The value TIME_CTRL takes from a write: a reserved SOURCE leaves SOURCE as it was (R37). -/
def timeCtrlNew (old v : Word) : Word :=
  let w := (old &&& ~~~(hubRw rTimeCtrl)) ||| (v &&& hubRw rTimeCtrl)
  if fld v 1 0 = 3 then setFld w 1 0 (fld old 1 0) else w

/-- Is the write a source change (R37)? -/
def isSourceChange (old new : Word) : Bool :=
  fld old 1 0 != fld new 1 0
  || (fld new 1 0 == 2 && fld old 19 16 != fld new 19 16)
  || (fld new 1 0 == 1 && bitAt old 3 != bitAt new 3)

/-- Apply a waiting TIME_CTRL write at a beat boundary (R37). The source is kept as a stored setting (log entry 28, DEDUCED). With another
FREQ_SEL, TIME_FREQ is not valid until it is found within the new selection's limits (R33, R37). -/
def State.applyTimeCtrl (s : State) : State :=
  match s.time.ctrlPending with
  | none => s
  | some v =>
    let old := s.hubWord rTimeCtrl
    let new := timeCtrlNew old v
    let fp := s.time.freqPresent && fld old 7 6 == fld new 7 6
    let s := { (s.setHub rTimeCtrl new) with time := { s.time with ctrlPending := none, freqPresent := fp },
                                             config := ({ s.config with timeSource := fld new 1 0 } : Config).putSettings }
    if isSourceChange old new then
      if fld new 1 0 = 0 then
        { s with time := { s.time with lock := .free, changedAt := none, holdoverAt := none, good := 0, bad := 0, lastEdge := none } }
      else
        let s := s.acquire
        { s with time := { s.time with changedAt := some s.time.now } }
    else s

/-- SOURCE_CHANGE (R37): at the beat boundary, where the waiting write is a source change. -/
def sourceChange (s : State) : State :=
  match s.time.ctrlPending with
  | some v =>
    if s.dead = false ∧ isSourceChange (s.hubWord rTimeCtrl) (timeCtrlNew (s.hubWord rTimeCtrl) v) = true then
      (s.advanceTo s.nextBoundary).applyTimeCtrl
    else s
  | none => s

/-- FRAME_STATUS.ERROR (R41, R50). -/
def State.frameError (s : State) (code : Nat) : State := s.setHub rFrameStatus (setFld (s.hubWord rFrameStatus) 7 4 code)

/-- BEAT_LEN_WRITE (R41). -/
def beatLenWrite (v : Word) (s : State) : State :=
  if s.dead then s
  else if s.time.lenLocked then s.frameError 4
  else if fld v 1 0 = s.beatCode then s
  else { s with time := { s.time with lenPending := some (fld v 1 0) } }

/-- BEAT_LEN_CHANGE (R41): at the next boundary of the longer of the two lengths. -/
def beatLenChange (s : State) : State :=
  match s.time.lenPending with
  | none => s
  | some code =>
    if s.dead then s else
    let long := if s.beatNs < beatNsOf code then beatNsOf code else s.beatNs
    let s := s.advanceTo (ceilDiv s.time.now long * long)
    let s := s.setHub rBeatCfg (BitVec.ofNat 32 code)
    { s with time := { s.time with lenPending := none }, frame := { s.frame with origin := s.beat } }

/-! ## The frame (R47-R51) -/

/-- FRAME_COMMIT_GO (R50). -/
def frameCommitGo (v : Word) (s : State) : State :=
  if s.dead ∨ bitAt v 0 = false then s else { s with frame := { s.frame with commit := some (bitAt v 1) } }

/-- Entries of a frame of length len in region r. -/
def frameBytes (entries : List Word) (len r : Nat) : List Nat := tabulate (8 * len) fun i => entryByte (entries.getD i 0) r

/-- The checks of R50 on a frame; 0: it passes. -/
def frameCheck (parts : List PartEntry) (nRegions : Nat) (entries : List Word) (len : Nat) : Nat :=
  let rs := List.range nRegions
  let col := fun r => frameBytes entries len r
  let owned := fun b => slotClass b ≠ 0 ∧ slotClass b ≠ 7
  if rs.any fun r => decide (((col r).filter fun b => slotClass b == 7).length < ceilDiv len 8) then 1
  else if rs.any fun r => (col r).any fun b => decide (owned b) && !(parts.getD (slotPart b) PartEntry.none).valid then 2
  else if rs.any fun r => (List.range 4).any fun p =>
      decide ((parts.getD p PartEntry.none).share * 8 * len / 65536 < ((col r).filter fun b => decide (owned b) && slotPart b == p).length) then 3
  else if (List.range 4).any fun r => decide (nRegions ≤ r) && (col r).any fun b => b != 0 then 5
  else 0

/-- The stored form of a frame: its length and its slot entries (R50). -/
def frameRecord (entries : List Word) (len : Nat) : List Word := BitVec.ofNat 32 len :: entries.take (8 * len)

/-- FRAME_SWITCH (R50): at the next boundary of the current frame; a staged partition table applies first (R434). -/
def frameSwitch (s : State) : State :=
  match s.frame.commit with
  | none => s
  | some persist =>
    if s.dead ∨ s.parts.commit ≠ none then s else
    let b0 := s.nextBoundary / s.beatNs
    let b := b0 + (s.frame.len - (b0 - s.frame.origin) % s.frame.len) % s.frame.len
    let s := s.advanceTo (b * s.beatNs)
    let len := fld (s.hubWord rFrameCfg) 5 0 + 1
    let code := frameCheck s.parts.entries s.nRegions s.frame.shadow len
    let s := { s with frame := { s.frame with commit := none } }
    if code ≠ 0 then s.frameError code
    else
      let s := { s with frame := { s.frame with active := s.frame.shadow, len := len, origin := b, bank := !s.frame.bank } }
      if persist then { s with config := ({ s.config with frame := some (frameRecord s.frame.active len) } : Config).put (.frame (frameRecord s.frame.active len)) } else s

/-- Partition that owns beat position b of the default frame (R51): partition 0 takes the beats left over, then each partition in order. -/
def defaultOwner (parts : List PartEntry) (b : Nat) : Nat :=
  let n := fun p => let e := parts.getD p PartEntry.none
                    if e.valid then e.share * 24 / 65536 else 0
  let n0 := n 0 + (24 - (n 0 + n 1 + n 2 + n 3))
  if b < n0 then 0 else if b < n0 + n 1 then 1 else if b < n0 + n 1 + n 2 then 2 else 3

/-- The default frame for a partition table (R51). -/
def defaultFrameFor (parts : List PartEntry) (regions : Nat) : List Word :=
  (List.range 24).flatMap fun beat => (List.range 8).map fun slot => defaultEntry (defaultOwner parts beat) beat slot regions

/-- Put the stored frame, or else the default frame, in force with origin 0 (R51); the flag says that a stored frame failed the checks. -/
def State.startFrame (s : State) : State × Bool :=
  let dflt := fun (s : State) =>
    let f := defaultFrameFor s.parts.entries s.nRegions
    (s.setHub rFrameCfg 23, f, 24)
  let (ok, bad) := match s.config.frame with
    | none => (none, false)
    | some (l :: es) =>
      if 1 ≤ l.toNat ∧ l.toNat ≤ 64 ∧ frameCheck s.parts.entries s.nRegions es l.toNat = 0 then (some (l.toNat, es), false) else (none, true)
    | some [] => (none, true)
  match ok with
  | some (len, es) =>
    let s := s.setHub rFrameCfg (BitVec.ofNat 32 (len - 1))
    ({ s with frame := { active := es, len := len, origin := 0, shadow := es, bank := false, commit := none } }, bad)
  | none =>
    let (s, f, len) := dflt s
    ({ s with frame := { active := f, len := len, origin := 0, shadow := f, bank := false, commit := none } }, bad)

/-! ## The meanings -/

def execPpsEdge (edgeNs : Nat) (freq : Int) (s : State) : Host.Outcome State Fault Refusal := .next (ppsEdge edgeNs freq s)
def execPtmDialog (ok : Bool) (offset freq : Int) (s : State) : Host.Outcome State Fault Refusal := .next (ptmDialog ok offset freq s)
def execTimeFreqLost (s : State) : Host.Outcome State Fault Refusal := .next (timeFreqLost s)
def execTimeFreqRestored (s : State) : Host.Outcome State Fault Refusal := .next (timeFreqRestored s)
def execHoldoverEntered (s : State) : Host.Outcome State Fault Refusal := .next (holdoverEntered s)
def execHoldoverExpired (s : State) : Host.Outcome State Fault Refusal := .next (holdoverExpired s)
def execTimeCtrlWrite (v : Word) (s : State) : Host.Outcome State Fault Refusal := .next (timeCtrlWrite v s)
def execSourceChange (s : State) : Host.Outcome State Fault Refusal := .next (sourceChange s)
def execBeatLenWrite (v : Word) (s : State) : Host.Outcome State Fault Refusal := .next (beatLenWrite v s)
def execBeatLenChange (s : State) : Host.Outcome State Fault Refusal := .next (beatLenChange s)
def execFrameCommitGo (v : Word) (s : State) : Host.Outcome State Fault Refusal := .next (frameCommitGo v s)
def execFrameSwitch (s : State) : Host.Outcome State Fault Refusal := .next (frameSwitch s)

end Sys2Proof.Machine
end

