-- ==== Sys2Proof/Machine/PlanImage.lean ====
section
/-!
DEFINITION. Sys2Proof/Machine/PlanImage.lean: fields of a plan container (R227-R234).
-/
namespace Sys2Proof.Machine

/-- n bytes of a byte list at an offset, as a number (R9). -/
def imgNum (b : List Byte) (off n : Nat) : Nat := leNat ((b.drop off).take n)

def planClass (b : List Byte) : Nat := imgNum b 6 1
def planStepped (b : List Byte) : Bool := imgNum b 7 1 % 2 == 1
def planTask (b : List Byte) : Nat := imgNum b 8 1
def planRegions (b : List Byte) : Nat := imgNum b 9 1 % 16
def planSections (b : List Byte) : Nat := imgNum b 0xA 2
def planTotal (b : List Byte) : Nat := imgNum b 0xC 4
def planMask (b : List Byte) : Nat := imgNum b 0x10 32
def planSeed (b : List Byte) : Nat := imgNum b 0x30 8
def planSpadBase (b : List Byte) : Nat := imgNum b 0x38 4
def planSpadBound (b : List Byte) : Nat := imgNum b 0x3C 4
def planDcmLo (b : List Byte) : Nat := imgNum b 0x40 2
def planDcmHi (b : List Byte) : Nat := imgNum b 0x42 2
def planStageLen (b : List Byte) : Nat := imgNum b 0x44 4
def planQdepth (b : List Byte) : Nat := imgNum b 0x48 1
def planImemBase (b : List Byte) : Nat := imgNum b 0x49 1
def planImemLen (b : List Byte) : Nat := imgNum b 0x4A 1
def planDigest (b : List Byte) : List Byte := (b.drop 0x1E0).take 32

/-- Device-wide cores of CORE_MASK, rising. -/
def planCores (b : List Byte) : List Nat := (List.range 256).filter fun n => Nat.testBit (planMask b) n

/-- Directory entry k: TYPE, OFFSET, LENGTH (R228). -/
def dirEntry (b : List Byte) (k : Nat) : Nat × Nat × Nat :=
  let o := 0x80 + 16 * k
  (imgNum b o 2, imgNum b (o + 4) 4, imgNum b (o + 8) 4)

/-- Offset and length of the section of a type (R228). -/
def planSection (b : List Byte) (typ : Nat) : Option (Nat × Nat) :=
  ((List.range (planSections b)).find? fun k => (dirEntry b k).1 == typ).map fun k => (dirEntry b k).2

/-- Blob index of a core in a per-core section, 0xFF for none (R228). -/
def blobIndex (b : List Byte) (off core : Nat) : Nat := imgNum b (off + core) 1

/-- Number of blobs: the largest index in the core map, plus 1. -/
def blobCount (b : List Byte) (off : Nat) : Nat :=
  ((List.range 256).map fun c => let i := blobIndex b off c
                                 if i = 0xFF then 0 else i + 1).foldl max 0

/-- Blob offset i, from the section start. -/
def blobOffset (b : List Byte) (off i : Nat) : Nat := imgNum b (off + 256 + 4 * i) 4

/-- Where a core's blob lies in the container, and its length: to the next higher offset of the table, or the section's end (R228). -/
def coreBlobAt (b : List Byte) (typ core : Nat) : Option (Nat × Nat) :=
  match planSection b typ with
  | none => none
  | some (off, len) =>
    let i := blobIndex b off core
    if i = 0xFF then none else
    let o := blobOffset b off i
    let ends := ((List.range (blobCount b off)).map (blobOffset b off)).filter fun x => decide (o < x)
    let e := ends.foldl min len
    some (off + o, e - o)

/-- The bytes of a core's blob (R228). -/
def coreBlob (b : List Byte) (typ core : Nat) : Option (List Byte) :=
  (coreBlobAt b typ core).map fun p => (b.drop p.1).take p.2

/-- The CODE section of a container that stands at a staging address: what of it stays there while the plan is loaded (R15, R236). -/
def codeWindow (b : List Byte) (base : Nat) : Nat × Nat :=
  match planSection b 1 with
  | some (off, len) => (base + off, len)
  | none => (base, 0)

/-- Where the code of a core stands in staging, and its length (R15, R228). -/
def Plan.stagedCode (p : Plan) (core : Nat) : Nat × Nat :=
  match coreBlobAt p.image 1 core with
  | some (o, len) => (p.codeBase + o, len)
  | none => (p.codeBase, 0)

/-- Entries of a flat section of n bytes each. -/
def flatEntries (b : List Byte) (typ n : Nat) : List Nat :=
  match planSection b typ with
  | none => []
  | some (off, len) => tabulate (len / n) fun i => imgNum b (off + n * i) n

/-- W of SLOTREQ for region r, point v and beat length code l (R232). -/
def slotReq (b : List Byte) (r v l : Nat) : Nat :=
  match planSection b 6 with
  | none => 0
  | some (off, _) => imgNum b (off + 4 * (32 * r + 4 * v + l)) 4

/-- Member mask of a barrier (R234). -/
def barrierMask (b : List Byte) (n : Nat) : Nat :=
  match planSection b 8 with
  | none => 0
  | some (off, _) => imgNum b (off + 32 * n) 32

/-- Initial estimate of a phase tag, where PHASES has one (R233). -/
def phaseEstimate (b : List Byte) (tag : Nat) : Option Nat :=
  ((flatEntries b 7 8).find? fun e => bitsOf e 63 56 == tag).map fun e => bitsOf e 31 0

/-! ## Staging windows (R224, R227) -/

/-- Ranges of staging that loaded plans, with their windows and their code (R15), or a firmware update hold: base and length. -/
def State.stageWindows (s : State) : List (Nat × Nat) :=
  (s.plans.map fun e => (e.2.stageBase, planStageLen e.2.image)) ++ (s.plans.map fun e => codeWindow e.2.image e.2.codeBase) ++
  (match s.mgmt.update with
   | .receiving b _ => [(b, 0x800000)]
   | .verified b _ => [(b, 0x800000)]
   | _ => [])

def overlaps (a n b m : Nat) : Bool := decide (a < b + m) && decide (b < a + n)

/-- The lowest base, a multiple of 256, of n bytes that meet none of the given ranges. The hub chooses the base (R227; log entry 36,
DESIGN CHOICE). -/
def freeBeside (ws : List (Nat × Nat)) (n : Nat) : Option Nat :=
  let cands := 0 :: ws.map fun w => ceilDiv (w.1 + w.2) 256 * 256
  let ok := cands.filter fun b => decide (b + n ≤ 0x4000000) && ws.all fun w => !(overlaps b n w.1 w.2)
  if ok = [] then none else some (ok.foldl min 0x4000000)

/-- A free range of n bytes of staging. -/
def State.stageFree (s : State) (n : Nat) : Option Nat := freeBeside s.stageWindows n

/-- The window of a plan whose container stands at a staging address: it stays clear of the code that is kept (R15, R235). -/
def State.stageWindow (s : State) (b : List Byte) (base : Nat) : Option Nat :=
  freeBeside (codeWindow b base :: s.stageWindows) (planStageLen b)

end Sys2Proof.Machine
end

