-- ==== Sys2Proof/Machine/Repair.lean ====
section
/-!
DEFINITION. Sys2Proof/Machine/Repair.lean: what a Severe handling does (R396): replay of a unit (R402), retirement and adoption of a
core (R20, R403), repair and rebuild of a DCM (R185-R188), stand-in and retirement of a deck (R118), borrowed converters (R155),
and the repair records (R410).
-/
namespace Sys2Proof.Machine

/-! ## Repair records (R410) -/

/-- A 16 B record in the layout of R410. -/
def repairRecord (typ region slice unit position failed replacement source beat : Nat) : Repair :=
  toLe 1 typ ++ toLe 1 region ++ toLe 1 slice ++ toLe 1 unit ++ toLe 2 position ++ toLe 2 failed ++ toLe 2 replacement
  ++ toLe 1 source ++ toLe 1 0 ++ toLe 4 beat

/-- Append a record to the soft repair map of its region; a full map raises a CONFIG event (R410). -/
def State.addRepair (s : State) (region : Nat) (r : Repair) : State :=
  let l := s.config.repairs.getD region []
  if l.length < 2048 then
    { s with config := ({ s.config with repairs := s.config.repairs.set region (l ++ [r]) } : Config).put (.repairs region (l ++ [r])) }
  else s.reportOnly 25 0 1

/-! ## Replay (R402) -/

/-- Plans with a run in progress that use a core. -/
def State.plansOn (s : State) (core : Nat) : List Nat :=
  (s.runs.map (·.1)).filter fun n => match s.plan? n with
    | some p => Nat.testBit (planMask p.image) core
    | none => false

/-- A task whose unit has been ended: nothing queued, nothing running, no token incremented (R402 step 1). -/
def Task.cut (t : Task) : Task := { t with queue := [], pushAt := [], arr := [], barriers := [], seq := .stopped }

/-- Program and erase commands of a cut unit end without their tokens: word-lines not yet closed are dropped (R402 step 1). -/
def Core.cutJobs (c : Core) (tk : Nat) : Core :=
  { c with decks := c.decks.map fun e =>
      (e.1, { e.2 with
        job := e.2.job.map fun j => if j.task = some tk then { j with data := [], words := [], nextWl := e.2.pages / 17 } else j,
        eraseToken := match e.2.eraseToken with
          | some (k, n) => if k = tk then none else some (k, n)
          | none => none }) }

/-- End the unit in progress of a plan on every core of its task (R402 step 1). -/
def State.breakUnit (s : State) (n : Nat) : State :=
  match s.plan? n, s.run? n with
  | some p, some r =>
    let s := (planCores p.image).foldl (fun s c =>
      (s.modTask c (planTask p.image) Task.cut).modCore c fun k => k.cutJobs (planTask p.image)) s
    s.setRun n { r with broken := true }
  | _, _ => s

/-- The batches in flight whose corpus has a deck in the slice of a core are ended, and run again from the next beat boundary (R402). -/
def State.restartBatches (s : State) (core : Nat) : State :=
  let on := fun (p : Nat) => match s.corpus? p with
    | some k => k.decks.any fun d => d.1 / 192 == core
    | none => false
  let n := (s.batches.filter fun b => on b.1).length
  let again := s.batches.map fun (b : Nat × Batch) => if on b.1 then (b.1, { b.2 with start := s.beat + 1, replayed := true }) else b
  { s with batches := again }.hubInc rReplayCount n

/-- End the units in progress on a core. -/
def State.breakUnits (s : State) (core : Nat) : State := ((s.plansOn core).foldl (fun s n => s.breakUnit n) s).restartBatches core

/-- Would a failed unit of the plan be replayed: a run in progress that has not been replayed yet (R402, R405)? -/
def State.replayable (s : State) (n : Nat) : Bool :=
  match s.run? n with
  | some r => !r.broken && !r.replayed
  | none => false

/-! ## Cells (R89-R92, R98, R106) -/

/-- The level of a cell among the bytes from a base on, four cells a byte. -/
def cellAt (m : Mem) (base k : Nat) : Nat := fld (m.byte (base + k / 4)) (2 * (k % 4) + 1) (2 * (k % 4))
def putCell (m : Mem) (base k v : Nat) : Mem :=
  m.put (base + k / 4) (setFld (m.byte (base + k / 4)) (2 * (k % 4) + 1) (2 * (k % 4)) v)

/-- The two's complement codes of a word-line, packed by R57: INT8 w = u - 128, INT4 w = u - 8 (R90, R91). -/
def Deck.rowBytes (d : Deck) (wl : Nat) : List Byte :=
  (d.cells.read (1024 * wl) 1024).map fun b => b ^^^ (if d.fmt4 then 0x88 else 0x80)

/-- Weight of word-line i and output column j (R90, R91). -/
def Deck.weight (d : Deck) (i j : Nat) : Int :=
  if d.fmt4 then (bitsOf (d.cells.byte (1024 * i + j / 2)).toNat (4 * (j % 2) + 3) (4 * (j % 2)) : Int) - 8
  else ((d.cells.byte (1024 * i + j)).toNat : Int) - 128

def Deck.columns (d : Deck) : Nat := if d.fmt4 then 2048 else 1024

/-- Base-4 digits of a weight. -/
def Deck.digits (d : Deck) : Nat := if d.fmt4 then 2 else 4

/-- The row-closed bit of a word-line: the last of its 128 check bits (R92, R98; log entry 110, DEDUCED). -/
def Deck.closed (d : Deck) (wl : Nat) : Bool := bitAt (d.aux.byte (128 * wl + 127)) 7

/-- Every cell other than the wear-count cells is at L0 (R104, R106). -/
def Deck.blank (d : Deck) : Bool := d.cells.isEmpty && d.aux.all fun e => e.1 == 96 || e.1 == 97

/-! ## Decks that a reset or a power loss cuts (R104) -/

/-- The lowest word-line that is not closed. -/
def Deck.lowestOpen (d : Deck) : Option Nat := (List.range 1024).find? fun wl => !d.closed wl

/-- Suspect pages: those of the lowest open word-line, with its control group, that hold any cell above L0; the wear count does not
count. -/
def Deck.suspect (d : Deck) : Nat :=
  match d.lowestOpen with
  | none => 0
  | some wl =>
    ((List.range 16).filter fun g => (d.cells.read (1024 * wl + 64 * g) 64).any (· != 0)).length
    + b2n ((d.aux.read (128 * wl + 98) 30).any (· != 0) || (wl != 0 && (d.aux.read (128 * wl + 96) 2).any (· != 0)))

/-- What the scan finds in a deck without a cut erase: erased, every word-line closed, or an open program. -/
def Deck.scanned (d : Deck) : Deck :=
  if d.blank then { d with state := .erased, pages := 0 }
  else match d.lowestOpen with
    | none => { d with state := .ready }
    | some wl => { d with state := .incomplete, noResume := false, pages := 17 * wl }

/-- The deck after its program or erase ends without a result: no grant, no job. -/
def Deck.idle (d : Deck) : Deck :=
  { d with holdsGrant := false, queuedAt := none, eraseCmd := none, eraseTask := none, eraseToken := none, copyDone := false, job := none,
           pulses := 0, recorded := false, handover := false }

/-- The scan of a deck. `recorded` is the count of its latest erase record: an erase is cut where the deck's own count does not exceed it. -/
def Deck.rescan (d : Deck) (recorded : Option Nat) : Deck :=
  if recorded.any fun w => decide (d.wear ≤ w) then { d.idle with state := .incomplete, noResume := true, pages := 0 } else d.idle.scanned

/-- A deck after a cut and the scan that follows it. A reset scans every deck that is neither erased nor closed; a loss of VDD_HV those that
it cuts. -/
def Deck.cut (d : Deck) (recorded : Option Nat) (reset : Bool) : Deck :=
  match d.state with
  | .erasing => d.rescan recorded
  | .programming => d.rescan recorded
  | .incomplete => if reset then d.rescan recorded else d.idle
  | _ => d.idle

/-- Decks whose pages the scan counts. -/
def Deck.counted (d : Deck) (recorded : Option Nat) (reset : Bool) : Bool :=
  (decide (d.state = .programming) || (reset && decide (d.state = .incomplete))) && !(recorded.any fun w => decide (d.wear ≤ w))

/-- Suspect pages that a scan in the regions of a predicate finds. -/
def State.suspectPages (s : State) (on : Nat → Bool) (reset : Bool) : Nat :=
  ((s.cores.filter fun e => on (regionOf e.1)).map fun e =>
    ((e.2.decks.filter fun d => d.2.counted (mget s.config.erases (216 * e.1 + d.1)) reset).map fun d => d.2.suspect).sum).sum

/-- Cut every program and erase in the regions of a predicate. -/
def State.cutDecks (s : State) (on : Nat → Bool) (reset : Bool) : State :=
  s.mapCores fun n c =>
    if on (regionOf n) then
      { c with decks := (c.decks.map fun e => (e.1, e.2.cut (mget s.config.erases (216 * n + e.1)) reset)).filter fun e => e.2 ≠ Deck.init }
    else c

/-- Cut them, and count the suspect pages. -/
def State.cutAndCount (s : State) (on : Nat → Bool) (reset : Bool) : State :=
  (s.cutDecks on reset).hubInc rSuspectPage (s.suspectPages on reset)

/-! ## Physical cores (R20, R21, R403) -/

/-- The physical cores that serve a logical core or wait to. -/
def State.coreTaken (s : State) (p : Nat) : Bool :=
  ((List.range 64).any fun c => s.physOf (64 * (p / 68) + c) == some p) || s.adoptions.any fun a => a.2.1 == p

/-- The free spare with the lowest physical number of a region (R20). -/
def State.freeSpare (s : State) (region : Nat) : Option Nat :=
  ((List.range 68).map fun n => 68 * region + n).find? fun p => decide ((s.physCore p).state = .good) && !(s.coreTaken p)

/-- What a reset of its region takes from a core: scratchpad, side memory, work in progress, trims and counters (R437, R441). The
layer tables are rebuilt with the tasks; estimates and trims are calibrated anew. -/
def Stack.untrim (x : Stack) : Stack := { x with trims := [], colTrims := [], retrim := none, resumeAt := 0 }

def Core.regionClear (c : Core) : Core :=
  { c.settled with
           scratch := [], side := [], seqOn := false,
           tasks := c.tasks.map fun t => { t.cut with tokens := t.tokens.map fun _ => 0, doneStep := false, doneEnd := false },
           regs := c.regs.filter fun e => decide (cLayerTbl ≤ e.1 ∧ e.1 < cStackCal),
           stk := (c.stk.map fun e => (e.1, e.2.untrim)).filter fun e => e.2 ≠ Stack.init,
           decks := (c.decks.map fun e => (e.1, { e.2 with est := [] })).filter fun e => e.2 ≠ Deck.init }

/-- Runs that use a region end with a status (R21, R437). -/
def State.failRegionRuns (s : State) (r status : Nat) : State :=
  { s with runs := s.runs.map fun e =>
      match s.plan? e.1 with
      | some p => if Nat.testBit (planRegions p.image) r then (e.1, { e.2 with broken := true, fail := some (e.2.fail.getD status) }) else e
      | none => e }

/-- Host commands with work on a region end with a status: programs and erases under way on its decks, and batches that scan them (R21, R437). -/
def State.failRegionCmds (s : State) (r status : Nat) : State :=
  let busy := fun (d : Nat) =>
    let x := (s.core (d / 192)).deck ((s.core (d / 192)).deckPos (d % 192))
    decide (d / 12288 = r) && (decide (x.state = .programming) || decide (x.state = .erasing))
  let scans := fun (c : Cmd) => s.batches.any fun b => b.2.cmds.contains c.id &&
    match s.corpus? b.1 with
    | some k => k.decks.any fun d => d.1 / 12288 == r
    | none => false
  { s with cmds := s.cmds.map fun c =>
      if (decide (c.phase ≠ .waiting) && c.decks.any busy) || scans c then { c with fail := some (c.fail.getD status) } else c }

/-- A region leaves service after a reset of its cores (R21). -/
def State.regionOut (s : State) (r : Nat) : State :=
  let s := (s.failRegionRuns r stRegionReset).failRegionCmds r stRegionReset
  let s := s.cutAndCount (· == r) true
  let s := s.mapCores fun n c => if regionOf n = r then c.regionClear else c
  let s := s.hubOr rResetCause (BitVec.ofNat 32 (2 ^ (4 + r)))
  s.setRegion r { Region.init with service := .outOfService, levels := (s.region r).levels }

/-- Retire the physical core of a logical core: the lowest free spare is to adopt it at the next beat boundary; with none the
logical core stays unbound and its region goes out of service (R20, R21). A core that is retired without an adoption gets no repair
record: the state of the physical core and the binding stand over every reset (log entry 113, DESIGN CHOICE: the manual does not say
what keeps such a retirement). -/
def State.retireCore (s : State) (core source : Nat) : State :=
  match s.physOf core with
  | none => s
  | some p =>
    let s := s.setPhys p { s.physCore p with state := .retired }
    let s := { s with retireDue := sdel s.retireDue core }
    match s.freeSpare (regionOf core) with
    | some q => { s with adoptions := s.adoptions ++ [(core, q, source)] }
    | none =>
      let s := { s with coreMap := sput none s.coreMap core (some none) }
      s.regionOut (regionOf core)

/-- The logical core that a physical core serves. -/
def State.serves (s : State) (p : Nat) : Option Nat :=
  ((List.range 64).find? fun c => s.physOf (64 * (p / 68) + c) == some p).map fun c => 64 * (p / 68) + c

/-- Severe handling of sources 6 and 7: a bound core waits for the last beat before the next unit start (R403); a spare is retired. -/
def State.retireLater (s : State) (p source : Nat) : State :=
  match s.serves p with
  | some c => if (mget s.retireDue c).isSome then s else { s with retireDue := sins s.retireDue c source }
  | none => s.setPhys p { s.physCore p with state := .retired }

/-! ## DCMs (R185-R189) -/

/-- Tier of a logical DCM number, data 0-511 or parity 512 + k (R166). -/
def dcmTier (l : Nat) : Nat := if l < 512 then l / 128 else (l - 512) / 16

/-- The parity group of a logical DCM (R166). -/
def dcmGroup (l : Nat) : Nat := if l < 512 then l / 8 else l - 512

/-- Physical position, within its tier, that serves a logical DCM (R166). -/
def Core.dcmPos (c : Core) (l : Nat) : Nat :=
  (c.dcmInfo l).position.getD (if l < 512 then l % 128 else 128 + (l - 512) % 16)

/-- Members of a parity group. -/
def groupMembers (g : Nat) : List Nat := (List.range 8).map (8 * g + ·) ++ [512 + g]

/-- Two members of a group are lost: the case of R189. -/
def Core.groupDead (c : Core) (g : Nat) : Bool := decide (2 ≤ ((groupMembers g).filter fun l => (c.dcmInfo l).lost).length)

/-- Begin the rebuild of a lost DCM into its tier's reserve where none is in progress and the reserve is unused (R187, R188). A lost
reserve is rebuilt into itself (log entry 114, DESIGN CHOICE: the manual names no target for it). -/
def Core.startRebuild (c : Core) (l : Nat) : Core :=
  match c.rebuild, c.reserves.getD (dcmTier l) none with
  | none, some r => { c with rebuild := some { lost := l, target := r, cursor := 0 } }
  | _, _ => c

/-- The tier of a DCM has a reserve that no rebuild in progress uses up (R188). -/
def Core.freeReserve (c : Core) (l : Nat) : Bool := match c.reserves.getD (dcmTier l) none with
  | some r => c.rebuild.map (·.target) != some r
  | none => false

/-! ### Parity (R166, R186, R187) -/

/-- Any DCM of the slice is lost. -/
def Core.anyLost (c : Core) : Bool := c.dcms.any fun e => e.2.lost

/-- The data DCM of a byte address, and its address in the parity DCM of its group. -/
def dcmAt (a : Nat) : Nat := a / 0x40000
def parityAt (a : Nat) : Nat := 0x40000 * (a / 0x200000) + a % 0x40000

/-- A Mem with one byte changed by XOR. -/
def Mem.flip (m : Mem) (a : Nat) (b : Byte) : Mem := m.put a (m.byte a ^^^ b)

/-- The contents of a lost data DCM, as its group gives them: the XOR of the other members and parity (R186). -/
def Core.rebuilt (c : Core) (l : Nat) : Mem :=
  let put := fun (m : Mem) (a : Nat) (b : Byte) => m.flip (0x40000 * l + a % 0x40000) b
  let m := (c.dcm.filter fun e => dcmAt e.1 / 8 == l / 8).foldl (fun m e => put m e.1 e.2) []
  (c.parity.filter fun e => dcmAt e.1 == l / 8).foldl (fun m e => put m e.1 e.2) m

/-- The data DCMs as reads see them: those that are lost as their groups give them (R186, R187). -/
def Core.dcmView (c : Core) : Mem :=
  if c.anyLost then
    ((c.dcms.filter fun e => e.2.lost && decide (e.1 < 512)).flatMap fun e => c.rebuilt e.1).foldl (fun m e => m.put e.1 e.2) c.dcm
  else c.dcm

/-- New contents of the data DCMs: parity follows every byte that changes, where the group's parity DCM is not lost; a lost DCM holds
nothing itself (R166, R187). -/
def Core.dcmStore (c : Core) (m : Mem) : Core :=
  let old := c.dcmView
  let changed := (m.filter fun e => old.byte e.1 != e.2).map (·.1) ++ (old.filter fun e => m.byte e.1 == 0).map (·.1)
  let parity := changed.foldl (fun p a =>
    if (c.dcmInfo (512 + dcmAt a / 8)).lost then p else Mem.flip p (parityAt a) (old.byte a ^^^ m.byte a)) c.parity
  { c with parity := parity, dcm := if c.anyLost then m.filter fun e => !(c.dcmInfo (dcmAt e.1)).lost else m }

/-- A command may no longer read some of a range of rows of a DCM: a second loss took them (R189). -/
def Core.rowsDead (c : Core) (l first n : Nat) : Bool := match (c.dcmInfo l).deadFrom with
  | some k => decide (k < first + n) && decide (0 < n)
  | none => false

/-- Rows written whole are readable again, once the DCM's group is (R189; log entry 121, DEDUCED). -/
def Core.rowsWritten (c : Core) (l first n : Nat) : Core :=
  match (c.dcmInfo l).deadFrom with
  | some k => if first ≤ k ∧ k < first + n ∧ (c.dcmInfo l).lost = false then
      c.setDcmInfo l { c.dcmInfo l with deadFrom := if 1024 ≤ first + n then none else some (first + n) } else c
  | none => c

/-- A DCM that nothing will serve: lost with no reserve left for it, or its number used up as a reserve (R188). -/
def Core.lostForGood (c : Core) (l : Nat) : Bool :=
  (c.dcmInfo l).gone || ((c.dcmInfo l).lost && !(c.dcmInfo l).queued && c.rebuild.map (·.lost) != some l)

/-- The parity of a group, from its eight members. -/
def Core.groupParity (c : Core) (g : Nat) : Mem :=
  (c.dcm.filter fun e => dcmAt e.1 / 8 == g).foldl (fun m e => m.flip (parityAt e.1) e.2) []

/-- The next lost DCM of the slice that waits for its rebuild. -/
def Core.nextLost (c : Core) : Option Nat :=
  (List.range 576).find? fun l => (c.dcmInfo l).lost && (c.dcmInfo l).queued && c.freeReserve l

/-- What a DCM itself holds is gone. -/
def Core.dropDcm (c : Core) (l : Nat) : Core :=
  if l < 512 then { c with dcm := c.dcm.clear (0x40000 * l) 0x40000 } else { c with parity := c.parity.clear (0x40000 * (l - 512)) 0x40000 }

/-- A second loss in a group (R189): the rows of both that the rebuild of the first has not yet restored, from row k on, are gone. -/
def Core.markDead (c : Core) (l k : Nat) : Core :=
  ((groupMembers (dcmGroup l)).filter fun m => (c.dcmInfo m).lost).foldl (fun c m =>
    let d := c.dcmInfo m
    c.setDcmInfo m { d with deadFrom := some (min k (d.deadFrom.getD k)) }) c

/-- The row from which a second loss takes what a rebuild of the group has not restored: the cursor, a free value between the least row it
can stand at and the end (R187, R189); with no rebuild, every row. -/
def State.deadRow (s : State) (core l : Nat) : Nat :=
  match (s.core core).rebuild with
  | some r => if dcmGroup r.lost = dcmGroup l then (freeIn (s.free 904) r.cursor 1024).toNat else 0
  | none => 0

/-- Declare a DCM lost (R187): one L2 event of DCM_LOST, and the rebuild. Without a reserve its handling ends at once (R188). -/
def State.loseDcm (s : State) (core l : Nat) : State :=
  let c := s.core core
  if (c.dcmInfo l).lost || (c.dcmInfo l).gone then s else
  let k := s.deadRow core l
  let c := (c.dropDcm l).setDcmInfo l { c.dcmInfo l with lost := true, queued := c.freeReserve l && c.rebuild.isSome }
  let c := if c.groupDead (dcmGroup l) then c.markDead l k else c
  let s := s.tookFree.setCore core (c.startRebuild l)
  let (s, _) := s.recordEvent 14 (576 * core + l) 2
  if c.freeReserve l = false then s.severeEnd 14 (576 * core + l) else s

/-- Spare columns in use in a DCM: those that fuses assign and those of soft repairs (R185). -/
def State.spareCols (s : State) (core l : Nat) : Nat := sget 0 s.fuses.spareColumns (576 * core + l) + ((s.core core).dcmInfo l).spareColumns

/-- Soft repair: a spare column where one is free, else the DCM is lost (R185). -/
def State.softRepair (s : State) (core l column source : Nat) : State :=
  let c := s.core core
  let d := c.dcmInfo l
  if d.lost ∨ d.gone then s
  else if s.spareCols core l < 32 then
    let s := s.setCore core (c.setDcmInfo l { d with spareColumns := d.spareColumns + 1 })
    s.addRepair (regionOf core)
      (repairRecord 4 (regionOf core) (core % 64) (dcmTier l) (c.dcmPos l) column (s.spareCols core l - 1) source s.beat)
  else s.loseDcm core l

/-! ## Decks and converters (R114, R117, R118, R155) -/

/-- The logical deck, within its stack, that a physical deck 9 x stack + position holds; none: the spare or no logical deck. -/
def Core.logicalAt (c : Core) (i : Nat) : Option Nat :=
  (List.range 8).find? fun k => (c.stack (i / 9)).pos.getD k 9 == i % 9

/-- A stack has a usable spare: one that is not retired (R105, R114). -/
def Core.hasSpare (c : Core) (st : Nat) : Bool :=
  decide ((c.stack st).spare < 9) && decide ((c.deck (9 * st + (c.stack st).spare)).state ≠ .retired)

/-- The deck that the next refresh of a stack is for: DRIFT above 24 first, then by position (R113). Indices within the core. -/
def Core.nextRefresh (c : Core) (st : Nat) : Option Nat :=
  let due := ((List.range 9).map (9 * st + ·)).filter fun i => (c.deck i).refreshDue
  match due.find? fun i => decide (24 < (c.deck i).drift) with
  | some i => some i
  | none => due.head?

/-- The deck that a refresh fills: the stack's spare, else an ERASED pool deck of the stack (R114). -/
def State.refreshTarget (s : State) (core st : Nat) : Option Nat :=
  let c := s.core core
  if c.hasSpare st then some (9 * st + (c.stack st).spare)
  else ((List.range 8).find? fun k =>
      !(bitAt (sget (0 : Byte) s.deckOwner (192 * core + 8 * st + k)) 2) && decide ((c.deck (c.deckPos (8 * st + k))).state = .erased)).map
    fun k => c.deckPos (8 * st + k)

/-- A deck refused at the wear limit: RETIRED, its contents intact but unusable (R105). -/
def Deck.wearOut (d : Deck) : Deck := { d.idle with state := .retired, worn := true }

/-- A deck that the device itself erases: 400 pulses, when it gets a grant (R100, R101); at the wear limit it is retired (R105). -/
def Deck.startErase (d : Deck) (beat : Nat) : Deck :=
  if 3000 ≤ d.wear then d.wearOut else { d.idle with state := .erasing, pulses := 400, queuedAt := some beat }

/-- Begin the next refresh of a stack: erase the target, or ask for a grant to program it; with no target the refresh is blocked (R114). -/
def State.serveRefresh (s : State) (core st : Nat) : State :=
  let c := s.core core
  match c.nextRefresh st, s.refreshTarget core st with
  | none, _ => s
  | some _, none => s.reportOnly 18 (24 * core + st) 1
  | some i, some k =>
    let d := c.deck k
    if d.holdsGrant ∨ d.queuedAt.isSome ∨ d.copyDone then s else
    match d.state with
    | .erased =>
      let job : ProgJob := { task := none, cmd := none, nextWl := 0, data := [], words := [], source := some i, crc := none }
      s.setCore core (c.setDeck k { d with state := .programming, pages := 0, fmt4 := (c.deck i).fmt4, colcheck := (c.deck i).colcheck,
                                           enc := (c.deck i).enc, installed := (c.deck i).installed, job := some job, queuedAt := some s.beat })
    | .ready => s.setCore core (c.setDeck k (d.startErase s.beat))
    | .incomplete => s.setCore core (c.setDeck k (d.startErase s.beat))
    | _ => s

/-- Schedule a deck for refresh (R113). -/
def State.scheduleRefresh (s : State) (i : Nat) : State :=
  let d := s.deck i
  if d.refreshDue then s
  else ((s.setDeck i { d with refreshDue := true }).hubInc rRefreshPending 1).serveRefresh (i / 216) (i % 216 / 9)

/-- The deck of a refused erase (R105). -/
def State.wearRetire (s : State) (i : Nat) : State := s.setDeck i (s.deck i).wearOut

/-- Decks of a stack being filled or filled by a refresh of a deck. Indices within the core. -/
def Core.refreshInto (c : Core) (i : Nat) : Option Nat :=
  ((List.range 9).map (i / 9 * 9 + ·)).find? fun k => match (c.deck k).job with
    | some j => j.source == some i
    | none => false

/-- A refresh is abandoned (R115): the deck is no longer scheduled, and the deck filled for it is to be erased. -/
def State.abandonRefresh (s : State) (i : Nat) : State :=
  if (s.deck i).refreshDue then
    let s := s.setDeck i { s.deck i with refreshDue := false }
    let s := s.setHub rRefreshPending (s.hubWord rRefreshPending - 1)
    match (s.core (i / 216)).refreshInto (i % 216) with
    | some k => s.modCore (i / 216) fun c =>
        c.setDeck k { c.deck k with state := .incomplete, noResume := true, copyDone := false, holdsGrant := false, queuedAt := none, job := none }
    | none => s
  else s

/-- The rows of a deck, read into the slice's stand-in area: row i at 1,024 i (R118; log entry 42, DEDUCED). -/
def Core.standInRows (c : Core) (k : Nat) : Core :=
  match c.standIn with
  | some l => c.dcmStore (c.dcmView.write (0x40000 * l) ((List.range 1024).flatMap (c.deck k).rowBytes))
  | none => c

/-- Stand in for a failed deck (R118): the units in progress are replayed, the deck is read into the stand-in area and refreshed;
without a spare one Attention event of ARRAY_REFRESH is raised. The area holds one deck (log entry 42, DEDUCED). -/
def State.standIn (s : State) (i : Nat) : State :=
  let core := i / 216
  let c := s.core core
  let s := s.breakUnits core
  if c.standIn.isNone ∨ (c.standInDeck.isSome ∧ c.standInDeck ≠ some (i % 216)) ∨ (c.deck (i % 216)).state ≠ .ready then s else
  let s := s.modCore core fun c =>
    { (c.setDeck (i % 216) { c.deck (i % 216) with standIn := true }).standInRows (i % 216) with standInDeck := some (i % 216) }
  if (s.deck i).refreshDue then s.serveRefresh core (i % 216 / 9) else s.scheduleRefresh i

/-- Patch the output column of one failed data bit-line of a READY deck (R117): a redundant bit-line, a free value, will take the
bit-line's place, the column's weights are read into the stand-in area, and the deck is scheduled for refresh; beyond 8 columns the deck
fails as a whole (R118). Columns lie in the area in the order of their patches, 1,024 B each (log entry 42, DEDUCED). -/
def State.patchLine (s : State) (i line : Nat) : State :=
  let d := s.deck i
  let core := i / 216
  let col := line / d.digits
  if d.state ≠ .ready ∨ d.replaced.any (·.1 == line) then s
  else if !(d.patched.contains col) ∧ 8 ≤ d.patched.length then s.standIn i
  else
    let spare := (freeIn (s.free 901) 4096 4479).toNat
    let n := ((s.core core).decks.map fun e => e.2.patched.length).sum
    let s := s.setDeck i { d with patched := if d.patched.contains col then d.patched else d.patched ++ [col],
                                  replaced := d.replaced ++ [(line, spare)] }
    let s := s.modCore core fun c => match c.standIn, c.standInDeck with
      | some l, none => c.dcmStore (c.dcmView.write (0x40000 * l + 1024 * (n % 1024)) (tabulate 1024 fun r => BitVec.ofInt 8 (d.weight r col)))
      | _, _ => c
    let s := (s.addRepair (regionOf core) (repairRecord 7 (regionOf core) (core % 64) (i % 216 / 9) (i % 9) line spare 15 s.beat)).tookFree
    s.scheduleRefresh i

/-- Retire a deck (source 16): it leaves use, and its logical number has no physical deck (R105). -/
def State.retireDeck (s : State) (i : Nat) : State :=
  let s := s.setDeck i { (s.deck i).idle with state := .retired }
  s.addRepair (regionOf (i / 216))
    (repairRecord 6 (regionOf (i / 216)) (i / 216 % 64) (i % 216 / 9) (i % 9) 0 0 16 s.beat)

/-- A stack's work before it resumes on the lender's converters: 16 CR operations at AVG 4 and 16 PW operations on each of its 9 decks
(R155). -/
def resumeCycles : Nat := 131328

/-- The converter bank of a stack has failed: borrow those of stack s XOR 1, else stand in for its decks (R155, R118). One L1 event
of CONVERTER is raised once the borrow begins (R404). A stack that no neighbour can lend to computes without converters: its check
reference cannot pass the bound check of R149 (log entry 42, DEDUCED). -/
def State.converterFailed (s : State) (core st : Nat) : State :=
  let c := s.core core
  let other := st ^^^ 1
  if (c.stack st).borrow then s
  else if (c.stack other).borrow ∨ (c.stack st).lending then
    let s := s.setCore core (c.setStack st { c.stack st with bankLost := true })
    (((List.range 9).map fun p => 216 * core + 9 * st + p).filter fun i => decide ((s.deck i).state = .ready)).foldl
      (fun s i => s.standIn i) s
  else
    let s := s.breakUnits core
    let s := s.modCore core fun c =>
      let at_ := s.time.now + ceilDiv (10 * resumeCycles) (vfMhz100 (s.region (regionOf core)).point)
      let c := (c.inc64 cCrOps 144).inc64 cPwOps 144
      (c.setStack st { c.stack st with borrow := true, lender := other, resumeAt := at_ }).setStack other { c.stack other with lending := true }
    let s := s.addRepair (regionOf core) (repairRecord 8 (regionOf core) (core % 64) st 0 0 other 20 s.beat)
    if (List.range 64).any fun k => (List.range 24).any fun j =>
        let n := 64 * regionOf core + k
        !(n == core && j == st) && ((s.core n).stack j).borrow then s
    else s.reportOnly 20 (24 * core + st) 1

/-- A converter bank that self-test finds failed: the neighbour's is borrowed where it can be (R155, R409). Power-up calibration does what
a borrow needs before it resumes. -/
def Core.loseBank (c : Core) (st : Nat) : Core :=
  let other := st ^^^ 1
  if (c.stack st).borrow then c
  else if (c.stack other).borrow ∨ (c.stack st).lending then c.setStack st { c.stack st with bankLost := true }
  else (c.setStack st { c.stack st with borrow := true, lender := other }).setStack other { c.stack other with lending := true }

/-- A DCM that self-test finds failed: its contents are lost, and it waits for no rebuild (R409; log entry 71, DEDUCED). -/
def Core.failDcm (c : Core) (l : Nat) : Core := (c.dropDcm l).setDcmInfo l { c.dcmInfo l with lost := true }

/-! ## The Severe handling of each source (R396) -/

/-- Severe handling of an instance that has been reported (R396, R399). The bit-column that repeated corrections point at is a free
value (log entry 3, DESIGN CHOICE). -/
def State.handleSevere (s : State) (src inst : Nat) : State :=
  match src with
  | 5 => { s with power := { s.power with severe := true, coolBeats := 0 } }
  | 6 => (s.retireLater inst src).severeEnd src inst
  | 7 => (s.retireLater inst src).severeEnd src inst
  | 8 =>
    match s.serves inst with
    | some c => ((s.breakUnits c).retireCore c 8).severeEnd src inst
    | none => (s.setPhys inst { s.physCore inst with state := .retired }).severeEnd src inst
  | 12 => (s.tookFree.softRepair (inst / 576) (inst % 576) (freeIn (s.free 900) 0 2319).toNat 12).severeEnd src inst
  | 13 => (s.loseDcm (inst / 576) (inst % 576)).severeEnd src inst
  | 15 => (s.standIn inst).severeEnd src inst
  | 16 => (s.retireDeck inst).severeEnd src inst
  | 19 =>
    let (s, sev) := (s.severeEnd src inst).recordEvent 20 inst 2
    if sev then (s.converterFailed (inst / 24) (inst % 24)).severeEnd 20 inst else s
  | 20 => (s.converterFailed (inst / 24) (inst % 24)).severeEnd src inst
  | 14 => s
  | 22 => s
  | _ => s.severeEnd src inst

/-- One event of a source at its level, with the Severe handling it may start (R397-R400). -/
def State.faultEvent (s : State) (src inst lvl : Nat) : State :=
  let (s, sev) := s.recordEvent src inst lvl
  if sev then s.handleSevere src inst else s

/-- The physical core instance of a logical core, for sources 6 to 8 (R396). -/
def State.physInst (s : State) (core : Nat) : Nat := (s.physOf core).getD (68 * (core / 64) + core % 64)

end Sys2Proof.Machine
end

