-- ==== Sys2Proof/Machine/Crc.lean ====
section
/-!
DEFINITION. Sys2Proof/Machine/Crc.lean: CRC-32C over tile payloads (R81) and CRC-16 over deck columns (R109).
-/
namespace Sys2Proof.Machine

/-- One bit of the reflected CRC-32C register. -/
def crc32cBits : Nat → Nat → Nat
  | 0, c => c
  | n + 1, c => crc32cBits n (if c % 2 = 1 then (c / 2) ^^^ 0x82F63B78 else c / 2)

/-- CRC-32C (Castagnoli polynomial, reflected, initial and final all ones): the usual parameters of the named CRC (log 23). -/
def crc32c (bs : List Byte) : Word :=
  BitVec.ofNat 32 ((bs.foldl (fun c b => crc32cBits 8 (c ^^^ b.toNat)) 0xFFFFFFFF) ^^^ 0xFFFFFFFF)

/-- One bit of the CRC-16 register, most significant bit first. -/
def crc16Bits : Nat → Nat → Nat
  | 0, c => c
  | n + 1, c => crc16Bits n (if c % 2 ^ 16 ≥ 2 ^ 15 then ((c * 2) % 2 ^ 16) ^^^ 0x1021 else (c * 2) % 2 ^ 16)

/-- One byte into the CRC-16 of polynomial 0x1021 (R109). -/
def crc16Step (c : Half) (b : Byte) : Half := BitVec.ofNat 16 (crc16Bits 8 (c.toNat ^^^ (b.toNat * 256)))

/-- CRC-16, initial value 0xFFFF, no reflection and no final inversion (R109; log 23). -/
def crc16 (bs : List Byte) : Half := bs.foldl crc16Step 0xFFFF#16

end Sys2Proof.Machine
end

