-- ==== Sys2Proof/Machine/Dyadic.lean ====
section
/-!
DEFINITION. Sys2Proof/Machine/Dyadic.lean: exact values m * 2^e and rounding to nearest, ties to even (R69).
-/
namespace Sys2Proof.Machine

/-- The exact value m * 2^e. -/
structure Dy where
  m : Int
  e : Int
deriving DecidableEq, Repr

/-- n / d rounded to nearest, ties to even (R69). -/
def rneDiv (n : Int) (d : Nat) : Int :=
  let q := n / (d : Int)
  let r := n % (d : Int)
  if 2 * r < d then q else if (d : Int) < 2 * r then q + 1 else if q % 2 = 0 then q else q + 1

/-- A two's complement code shifted right by k bits, rounding under R69. -/
def shrRne (m : Int) (k : Nat) : Int := rneDiv m (2 ^ k)

/-- 2^k for a natural k, as an integer. -/
def pow2 (k : Nat) : Int := ((2 ^ k : Nat) : Int)

namespace Dy

def zero : Dy := ⟨0, 0⟩

def ofInt (i : Int) : Dy := ⟨i, 0⟩

/-- The integer multiple of 2^t that x is, when t is at most x's exponent. -/
def lift (x : Dy) (t : Int) : Int := x.m * pow2 (x.e - t).toNat

def add (x y : Dy) : Dy :=
  let t := min x.e y.e
  ⟨lift x t + lift y t, t⟩

def neg (x : Dy) : Dy := ⟨-x.m, x.e⟩

def sub (x y : Dy) : Dy := add x (neg y)

def mul (x y : Dy) : Dy := ⟨x.m * y.m, x.e + y.e⟩

/-- x * 2^k. -/
def scale (x : Dy) (k : Int) : Dy := ⟨x.m, x.e + k⟩

/-- x / 2^t rounded to an integer under R69. -/
def toScale (x : Dy) (t : Int) : Int :=
  if t ≤ x.e then lift x t else rneDiv x.m (2 ^ (t - x.e).toNat)

/-- floor(x / 2^t). -/
def floorScale (x : Dy) (t : Int) : Int :=
  if t ≤ x.e then lift x t else x.m / pow2 (t - x.e).toNat

def abs (x : Dy) : Dy := ⟨(x.m.natAbs : Int), x.e⟩

def isZero (x : Dy) : Bool := decide (x.m = 0)

/-- x ≤ y. -/
def le (x y : Dy) : Bool :=
  let t := min x.e y.e
  decide (lift x t ≤ lift y t)

/-- x < y. -/
def lt (x y : Dy) : Bool := !le y x

def max (x y : Dy) : Dy := if le x y then y else x

/-- floor(log2 |x|) for a non-zero x. -/
def log2 (x : Dy) : Int := (Nat.log2 x.m.natAbs : Int) + x.e

/-- Remove trailing zero bits, so that the exponent is that of the last significand bit; fuel bounds the shifts. -/
def normGo : Nat → Int → Int → Dy
  | 0, m, e => ⟨m, e⟩
  | fuel + 1, m, e => if m = 0 then ⟨0, 0⟩ else if m % 2 = 0 then normGo fuel (m / 2) (e + 1) else ⟨m, e⟩

def norm (x : Dy) : Dy := normGo (Nat.log2 x.m.natAbs + 1) x.m x.e

end Dy

end Sys2Proof.Machine
end

