-- ==== Sys2Proof/Machine/Float.lean ====
section
/-!
DEFINITION. Sys2Proof/Machine/Float.lean: FP32 and BF16 arithmetic under IEEE 754, round to nearest, ties to even, subnormals
kept (R59, R69).
-/
namespace Sys2Proof.Machine

/-- What a floating or integer element stands for: a finite exact value with its sign, an infinity, or not a number. -/
inductive FVal where
  | nan
  | inf (neg : Bool)
  | fin (neg : Bool) (v : Dy)
deriving DecidableEq, Repr

/-- The finite exact value of an element, zero where it has none. -/
def FVal.dy : FVal → Dy
  | .fin _ v => v
  | _ => Dy.zero

def FVal.isFinite : FVal → Bool
  | .fin _ _ => true
  | _ => false

/-- A finite value with the sign of its number; zero is positive. -/
def FVal.ofDy (v : Dy) : FVal := .fin (decide (v.m < 0)) v

/-- The value of a BF16 or FP32-like code of f fraction bits and an 8-bit exponent field. -/
def f8val (f : Nat) (x : Nat) : FVal :=
  let frac := x % 2 ^ f
  let ex := (x >>> f) % 256
  let neg := decide ((x >>> (f + 8)) % 2 = 1)
  let sgn : Int := if neg then -1 else 1
  if ex = 255 then (if frac = 0 then .inf neg else .nan)
  else if ex = 0 then .fin neg ⟨sgn * frac, -126 - f⟩
  else .fin neg ⟨sgn * ((frac + 2 ^ f : Nat) : Int), (ex : Int) - 127 - f⟩

/-- The value of an FP32 pattern (R59). -/
def f32val (x : Word) : FVal := f8val 23 x.toNat

/-- The value of a BF16 pattern (R59). -/
def bf16val (x : Half) : FVal := f8val 7 x.toNat

/-- The NaN the device produces: a quiet NaN whose other bits are free (log entry 20, UNVERIFIED). -/
def qnan : Word := Config.nanBits ||| 0x7FC00000#32

def f32inf (neg : Bool) : Word := if neg then 0xFF800000#32 else 0x7F800000#32

def f32zero (neg : Bool) : Word := if neg then 0x80000000#32 else 0#32

/-- Magnitude bits of n / d rounded to f fraction bits with exponents of FP32 range; 255 in the exponent field means overflow. -/
def encMag (f : Nat) (n d : Nat) : Nat :=
  if n = 0 then 0
  else
    let l0 : Int := (Nat.log2 n : Int) - (Nat.log2 d : Int)
    -- floor(log2 (n / d)) is l0 or l0 - 1
    let ge : Bool := if 0 ≤ l0 then decide (d * 2 ^ l0.toNat ≤ n) else decide (d ≤ n * 2 ^ (-l0).toNat)
    let l : Int := if ge then l0 else l0 - 1
    let q : Int := max (l - f) (-126 - f)
    let sig : Int := if 0 ≤ q then rneDiv n (d * 2 ^ q.toNat) else rneDiv ((n * 2 ^ (-q).toNat : Nat) : Int) d
    let code : Int := (q + 126 + f) * pow2 f + sig
    let top : Int := 255 * pow2 f
    (if top ≤ code then top else code).toNat

/-- The FP32 pattern of sign and magnitude n / d, rounded under R69. -/
def f32ofRat (neg : Bool) (n d : Nat) : Word :=
  BitVec.ofNat 32 ((if neg then 2 ^ 31 else 0) + encMag 23 n d)

/-- The FP32 pattern nearest to an exact value; an exact zero takes the given sign. -/
def f32ofDy (negZero : Bool) (v : Dy) : Word :=
  if v.m = 0 then f32zero negZero
  else
    let neg := decide (v.m < 0)
    let m := v.m.natAbs
    if 0 ≤ v.e then
      (if 400 < v.e then f32inf neg else f32ofRat neg (m * 2 ^ v.e.toNat) 1)
    else f32ofRat neg m (2 ^ (-v.e).toNat)

/-- The FP32 pattern of an element value (R59, R268). -/
def f32ofVal : FVal → Word
  | .nan => qnan
  | .inf n => f32inf n
  | .fin n v => f32ofDy n v

def f32neg (x : Word) : Word := x ^^^ 0x80000000#32

def f32isNan (x : Word) : Bool := decide (f32val x = .nan)

def f32abs (x : Word) : Word := x &&& 0x7FFFFFFF#32

/-- x + y, rounded under R69. -/
def fadd (x y : Word) : Word :=
  match f32val x, f32val y with
  | .nan, _ => qnan
  | _, .nan => qnan
  | .inf a, .inf b => if a = b then f32inf a else qnan
  | .inf a, .fin _ _ => f32inf a
  | .fin _ _, .inf b => f32inf b
  | .fin a u, .fin b v => f32ofDy (a && b) (Dy.add u v)

def fsub (x y : Word) : Word := if f32isNan y then qnan else fadd x (f32neg y)

/-- x * y, rounded under R69. -/
def fmul (x y : Word) : Word :=
  match f32val x, f32val y with
  | .nan, _ => qnan
  | _, .nan => qnan
  | .inf a, .inf b => f32inf (a != b)
  | .inf a, .fin b v => if v.m = 0 then qnan else f32inf (a != b)
  | .fin a u, .inf b => if u.m = 0 then qnan else f32inf (a != b)
  | .fin a u, .fin b v => f32ofDy (a != b) (Dy.mul u v)

/-- The quotient of two exact magnitudes as a fraction n / d. -/
def dyQuot (u v : Dy) : Nat × Nat :=
  let k := u.e - v.e
  if 0 ≤ k then (u.m.natAbs * 2 ^ k.toNat, v.m.natAbs) else (u.m.natAbs, v.m.natAbs * 2 ^ (-k).toNat)

/-- x / y, rounded under R69. -/
def fdiv (x y : Word) : Word :=
  match f32val x, f32val y with
  | .nan, _ => qnan
  | _, .nan => qnan
  | .inf _, .inf _ => qnan
  | .inf a, .fin b _ => f32inf (a != b)
  | .fin a _, .inf b => f32zero (a != b)
  | .fin a u, .fin b v =>
    if v.m = 0 then (if u.m = 0 then qnan else f32inf (a != b))
    else if u.m = 0 then f32zero (a != b)
    else let q := dyQuot u v; f32ofRat (a != b) q.1 q.2

/-- Integer square root by Newton steps; fuel bounds the steps. -/
def isqrtGo : Nat → Nat → Nat → Nat
  | 0, _, r => r
  | fuel + 1, n, r =>
    let r' := (r + n / r) / 2
    if r' < r then isqrtGo fuel n r' else r

def isqrt (n : Nat) : Nat := if n = 0 then 0 else isqrtGo (Nat.log2 n + 8) n (2 ^ (Nat.log2 n / 2 + 1))

/-- sqrt of m * 2^e for a positive m, as an exact value correct far below FP32 precision: floor with a sticky last bit. -/
def dySqrt (v : Dy) : Dy :=
  let e0 := v.e - 200
  let e1 := if e0 % 2 = 0 then e0 else e0 - 1
  let n := (Dy.lift v e1).toNat
  let r := isqrt n
  let sticky := if r * r = n then 0 else 1
  ⟨((2 * r + sticky : Nat) : Int), e1 / 2 - 1⟩

/-- sqrt x, rounded under R69. -/
def fsqrt (x : Word) : Word :=
  match f32val x with
  | .nan => qnan
  | .inf neg => if neg then qnan else f32inf false
  | .fin neg v => if v.m = 0 then f32zero neg else if neg then qnan else f32ofDy false (dySqrt v)

/-- x < y on numbers; false where either is NaN. +0 and -0 compare equal (R277). -/
def flt (x y : Word) : Bool :=
  match f32val x, f32val y with
  | .nan, _ => false
  | _, .nan => false
  | .inf a, .inf b => a && !b
  | .inf a, .fin _ _ => a
  | .fin _ _, .inf b => !b
  | .fin _ u, .fin _ v => Dy.lt u v

def fle (x y : Word) : Bool := !f32isNan x && !f32isNan y && !flt y x

def feq (x y : Word) : Bool := fle x y && fle y x

/-- FP32 to BF16, nearest, ties to even, overflow to infinity (R59). -/
def bf16ofF32 (x : Word) : Half :=
  match f32val x with
  | .nan => (qnan.extractLsb' 16 16)
  | .inf n => if n then 0xFF80#16 else 0x7F80#16
  | .fin n v =>
    let s := if n then 2 ^ 15 else 0
    let r := if 0 ≤ v.e then encMag 7 (v.m.natAbs * 2 ^ v.e.toNat) 1 else encMag 7 v.m.natAbs (2 ^ (-v.e).toNat)
    BitVec.ofNat 16 (s + r)

/-- BF16 to FP32, exactly. -/
def f32ofBf16 (x : Half) : Word := BitVec.ofNat 32 (x.toNat * 2 ^ 16)

/-- An integer as FP32, rounded under R69. -/
def f32ofInt (i : Int) : Word := f32ofDy false ⟨i, 0⟩

/-- The last place of FP32 at an exact value: the exponent of its unit in the last place. -/
def ulpExp (v : Dy) : Int := if v.m = 0 then -149 else max (Dy.log2 v - 23) (-149)

end Sys2Proof.Machine
end

