-- ==== Sys2Proof/Machine/Philox.lean ====
section
/-!
DEFINITION. Sys2Proof/Machine/Philox.lean: the Philox 4x32 counter-based generator with 10 rounds and its published multipliers
and round constants (R77, R285). The constants are the published ones, which the manual names and does not restate (log 23).
-/
namespace Sys2Proof.Machine

/-- One round: counter words (c0, c1, c2, c3), key words (k0, k1). -/
def philoxRound (c : Word × Word × Word × Word) (k0 k1 : Word) : Word × Word × Word × Word :=
  let (c0, c1, c2, c3) := c
  let p0 := 0xD2511F53 * c0.toNat
  let p1 := 0xCD9E8D57 * c2.toNat
  (BitVec.ofNat 32 (p1 / 2 ^ 32) ^^^ c1 ^^^ k0, BitVec.ofNat 32 p1,
   BitVec.ofNat 32 (p0 / 2 ^ 32) ^^^ c3 ^^^ k1, BitVec.ofNat 32 p0)

/-- n rounds, the key advancing after each by the Weyl constants. -/
def philoxRounds : Nat → Word × Word × Word × Word → Word → Word → Word × Word × Word × Word
  | 0, c, _, _ => c
  | n + 1, c, k0, k1 => philoxRounds n (philoxRound c k0 k1) (k0 + 0x9E3779B9#32) (k1 + 0xBB67AE85#32)

/-- Output word 0 of Philox 4x32-10 (R78, R285). -/
def philox0 (key : DWord) (c0 c1 c2 c3 : Word) : Word :=
  (philoxRounds 10 (c0, c1, c2, c3) (key.extractLsb' 0 32) (key.extractLsb' 32 32)).1

end Sys2Proof.Machine
end

