-- ==== Sys2Proof/Machine/Formats.lean ====
section
/-!
DEFINITION. Sys2Proof/Machine/Formats.lean: element formats, their values, engine operand codes, quantisation and stochastic
rounding (R56-R78).
-/
namespace Sys2Proof.Machine

/-- Bits of an element (R56). -/
def fmtBits : Nat → Nat
  | 1 => 4
  | 5 => 6
  | 6 => 6
  | 7 => 4
  | 8 => 16
  | 9 => 32
  | 10 => 32
  | 11 => 16
  | _ => 8

/-- Elements per 256 B row (R56). -/
def fmtCap : Nat → Nat
  | 1 => 512
  | 5 => 320
  | 6 => 320
  | 7 => 512
  | 8 => 128
  | 9 => 64
  | 10 => 64
  | 11 => 128
  | _ => 256

/-- Formats with one E8M0 scale per 32 elements (R56). -/
def fmtBlock (f : Nat) : Bool := (decide (2 ≤ f) && decide (f ≤ 7)) || f == 11

/-- Blocks per row: those of R56's table (log entry 37, DEDUCED). -/
def fmtBlocks (f : Nat) : Nat := if fmtBlock f then fmtCap f / 32 else 0

/-- Formats that a matrix engine takes as an operand (R56). -/
def fmtEngine (f : Nat) : Bool := decide (f ≤ 7)

def fmtValid (f : Nat) : Bool := decide (f ≤ 11)

/-- Exponent bits, mantissa bits, bias, largest exponent and largest finite element in units of 2^-mantissa (R63, R72). -/
structure MxShape where
  ebits : Nat
  mbits : Nat
  bias : Int
  emax : Int
  /-- Largest finite magnitude as an integer times 2^maxExp. -/
  maxM : Nat
  maxE : Int
  deriving DecidableEq, Repr

def mxShape : Nat → MxShape
  | 3 => { ebits := 4, mbits := 3, bias := 7, emax := 8, maxM := 7, maxE := 6 }
  | 4 => { ebits := 5, mbits := 2, bias := 15, emax := 15, maxM := 7, maxE := 13 }
  | 5 => { ebits := 2, mbits := 3, bias := 1, emax := 2, maxM := 15, maxE := -1 }
  | _ => { ebits := 3, mbits := 2, bias := 3, emax := 4, maxM := 7, maxE := 2 }

/-- Exponent of the unit U of an engine operand (R63-R65). -/
def fmtUnit : Nat → Int
  | 2 => -6
  | 3 => -6
  | 4 => 1
  | 5 => -3
  | 6 => -4
  | _ => 0

/-- The value of an MX floating element code, before its block scale (R63, R67). -/
def mxVal (f code : Nat) : FVal :=
  let h := mxShape f
  let mant := code % 2 ^ h.mbits
  let ex := code / 2 ^ h.mbits % 2 ^ h.ebits
  let neg := decide (code / 2 ^ (h.mbits + h.ebits) % 2 = 1)
  let sg : Int := if neg then -1 else 1
  if f = 3 ∧ ex = 15 ∧ mant = 7 then .nan
  else if f = 4 ∧ ex = 31 then (if mant = 0 then .inf neg else .nan)
  else if ex = 0 then .fin neg ⟨sg * mant, 1 - h.bias - h.mbits⟩
  else .fin neg ⟨sg * (mant + 2 ^ h.mbits : Nat), (ex : Int) - h.bias - h.mbits⟩

/-- The value of an element: `se` is the tile's scale exponent, `e8` the block's E8M0 byte (R58-R64). -/
def elemVal (f : Nat) (se : Int) (e8 code : Nat) : FVal :=
  let b : Int := (e8 : Int) - 127
  match f with
  | 0 => .ofDy ⟨signed 8 code, se⟩
  | 1 => .ofDy ⟨signed 4 code, se⟩
  | 2 => .ofDy ⟨signed 8 code, b - 6⟩
  | 7 => .ofDy ⟨signed 4 code, b⟩
  | 8 => bf16val (BitVec.ofNat 16 code)
  | 9 => f32val (BitVec.ofNat 32 code)
  | 10 => .ofDy ⟨signed 32 code, se⟩
  | 11 => .ofDy ⟨signed 16 code, b⟩
  | _ => match mxVal f code with
    | .fin n v => .fin n (v.scale b)
    | x => x

/-- A code that R67 and R68 do not let an engine or a conversion read. -/
def codeNonfinite (f code : Nat) : Bool :=
  (f == 3 || f == 4) && match mxVal f code with
    | .fin _ _ => false
    | _ => true

/-- The integer code of an engine operand (R65): the value is code x 2^(e8 - 127 + U). -/
def engineCode (f code : Nat) : Int :=
  match f with
  | 0 => signed 8 code
  | 1 => signed 4 code
  | 2 => signed 8 code
  | 7 => signed 4 code
  | 11 => signed 16 code
  | _ => (mxVal f code).dy.toScale (fmtUnit f)

/-- Exponent of an engine operand's unit: SE of the tile, or the block's scale times U. -/
def engineExp (f : Nat) (se : Int) (e8 : Nat) : Int := if fmtBlock f then (e8 : Int) - 127 + fmtUnit f else se

/-! ## Rounding (R69, R78) -/

/-- How a result is rounded: to nearest even, or stochastically with the 16 bits of the element (R76, R78). -/
inductive Rnd where
  | rne
  | sr (r : Nat)
  deriving DecidableEq, Repr

/-- A two's complement code of the exact value v in units of 2^t (R69, R78). -/
def roundTo (rd : Rnd) (v : Dy) (t : Int) : Int :=
  match rd with
  | .rne => v.toScale t
  | .sr r =>
    let fine := v.floorScale (t - 16)
    let fl := fine / 65536
    if 65536 ≤ (fine - fl * 65536).toNat + r then fl + 1 else fl

/-- Clamp to [-q, q]. -/
def clampQ (q : Nat) (c : Int) : Int := if (q : Int) < c then q else if c < -(q : Int) then -(q : Int) else c

/-- A quantised code with what it counts: elements clamped, elements not finite (R74). -/
structure QElem where
  code : Int
  sat : Nat
  nonfin : Nat
  deriving DecidableEq, Repr

/-- Quantise to an integer code of unit 2^t and largest magnitude q. `srFree`: a clamp of a stochastically rounded code counts
nothing (R71); the value itself beyond q still counts. -/
def quantInt (rd : Rnd) (srFree : Bool) (q : Nat) (t : Int) (v : FVal) : QElem :=
  match v with
  | .nan => { code := 0, sat := 0, nonfin := 1 }
  | .inf n => { code := if n then -(q : Int) else q, sat := 0, nonfin := 1 }
  | .fin _ d =>
    let c := roundTo rd d t
    let excess := decide (q < (if srFree then d.toScale t else c).natAbs)
    { code := clampQ q c, sat := if excess then 1 else 0, nonfin := 0 }

/-- The largest finite magnitude of a block. -/
def amaxOf (vs : List FVal) : Dy := vs.foldl (fun a v => Dy.max a v.dy.abs) Dy.zero

def anyInf (vs : List FVal) : Bool := vs.any fun v => match v with
  | .inf _ => true
  | _ => false

/-- The block exponent of an integer block format: the smallest E for which the largest magnitude rounds to at most q, at most
0xFE (R71, R73, R74). `b` is the number of bits of q, `u` the unit's exponent. -/
def blockExp (q b : Nat) (u : Int) (vs : List FVal) : Nat :=
  let a := amaxOf vs
  if anyInf vs then 0xFE
  else if a.isZero then 0
  else
    let e := (a.log2 - u + 127 - b + 1).toNat
    let e := if a.toScale ((e : Int) - 127 + u) ≤ q then e else e + 1
    min e 0xFE

/-- Encode a magnitude in an MX floating format: the code without its sign, and whether it saturated (R72). -/
def mxEnc (f : Nat) (rd : Rnd) (mag : Dy) : Nat × Bool :=
  let h := mxShape f
  if mag.isZero then (0, false) else
  let emin : Int := 1 - h.bias
  let ex := if mag.log2 < emin then emin else mag.log2
  let q := ex - h.mbits
  let k := (roundTo rd mag q).toNat
  let (k, q) := if 2 ^ (h.mbits + 1) ≤ k then (k / 2, q + 1) else (k, q)
  let big := Dy.lt ⟨h.maxM, h.maxE⟩ ⟨k, q⟩
  let (k, q) := if big then (if f = 5 then 15 else if f = 3 then 14 else 7, if f = 3 then h.maxE - 1 else h.maxE) else (k, q)
  if k < 2 ^ h.mbits then (k, big)
  else ((q + h.mbits + h.bias).toNat * 2 ^ h.mbits + (k - 2 ^ h.mbits), big)

/-- Quantise one element of an MX floating block of exponent e8 (R72, R74). -/
def quantMx (f : Nat) (rd : Rnd) (e8 : Nat) (v : FVal) : QElem :=
  let h := mxShape f
  let sgn := fun n => if n then 2 ^ (h.mbits + h.ebits) else 0
  let top := (mxEnc f .rne ⟨h.maxM, h.maxE⟩).1
  match v with
  | .nan => { code := 0, sat := 0, nonfin := 1 }
  | .inf n => { code := (top + sgn n : Nat), sat := 0, nonfin := 1 }
  | .fin n d =>
    let (c, big) := mxEnc f rd (d.abs.scale (127 - (e8 : Int)))
    { code := (c + sgn n : Nat), sat := if big then 1 else 0, nonfin := 0 }

/-- A code of an MX floating format whose magnitude is zero, whatever its sign. -/
def mxZero (f : Nat) (q : QElem) : Bool := decide (q.code % (2 ^ ((mxShape f).mbits + (mxShape f).ebits) : Nat) = 0)

/-- The block exponent of an MX floating format (R72). -/
def mxExp (f : Nat) (vs : List FVal) : Nat :=
  let a := amaxOf vs
  if a.isZero then 0 else min (a.log2 - (mxShape f).emax + 127).toNat 0xFE

/-- A quantised block: codes, E8M0 byte, and what it counts. -/
structure QBlock where
  codes : List Nat
  e8 : Nat
  sat : Nat
  nonfin : Nat
  deriving DecidableEq, Repr

/-- Largest code, its bits and the unit's exponent of an integer format (R70, R71). -/
def qmaxOf : Nat → Nat × Nat × Int
  | 0 => (127, 7, 0)
  | 1 => (7, 3, 0)
  | 2 => (127, 7, -6)
  | 7 => (7, 3, 0)
  | 11 => (32767, 15, 0)
  | _ => (2147483647, 31, 0)

/-- The magnitude bits of a BF16 from an exact magnitude, rounded once: to nearest, ties to even, with overflow to infinity (R59,
R69), or stochastically on the magnitude (R78). -/
def bf16Mag (rd : Rnd) (mag : Dy) : Nat :=
  if mag.isZero then 0
  else
    let q := max (mag.log2 - 7) (-133)
    (min ((q + 133) * 128 + roundTo rd mag q) 0x7F80).toNat

/-- A value as a BF16 code, rounded once from its exact value (R59, R69, R78, R258). -/
def toBf16 (rd : Rnd) (v : FVal) : Nat :=
  match v with
  | .nan => (qnan.extractLsb' 16 16).toNat
  | .inf n => if n then 0xFF80 else 0x7F80
  | .fin n d => (if n then 2 ^ 15 else 0) + bf16Mag rd d.abs

/-- The FP32 pattern of a value (R59). -/
def toF32 (v : FVal) : Word := f32ofVal v

/-- Quantise a group of values (a block of 32, or any run of elements of a format without blocks) into format f; `rd i` is the
rounding of the i-th (R69-R74). A block all of whose codes are zeros takes all-zero codes, without signs (R73). -/
def quantGroup (f : Nat) (se : Int) (rd : Nat → Rnd) (vs : List FVal) : QBlock :=
  let fin := fun (w e8 : Nat) (qs : List QElem) =>
    ({ codes := qs.map fun q => unsigned w q.code, e8 := e8, sat := (qs.map (·.sat)).sum, nonfin := (qs.map (·.nonfin)).sum } : QBlock)
  let nf := fun (v : FVal) => if v.isFinite then 0 else 1
  match f with
  | 8 => { codes := vs.mapIdx fun i v => toBf16 (rd i) v, e8 := 0, sat := 0, nonfin := (vs.map nf).sum }
  | 9 => { codes := vs.map fun v => (toF32 v).toNat, e8 := 0, sat := 0, nonfin := (vs.map nf).sum }
  | _ =>
    if fmtBlock f then
      if f = 2 ∨ f = 7 ∨ f = 11 then
        let (q, b, u) := qmaxOf f
        let e8 := blockExp q b u vs
        fin (fmtBits f) e8 (vs.mapIdx fun i v => quantInt (rd i) true q ((e8 : Int) - 127 + u) v)
      else
        let e8 := mxExp f vs
        let qs := vs.mapIdx fun i v => quantMx f (rd i) e8 v
        fin (fmtBits f) e8 (if qs.all (mxZero f) then qs.map fun q => { q with code := 0 } else qs)
    else
      let (q, _, _) := qmaxOf f
      fin (fmtBits f) 0 (vs.mapIdx fun i v => quantInt (rd i) false q se v)

/-! ## Random bits (R77) -/

/-- Bits [15:0] of output word 0 for an element: seed of the run, core, sequence number, element index. -/
def srBits (seed : DWord) (core seqNo idx : Nat) : Nat :=
  (philox0 seed (BitVec.ofNat 32 idx) (BitVec.ofNat 32 seqNo)
    (BitVec.ofNat 32 (core % 256 * 65536 + seqNo / 2 ^ 32 % 65536)) 0).toNat % 65536

end Sys2Proof.Machine
end

