-- ==== Sys2Proof/Machine/Tiles.lean ====
section
/-!
DEFINITION. Sys2Proof/Machine/Tiles.lean: scratchpad tiles named by handle entries, their rows and scale strips (R66, R215, R229),
and the compressed tile forms (R80-R88).
-/
namespace Sys2Proof.Machine

/-- A tile of a task: what its handle entry says (R229), offsets and pitch in bytes. -/
structure Tile where
  off : Nat
  pitch : Nat
  rows : Nat
  width : Nat
  fmt : Nat
  se : Int
  comp : Nat
  deriving DecidableEq, Repr

/-- VALID of a handle entry. -/
def handleValid (h : DWord) : Bool := bitAt h 63

def tileOf (h : DWord) : Tile :=
  { off := 256 * fld h 10 0, pitch := 256 * fld h 21 11, rows := fld h 32 26, width := fld h 48 33, fmt := fld h 60 57,
    se := signed 8 (fld h 56 49), comp := fld h 62 61 }

/-- Fields of an entry in the ranges of R229 (R56, R88 reason 5). -/
def tileOk (h : DWord) : Bool :=
  let t := tileOf h
  fmtValid t.fmt && decide (1 ≤ t.width) && decide (t.width ≤ fmtCap t.fmt) && decide (1 ≤ t.rows) && decide (t.rows ≤ 64)
  && decide (256 ≤ t.pitch) && fld h 25 22 == 0 && decide (t.comp ≤ 2)
  && (t.comp == 0 || ((t.fmt == 0 || t.fmt == 1 || t.fmt == 8) && (t.comp == 2 || t.width % 4 == 0)))

/-- Length of the scale strip (R66). -/
def stripLen (fmt rows : Nat) : Nat := ceilDiv (rows * fmtBlocks fmt) 32 * 32

/-- Extent of a tile with its strip (R215). -/
def Tile.extent (t : Tile) : Nat := t.rows * t.pitch + stripLen t.fmt t.rows

/-- A tile lies in a window of `bound` bytes (R215). -/
def Tile.inWindow (t : Tile) (bound : Nat) : Bool := decide (t.off + t.extent ≤ bound)

/-! Reads; `base` is the task's window start in the scratchpad. -/

def Tile.rowAddr (t : Tile) (base r : Nat) : Nat := base + t.off + r * t.pitch
def Tile.stripAddr (t : Tile) (base : Nat) : Nat := base + t.off + t.rows * t.pitch

def Tile.row (t : Tile) (m : Mem) (base r : Nat) : List Byte := m.read (t.rowAddr base r) 256

/-- The w-bit code at bit position p from byte address a. -/
def codeAt (m : Mem) (a w p : Nat) : Nat := bitsOf (m.num (a + p / 8) (ceilDiv (p % 8 + w) 8)) (p % 8 + w - 1) (p % 8)

/-- Element code (r, i). -/
def Tile.code (t : Tile) (m : Mem) (base r i : Nat) : Nat :=
  codeAt m (t.rowAddr base r) (fmtBits t.fmt) (fmtBits t.fmt * i)

/-- E8M0 byte of the block of element (r, i). -/
def Tile.e8 (t : Tile) (m : Mem) (base r i : Nat) : Nat :=
  if fmtBlock t.fmt then (m.byte (t.stripAddr base + r * fmtBlocks t.fmt + i / 32)).toNat else 127

def Tile.val (t : Tile) (m : Mem) (base r i : Nat) : FVal := elemVal t.fmt t.se (t.e8 m base r i) (t.code m base r i)

/-- Element n of the tile in row-major order over `width`. -/
def Tile.valN (t : Tile) (m : Mem) (base n : Nat) : FVal := t.val m base (n / t.width) (n % t.width)

def Tile.rowVals (t : Tile) (m : Mem) (base r : Nat) : List FVal := tabulate t.width fun i => t.val m base r i

/-- A scale of 0xFF or a non-finite MX element among the rows: (row, element) of the first (R68). -/
def Tile.badElem (t : Tile) (m : Mem) (base : Nat) : Option (Nat × Nat) :=
  if fmtBlock t.fmt then
    (List.range (t.rows * t.width)).findSome? fun n =>
      let r := n / t.width
      let i := n % t.width
      if t.e8 m base r i = 0xFF ∨ codeNonfinite t.fmt (t.code m base r i) then some (r, i) else none
  else none

/-! Writes: whole rows, zero beyond the elements (log entry 39, DEDUCED). -/

def Tile.writeRow (t : Tile) (base r : Nat) (codes : List Nat) (m : Mem) : Mem :=
  m.write (t.rowAddr base r) (packBits (fmtBits t.fmt) 256 codes)

/-- The strip bytes of row r from its blocks' exponents. -/
def Tile.writeStrip (t : Tile) (base r : Nat) (es : List Nat) (m : Mem) : Mem :=
  m.write (t.stripAddr base + r * fmtBlocks t.fmt) (es.map fun e => BitVec.ofNat 8 e)

/-- What a quantised tile counts (R74). -/
structure QCount where
  sat : Nat
  nonfin : Nat
  deriving DecidableEq, Repr

/-- Quantise a row of values into row r of the tile (R69-R74); `rd i` rounds element i of the row. -/
def Tile.putRow (t : Tile) (base r : Nat) (rd : Nat → Rnd) (vs : List FVal) (m : Mem) : Mem × QCount :=
  if fmtBlock t.fmt then
    let bs := (chunks 32 vs).mapIdx fun b g => quantGroup t.fmt t.se (fun i => rd (32 * b + i)) g
    let m := t.writeRow base r (bs.flatMap (·.codes)) m
    (t.writeStrip base r (bs.map (·.e8)) m, { sat := (bs.map (·.sat)).sum, nonfin := (bs.map (·.nonfin)).sum })
  else
    let q := quantGroup t.fmt t.se rd vs
    (t.writeRow base r q.codes m, { sat := q.sat, nonfin := q.nonfin })

/-- Quantise rows from row r on. -/
def Tile.putRows (t : Tile) (base : Nat) (rd : Nat → Nat → Rnd) : Nat → List (List FVal) → Mem → Mem × QCount
  | _, [], m => (m, { sat := 0, nonfin := 0 })
  | r, vs :: rest, m =>
    let (m, c) := t.putRow base r (rd r) vs m
    let (m, c') := t.putRows base rd (r + 1) rest m
    (m, { sat := c.sat + c'.sat, nonfin := c.nonfin + c'.nonfin })

/-! ## Tile forms (R80-R88) -/

/-- Dense bytes of a tile: its rows and, for block formats, its strip (R81). -/
def Tile.dense (t : Tile) (m : Mem) (base : Nat) : List Byte :=
  (List.range t.rows).flatMap (fun r => t.row m base r) ++ m.read (t.stripAddr base) (stripLen t.fmt t.rows)

def denseLen (fmt rows : Nat) : Nat := rows * 256 + stripLen fmt rows

/-- NM24 segment of a row of codes (R83). -/
def nm24Seg (bits : Nat) (codes : List Nat) : List Byte :=
  let gs := chunks 4 codes
  let mask := fun (g : List Nat) => (g.mapIdx fun i c => if c = 0 then 0 else 2 ^ i).sum
  let slots := fun (g : List Nat) => ((g.filter fun c => c != 0) ++ [0, 0]).take 2
  packBits 4 (ceilDiv gs.length 2) (gs.map mask) ++ packBits bits (ceilDiv (gs.length * 2 * bits) 8) (gs.flatMap slots)

def nm24SegLen (bits width : Nat) : Nat := ceilDiv (width / 4) 2 + ceilDiv (width / 2 * bits) 8

/-- Bytes of n values of `bits` bits. -/
def valBytes (bits n : Nat) : Nat := ceilDiv (n * bits) 8

def roundUp (a n : Nat) : Nat := ceilDiv n a * a

/-- IX16 segment of a row (R84). -/
def ix16Seg (bits : Nat) (codes : List Nat) : List Byte :=
  let nz := (codes.mapIdx fun i c => (i, c)).filter fun e => e.2 != 0
  let n := nz.length
  let body := nz.flatMap (fun e => toLe 2 e.1) ++ packBits bits (valBytes bits n) (nz.map (·.2))
  body ++ List.replicate (roundUp 4 body.length - body.length) 0

def ix16Payload (bits : Nat) (rows : List (List Nat)) : List Byte :=
  let counts := rows.flatMap fun r => toLe 2 ((r.filter fun c => c != 0).length)
  counts ++ List.replicate (roundUp 4 counts.length - counts.length) 0 ++ rows.flatMap (ix16Seg bits)

/-- The codes of a dense tile's rows. -/
def Tile.codes (t : Tile) (m : Mem) (base : Nat) : List (List Nat) :=
  tabulate t.rows fun r => tabulate t.width fun i => t.code m base r i

/-- The 32 B header (R81). -/
def tileHeader (t : Tile) (comp : Nat) (fallback : Bool) (payload : List Byte) : List Byte :=
  toLe 4 (65536 * t.width + 256 * t.rows + (if fallback then 64 else 0) + comp * 16 + t.fmt)
  ++ toLe 4 payload.length ++ toLe 4 (unsigned 8 t.se) ++ toLe 4 (denseLen t.fmt t.rows) ++ toLe 4 (crc32c payload).toNat
  ++ List.replicate 12 0

/-- A tile in tile form as its handle asks (R85): header and payload, and whether compression fell back to DENSE. -/
def Tile.compress (t : Tile) (m : Mem) (base : Nat) : List Byte × Bool :=
  let dense := t.dense m base
  let cs := t.codes m base
  let bits := fmtBits t.fmt
  let plain := fun fb => (tileHeader t 0 fb dense ++ dense, fb)
  if t.comp = 1 then
    if cs.all fun r => (chunks 4 r).all fun g => decide ((g.filter fun c => c != 0).length ≤ 2) then
      let p := cs.flatMap (nm24Seg bits)
      if p.length < dense.length then (tileHeader t 1 false p ++ p, false) else plain true
    else plain true
  else if t.comp = 2 then
    let p := ix16Payload bits cs
    if p.length < dense.length then (tileHeader t 2 false p ++ p, false) else plain true
  else plain false

/-- An error of R88: reason, row, position. -/
structure TileErr where
  reason : Nat
  row : Nat
  pos : Nat
  deriving DecidableEq, Repr

/-- A decompressed tile: row codes and strip bytes. -/
structure Unpacked where
  rows : List (List Nat)
  strip : List Byte
  deriving DecidableEq, Repr

/-- Total length in bytes of a tile in tile form, from its header. -/
def tileFormLen (hdr : List Byte) : Nat := 32 + leNat ((hdr.drop 4).take 4)

/-- One NM24 segment: the error position of a mask of 3 or 4 bits, or the row's codes. -/
def nm24Row (bits width : Nat) (seg : List Byte) : Except Nat (List Nat) :=
  let g := width / 4
  let masks := unpackBits 4 g seg
  let vals := unpackBits bits (2 * g) (seg.drop (ceilDiv g 2))
  let pop := fun (k : Nat) => (List.range 4).countP fun i => Nat.testBit k i
  match (List.range g).find? fun j => decide (2 < pop (masks.getD j 0)) with
  | some j => .error j
  | none => .ok ((List.range g).flatMap fun j =>
      let k := masks.getD j 0
      (List.range 4).map fun i =>
        if Nat.testBit k i then vals.getD (2 * j + (List.range i).countP fun a => Nat.testBit k a) 0 else 0)

/-- One IX16 row of n entries: (reason, position) or the row's codes (R88 reasons 2 and 3). -/
def ix16Row (bits width n : Nat) (seg : List Byte) : Except (Nat × Nat) (List Nat) :=
  let ix := tabulate n fun j => leNat ((seg.drop (2 * j)).take 2)
  let vals := unpackBits bits n (seg.drop (2 * n))
  match (List.range n).findSome? fun j =>
      if width ≤ ix.getD j 0 then some (2, j)
      else if j ≠ 0 ∧ ix.getD j 0 ≤ ix.getD (j - 1) 0 then some (3, j) else none with
  | some e => .error e
  | none => .ok (((List.range n).zip ix).foldl (fun row e => row.set e.2 (vals.getD e.1 0)) (List.replicate width 0))

/-- Validate and unpack the rows of a payload, lowest row first. -/
def unpackRows (comp bits width : Nat) (counts : List Nat) : Nat → List Byte → Nat → Except TileErr (List (List Nat))
  | 0, _, _ => .ok []
  | k + 1, p, r =>
    if comp = 1 then
      match nm24Row bits width p with
      | .error j => .error { reason := 1, row := r, pos := j }
      | .ok row => (unpackRows comp bits width counts k (p.drop (nm24SegLen bits width)) (r + 1)).map (row :: ·)
    else if comp = 2 then
      let n := counts.getD r 0
      if width < n then .error { reason := 4, row := r, pos := 0 } else
      match ix16Row bits width n p with
      | .error e => .error { reason := e.1, row := r, pos := e.2 }
      | .ok row => (unpackRows comp bits width counts k (p.drop (roundUp 4 (2 * n + valBytes bits n))) (r + 1)).map (row :: ·)
    else (unpackRows comp bits width counts k (p.drop 256) (r + 1)).map (unpackBits bits width p :: ·)

/-- Header checks and decompression of a tile in tile form for the destination t (R81-R88). A header whose ROWS, WIDTH or ELEM_FMT
differs from the handle's fails with reason 5; one whose SCALE_EXP differs is taken, and the handle keeps its own exponent (log entry
40, DESIGN CHOICE). -/
def Tile.decompress (t : Tile) (b : List Byte) : Except TileErr Unpacked :=
  let w := imgWord b 0
  let width := w / 65536
  let rows := w / 256 % 128
  let comp := w / 16 % 4
  let fmt := w % 16
  let plen := imgWord b 4
  let bad := fun r => Except.error ({ reason := r, row := 0, pos := 0 } : TileErr)
  let compOk := comp == 0 || ((fmt == 0 || fmt == 1 || fmt == 8) && (comp == 2 || width % 4 == 0))
  if w / 32768 % 2 ≠ 0 ∨ w / 128 % 2 ≠ 0 ∨ comp = 3 ∨ fmtValid fmt = false ∨ rows = 0 ∨ 64 < rows ∨ width = 0 ∨ fmtCap fmt < width
      ∨ compOk = false ∨ imgWord b 8 / 256 ≠ 0 ∨ (b.drop 0x14).take 12 ≠ List.replicate 12 0
      ∨ rows ≠ t.rows ∨ width ≠ t.width ∨ fmt ≠ t.fmt then bad 5
  else
    let bits := fmtBits fmt
    let p := (b.drop 32).take plen
    let counts := tabulate rows fun r => leNat ((p.drop (2 * r)).take 2)
    let area := if comp = 2 then roundUp 4 (2 * rows) else 0
    let want := if comp = 0 then denseLen fmt rows
      else if comp = 1 then rows * nm24SegLen bits width
      else area + (counts.map fun n => roundUp 4 (2 * n + valBytes bits n)).sum
    if plen ≠ want ∨ imgWord b 0xC ≠ denseLen fmt rows then bad 6
    else if (crc32c p).toNat ≠ imgWord b 0x10 then bad 7
    else match unpackRows comp bits width counts rows (p.drop area) 0 with
      | .error e => .error e
      | .ok rs =>
        let strip := p.drop (rows * 256)
        let strip := if fmtBlock fmt then strip else []
        match (List.range rows).findSome? fun r => (List.range width).findSome? fun i =>
            if fmtBlock fmt ∧ ((strip.getD (r * fmtBlocks fmt + i / 32) 0).toNat = 0xFF ∨ codeNonfinite fmt ((rs.getD r []).getD i 0)) then
              some (r, i) else none with
        | some e => .error { reason := 8, row := e.1, pos := e.2 }
        | none => .ok { rows := rs, strip := strip }
where
  imgWord (b : List Byte) (o : Nat) : Nat := leNat ((b.drop o).take 4)

/-- Write an unpacked tile dense (R87). -/
def Tile.writeUnpacked (t : Tile) (base : Nat) (u : Unpacked) (m : Mem) : Mem :=
  let m := (u.rows.mapIdx fun r cs => (r, cs)).foldl (fun m e => t.writeRow base e.1 e.2 m) m
  m.write (t.stripAddr base) u.strip

end Sys2Proof.Machine
end

