-- ==== Sys2Proof/Machine/Operands.lean ====
section
/-!
DEFINITION. Sys2Proof/Machine/Operands.lean: the fields of a tile command (R243), its operands, and the checks made at issue before
any access (R216, R244).
-/
namespace Sys2Proof.Machine

/-! ## Fields (R243) -/

def cwOpcode (w : CmdWord) : Nat := fld w 7 0
def cwFlags (w : CmdWord) : Nat := fld w 12 8
/-- OPFLAGS [12]: TILE, or SR. -/
def cwFlag12 (w : CmdWord) : Bool := bitAt w 12
def cwRemtok (w : CmdWord) : Bool := bitAt w 13
def cwDone (w : CmdWord) : Bool := bitAt w 14
def cwFence (w : CmdWord) : Bool := bitAt w 15
def cwD (w : CmdWord) : Nat := fld w 23 16
def cwA (w : CmdWord) : Nat := fld w 31 24
def cwB (w : CmdWord) : Nat := fld w 39 32
def cwX (w : CmdWord) : Nat := fld w 47 40
def cwImm (w : CmdWord) : Nat := fld w 63 48
def cwDoneTok (w : CmdWord) : Nat := fld w 105 100
def cwFenceTok (w : CmdWord) : Nat := fld w 111 106
def cwFenceTarget (w : CmdWord) : Nat := fld w 127 112
/-- Destination core of PUT and TSEND, device-wide. -/
def cwDestCore (w : CmdWord) : Nat := 64 * fld w 99 98 + fld w 97 92

/-- Opcodes without a meaning (R246-R254). -/
def cwReserved (op : Nat) : Bool :=
  (decide (0x0A ≤ op) && decide (op ≤ 0x0F)) || (decide (0x14 ≤ op) && decide (op ≤ 0x1F)) || (decide (0x27 ≤ op) && decide (op ≤ 0x2F))
  || op == 0x3E || op == 0x3F || (decide (0x47 ≤ op) && decide (op ≤ 0x4F)) || decide (0x58 ≤ op)

/-! ## What a command sees -/

/-- When a command issues and starts, in cycles of the run (R206, R245): cycles lost on its fence (R217), on the limits of R169 and R172 and on
current credit (R387), cycles by which bank stalls delay its end (R211), and those in which another engine works beside it. -/
structure Timing where
  issue : Nat
  start : Nat
  fence : Nat
  limit : Nat
  icc : Nat
  spread : Nat
  beside : Nat
  deriving DecidableEq, Repr

/-- A command at issue: the state, whose scratchpad is the one that its reads see; its core and task, its word, what its checkers meet, an
armed injection (R406) whose target is the core, as checker and pattern, and its timing. -/
structure Ctx where
  s : State
  core : Nat
  task : Nat
  w : CmdWord
  chk : Check
  inj : Option (Nat × Nat)
  tm : Timing

def Ctx.c (x : Ctx) : Core := x.s.core x.core
def Ctx.t (x : Ctx) : Task := x.c.task x.task
def Ctx.base (x : Ctx) : Nat := x.t.base
def Ctx.mem (x : Ctx) : Mem := x.c.scratch

/-- The tile of a handle number (R229). -/
def Ctx.tile (x : Ctx) (h : Nat) : Tile := tileOf (x.t.handles.getD h 0)
def Ctx.d (x : Ctx) : Tile := x.tile (cwD x.w)
def Ctx.a (x : Ctx) : Tile := x.tile (cwA x.w)
def Ctx.b (x : Ctx) : Tile := x.tile (cwB x.w)
def Ctx.x (x : Ctx) : Tile := x.tile (cwX x.w)

/-- What a checker class meets: the injected pattern where one is armed for it, else what the command's operand says. -/
def Ctx.meets (x : Ctx) (cls : Nat) : Check :=
  match x.inj with
  | some (c, p) => if c = cls then (if p = 1 then .minor else .major) else x.chk
  | none => x.chk

/-! ## Failures -/

/-- What a command does outside its own core, or to the fault machinery. -/
inductive Fx where
  /-- Bytes written into another core's scratchpad, `back` cycles before the command ends. -/
  | spad (core addr back : Nat) (bytes : List Byte)
  /-- A token of another core incremented, `back` cycles before the command ends (R217). -/
  | token (core task tok back : Nat)
  /-- Bytes written into staging. -/
  | stage (addr : Nat) (bytes : List Byte)
  | fault (src inst lvl : Nat)
  | hubInc (off k : Nat)
  | loseDcm (l : Nat)
  | softRepair (l column : Nat)
  | refresh (deck : Nat)
  /-- The issuing core has arrived at a barrier (R254). -/
  | arrive (n : Nat) (tok : Option Nat)
  /-- A deck refused an erase at the wear limit is retired (R105). -/
  | wearRetire (deck : Nat)
  /-- The owner's erase abandons the refresh of a deck (R115). -/
  | abandon (deck : Nat)
  /-- A side-memory record written by a command that fails (R333). -/
  | record (n : Nat) (bytes : List Byte)
  deriving DecidableEq, Repr

/-- Why a command fails: status, and reason, row and position of a FORMAT_ERROR (R88, R244, R255). -/
structure CErr where
  status : Nat
  reason : Nat
  row : Nat
  pos : Nat
  fx : List Fx
  deriving DecidableEq, Repr

def CErr.plain (status : Nat) : CErr := { status := status, reason := 0, row := 0, pos := 0, fx := [] }
/-- FORMAT_ERROR, reason 5. -/
def CErr.format : CErr := { status := stFormatError, reason := 5, row := 0, pos := 0, fx := [] }
def CErr.bound : CErr := CErr.plain stBoundFault

/-- The error where a condition fails. -/
def unlessOk (ok : Bool) (e : CErr) : Option CErr := if ok then none else some e

/-- The first error of a list of checks. -/
def firstErr : List (Option CErr) → Option CErr
  | [] => none
  | some e :: _ => some e
  | none :: l => firstErr l

/-! ## Operand checks (R216, R244) -/

/-- One handle operand: its number, whether it must be given, and the formats the table permits. -/
structure Opd where
  h : Nat
  req : Bool
  fmts : List Nat

def anyFmt : List Nat := [0, 1, 2, 3, 4, 5, 6, 7, 8, 9, 10, 11]

def handleFieldOk (h : Nat) : Bool := decide (h < 64) || h == 0xFF

def Ctx.opdOk (x : Ctx) (o : Opd) : Bool :=
  if o.h = 0xFF then !o.req
  else handleValid (x.t.handles.getD o.h 0) && tileOk (x.t.handles.getD o.h 0) && o.fmts.contains (x.tile o.h).fmt

def Ctx.opdIn (x : Ctx) (o : Opd) : Bool := o.h == 0xFF || (x.tile o.h).inWindow x.t.bound

/-- The checks common to every command: handle fields, required operands, formats, reserved fields, then the window. Where both
fail, the format check decides (log entry 46, DEDUCED). -/
def Ctx.operandCheck (x : Ctx) (ops : List Opd) (fields : Bool) : Option CErr :=
  firstErr
    [unlessOk (handleFieldOk (cwD x.w) && handleFieldOk (cwA x.w) && handleFieldOk (cwB x.w) && handleFieldOk (cwX x.w)) CErr.format,
     unlessOk (ops.all x.opdOk) CErr.format,
     unlessOk fields CErr.format,
     unlessOk (ops.all x.opdIn) CErr.bound]

/-- Bits [hi:lo] of the word are zero. -/
def Ctx.zero (x : Ctx) (hi lo : Nat) : Bool := fld x.w hi lo == 0

def Ctx.noImm (x : Ctx) : Bool := cwImm x.w == 0
def Ctx.noFlags (x : Ctx) : Bool := cwFlags x.w == 0
/-- No flag but OPFLAGS [12]. -/
def Ctx.flag12Only (x : Ctx) : Bool := x.zero 11 8

/-! ## DCM and deck rights (R188, R216, R230, R238) -/

/-- The stand-in DCMs of a core (R231). -/
def Core.inStandIn (c : Core) (l : Nat) : Bool :=
  match c.standIn with
  | some f => decide (f ≤ l) && decide (l < f + 4)
  | none => false

/-- A logical DCM that a task may name: in its range, no reserve, no stand-in (R188, R216, R231, R238), and
not the record mirror of a train-class task (R336). -/
def Core.dcmUsable (c : Core) (t : Task) (l : Nat) : Bool :=
  !(t.klass == 4 && l == t.dcmHi) && decide (t.dcmLo ≤ l) && decide (l ≤ t.dcmHi) && !(c.reserves.contains (some l)) && !(c.inStandIn l)

/-- Byte address in the slice's DCM space of a DCM's row. -/
def dcmAddr (l row : Nat) : Nat := 0x40000 * l + 0x100 * row

/-- The DECKMAP entry of a task for a slice deck number on its core (R230). -/
def Task.grant (t : Task) (deck : Nat) : Option Word :=
  t.deckMap.find? fun e => fld e 23 16 == deck

def grantUse (e : Word) : Nat := fld e 5 4
def grantInt4 (e : Word) : Bool := bitAt e 6
def grantRowBlk (e : Word) : Nat := fld e 11 7
def grantLayer (e : Word) : Nat := fld e 15 12

/-- May partition p compute with or read a deck of this DECK_OWNER value, and may it program it (R96)? -/
def ownerReads (o : Byte) (p : Nat) : Bool :=
  bitAt o 2 && (if bitAt o 3 then Nat.testBit (fld o 7 4) p else fld o 1 0 == p)
def ownerWrites (o : Byte) (p : Nat) : Bool := bitAt o 2 && !(bitAt o 3) && fld o 1 0 == p

def State.owner (s : State) (deviceDeck : Nat) : Byte := sget 0 s.deckOwner deviceDeck

/-- The owner value that rights on a deck follow: none is left while it is erased for a new owner (R97). -/
def State.rights (s : State) (deviceDeck : Nat) : Byte :=
  let c := s.core (deviceDeck / 192)
  if (c.deck (c.deckPos (deviceDeck % 192))).handover then 0 else s.owner deviceDeck

/-- The state of a slice's logical deck, none where its logical number has no physical deck (R105). -/
def Ctx.deckAt (x : Ctx) (n : Nat) : Deck := x.c.deck (x.c.deckPos n)

/-- Rights on a deck: a grant whose USE covers the need, and ownership (R96, R230). `uses` are the USE codes that allow it. -/
def Ctx.deckRights (x : Ctx) (n : Nat) (uses : List Nat) (write : Bool) : Bool :=
  (match x.t.grant n with
   | some e => uses.contains (grantUse e)
   | none => false)
  && (let o := x.s.rights (192 * x.core + n)
      if write then ownerWrites o x.t.part else ownerReads o x.t.part)

end Sys2Proof.Machine
end

