-- ==== Sys2Proof/Machine/Timing.lean ====
section
/-!
DEFINITION. Sys2Proof/Machine/Timing.lean: cycles of a run: when a command issues and starts (R93, R169, R172, R180, R206, R217, R219,
R256, R387), the access cycles of its reads and writes (R209, R212-R214, R220, R221), and the scratchpad that a read in a cycle sees.
-/
namespace Sys2Proof.Machine

/-- Cycles of the run in progress in a region that have passed (R42, R43). -/
def State.runElapsed (s : State) (r : Nat) (run : RegionRun) : Nat :=
  (s.time.now - s.slotStart run.beat run.first) * vfMhz100 (s.region r).point / 10

/-- The cycle of the run at which a region stands; 0 with no run. -/
def State.cycleNow (s : State) (r : Nat) : Nat :=
  match (s.region r).run with
  | some run => s.runElapsed r run
  | none => 0

/-! ## Writes by access cycle (R209, R212, R213) -/

/-- Insert a write behind those of the same cycle. -/
def insertLate (e : LateWrite) : List LateWrite → List LateWrite
  | [] => [e]
  | f :: l => if e.cycle < f.cycle then e :: f :: l else f :: insertLate e l

/-- The writes in the order in which they land; in one cycle the earlier issued first. -/
def landing (l : List LateWrite) : List LateWrite := l.foldl (fun a e => insertLate e a) []

/-- The scratchpad as reads see it, each address in its own access cycle: a write of an earlier cycle is seen, one of the same or a later
cycle is not. -/
def Core.seen (c : Core) (readAt : Nat → Nat) : Mem :=
  if c.late.isEmpty then c.scratch
  else ((landing c.late).filter fun e => decide (e.cycle < readAt e.addr)).foldl (fun m e => m.put e.addr e.byte) c.old

/-- Bytes that differ from one scratchpad to another, with their new values. -/
def Mem.diff (a b : Mem) : Mem :=
  (b.filter fun e => a.byte e.1 != e.2) ++ (a.filter fun e => b.byte e.1 == 0).map fun e => (e.1, 0)

/-- Writes that take a core's scratchpad from `from_` to `to_`, each in its access cycle. A byte written with the value that it had is no
write (log entry 117, DEDUCED). -/
def Core.land (c : Core) (from_ to_ : Mem) (writeAt : Nat → Nat) : Core :=
  let new := (from_.diff to_).map fun e => { cycle := writeAt e.1, addr := e.1, byte := e.2 : LateWrite }
  if c.late.isEmpty then
    { c with scratch := to_, late := new, old := if new.isEmpty then [] else c.scratch }
  else
    let late := c.late ++ new
    { c with late := late, scratch := (landing late).foldl (fun m e => m.put e.addr e.byte) c.old }

/-- Write bytes, each in its access cycle. -/
def Core.landBytes (c : Core) (addr : Nat) (bs : List Byte) (cycle : Nat) : Core :=
  let new := bs.mapIdx fun i b => { cycle := cycle, addr := addr + i, byte := b : LateWrite }
  if c.late.isEmpty then { c with scratch := c.scratch.write addr bs, late := new, old := if new.isEmpty then [] else c.scratch }
  else
    let late := c.late ++ new
    { c with late := late, scratch := (landing late).foldl (fun m e => m.put e.addr e.byte) c.old }

/-- Write bytes in a cycle that no later read precedes: with no write in flight they simply stand. -/
def Core.spadWrite (c : Core) (addr : Nat) (bs : List Byte) (cycle : Nat) : Core :=
  if c.late.isEmpty then { c with scratch := c.scratch.write addr bs } else c.landBytes addr bs cycle

/-! ## Engines (R49, R199) -/

/-- The engine of an opcode: a stack, a DCM, the drain, the row engine, the copy engine, the exact-read port of a stack; none for
a synchronisation command. -/
def engineOf (w : CmdWord) : Option Nat :=
  let op := cwOpcode w
  if op = 0x05 ∨ op = 0x06 then some (fld w 99 92 / 8)
  else if 1 ≤ op ∧ op < 0x10 then some 800
  else if 0x10 ≤ op ∧ op < 0x20 then some (100 + fld w 99 91)
  else if 0x20 ≤ op ∧ op < 0x23 then some (fld w 99 92 / 8)
  else if 0x30 ≤ op ∧ op < 0x40 then some 700
  else if 0x40 ≤ op ∧ op < 0x50 ∨ op = 0x26 then some 701
  else if op = 0x52 then some 800
  else if op = 0x53 then some 700
  else none

/-- The stacks that an operation on one of them occupies: a borrower and its lender issue one operation at a time (R155). -/
def Core.pair (c : Core) (st : Nat) : List Nat :=
  if (c.stack st).borrow || (c.stack st).lending then [st, st ^^^ 1] else [st]

/-- The cycle until which any of some engines is busy. -/
def Core.busyAll (c : Core) (ks : List Nat) : Nat := (ks.map (sget 0 c.busy)).foldl max 0

/-- The cycle until which any engine of the core works. -/
def Core.workUntil (c : Core) : Nat :=
  max ((c.flights.map fun f => f.last + 1).foldl max 0) (((c.busy.filter fun e => decide (e.1 < 1000)).map (·.2)).foldl max 0)

/-- A command of any task is in flight on the core in a cycle of the run: it executes, waits at a barrier, programs or erases (R411). -/
def Core.inFlight (c : Core) (cyc : Nat) : Bool :=
  decide (cyc < c.workUntil) || (c.tasks.any fun t => !t.barriers.isEmpty) || c.decks.any fun e =>
    (match e.2.job with
     | some j => j.task.isSome && !j.words.isEmpty
     | none => false) || (decide (e.2.state = .erasing) && e.2.eraseTask.isSome)

/-! ## Fences (R217) -/

/-- The token's value in a cycle of the run: increments of later cycles have not happened. -/
def Core.tokenAt (c : Core) (task n cyc : Nat) : Half :=
  ((c.task task).tokens.getD n 0) - BitVec.ofNat 16 (c.tokWait.filter fun e => e.task == task && e.tok == n && decide (cyc < e.cycle)).length

/-- The fence of a word is met in a cycle. -/
def Core.fenceAt (c : Core) (task : Nat) (w : CmdWord) (cyc : Nat) : Bool :=
  !(cwFence w) || decide ((c.tokenAt task (cwFenceTok w) cyc - BitVec.ofNat 16 (cwFenceTarget w)).toNat < 2 ^ 15)

/-- The least of the numbers from `b` on that a predicate holds of; `b` where it holds of none. -/
def leastFrom (b : Nat) (l : List Nat) (p : Nat → Bool) : Nat :=
  ((b :: l).filter fun k => decide (b ≤ k) && p k).foldl (fun (m : Option Nat) k => match m with
    | some j => some (min j k)
    | none => some k) none |>.getD b

/-- The cycle, from `b` on, in which the fence is met. -/
def Core.fenceCycle (c : Core) (task : Nat) (w : CmdWord) (b : Nat) : Nat :=
  leastFrom b ((c.tokWait.filter fun e => e.task == task).map (·.cycle)) (c.fenceAt task w)

/-! ## The DCMs (R168, R169, R172) -/

/-- MAC per cycle of w x a bits on one DCM, in 1/720,720. -/
def macRate (w a : Nat) : Nat := 64 * (256 / w) * 720720 / a

/-- DCMs that may compute at once (R169). -/
def Core.activeLimit (c : Core) : Nat :=
  let n := fld (c.reg cDcmCtrl) 4 0
  if 1 ≤ n ∧ n ≤ 24 then n else 24

/-- Computes in progress in a cycle. -/
def Core.computing (c : Core) (cyc : Nat) : List Flight :=
  c.flights.filter fun f => decide (f.unit < 1000) && decide (f.first ≤ cyc) && decide (cyc ≤ f.last)

/-- One more compute of a rate fits both limits over n cycles from cycle b on. -/
def Core.fitsLimits (c : Core) (rate n b : Nat) : Bool :=
  (b :: (c.flights.map (·.first)).filter fun k => decide (b < k) && decide (k < b + n)).all fun k =>
    let fs := c.computing k
    decide (fs.length < c.activeLimit) && decide ((fs.map (·.rate)).sum + rate ≤ 12288 * 720720)

/-- Vector cycles g x c x a, vectors, width and activation bits of an MM word (R247). -/
def cwMmVec (w : CmdWord) : Nat := (fld w 86 83 + 1) * (fld w 79 77 + 1) * (fld w 75 72 + 1)
def cwMmRate (w : CmdWord) : Nat := macRate (if bitAt w 76 then 4 else 8) (fld w 75 72 + 1)

/-- When an MM issues, and its first compute cycle: the pending place frees as the DCM's latest operation begins; an idle DCM whose core
is at a limit stops issue, a busy one lets the operation wait in the pending place. -/
def Core.mmTiming (c : Core) (w : CmdWord) (b : Nat) : Nat × Nat :=
  let l := fld w 99 91
  let placed := ((c.flights.filter fun f => f.unit == l).map (·.first)).foldl max 0
  let a := max b placed
  let free := sget 0 c.busy (100 + l)
  let first := max (a + 10) free
  let comp := leastFrom first (c.flights.map fun f => f.last + 1) (c.fitsLimits (cwMmRate w) (cwMmVec w * cwImm w))
  (if free ≤ a then a + (comp - first) else a, comp)

/-! ## Copies (R219) -/

/-- Byte ranges of a copy: written, then read. Own scratchpad at 0, DCMs at 2^24, staging at 2^40, another core's scratchpad at 2^48. -/
def cwSpans (t : Task) (w : CmdWord) : List (Nat × Nat) × List (Nat × Nat) :=
  let tile := fun (h : Nat) => tileOf (t.handles.getD h 0)
  let own := fun (h : Nat) => ((tile h).rowAddr t.base 0, (tile h).extent)
  let dcm := fun (n : Nat) => (2 ^ 24 + dcmAddr (fld w 99 91) (fld w 90 81), 256 * n)
  let stg := fun (n : Nat) => (2 ^ 40 + t.stageBase + 32 * fld w 84 64, n)
  match cwOpcode w with
  | 0x01 => ([own (cwD w)], [own (cwA w)])
  | 0x02 => ([own (cwD w)], [own (cwA w)])
  | 0x03 => ([own (cwD w)], [dcm (tile (cwD w)).rows])
  | 0x04 => ([dcm (tile (cwA w)).rows], [own (cwA w)])
  | 0x05 => ([own (cwD w)], [])
  | 0x06 => ([own (cwD w)], [])
  | 0x08 => ([own (cwD w)], [stg (tile (cwD w)).extent])
  | 0x09 => ([stg (tile (cwA w)).extent], [own (cwA w)])
  | _ => ([(2 ^ 48 * (1 + cwDestCore w) + (tile (cwD w)).off, (tile (cwA w)).extent)], [own (cwA w)])

def spansMeet (a b : List (Nat × Nat)) : Bool := a.any fun x => b.any fun y => decide (x.1 < y.1 + y.2) && decide (y.1 < x.1 + x.2)

/-- Copies in flight in a cycle. -/
def Core.copying (c : Core) (cyc : Nat) : List Flight := c.flights.filter fun f => f.unit == 1000 && decide (cyc ≤ f.last)

/-- When a copy issues, on a free channel, and when it moves data: after every earlier copy that overlaps it, and a tile-form copy into the
scratchpad after the one before. -/
def Core.copyTiming (c : Core) (t : Task) (w : CmdWord) (b : Nat) : Nat × Nat :=
  let a := leastFrom b (c.flights.map fun f => f.last + 1) fun k => decide ((c.copying k).length < 4)
  let (dst, src) := cwSpans t w
  let hit := (c.copying a).filter fun f => spansMeet dst f.dst || spansMeet src f.dst || spansMeet dst f.src
  let s := (hit.map fun f => f.last + 1).foldl max a
  let s := if cwFlag12 w && (cwOpcode w == 0x03 || cwOpcode w == 0x08) then max s (sget 0 c.busy 702) else s
  (a, if cwOpcode w = 0x05 ∨ cwOpcode w = 0x06 then max s (c.busyAll (c.pair (fld w 99 92 / 8))) else s)

/-! ## Issue -/

/-- The class of run that a task owns in a region (R202). -/
def State.ownsRun (s : State) (core : Nat) (t : Task) : Bool :=
  match (s.region (regionOf core)).run with
  | some run => run.klass == t.klass && run.part == t.part
  | none => false

/-- The first cycle in which the head of a task may be looked at: the region's, the core's next issue cycle, that after its push, and for
fill the end of the fill operation before (R49, R206). -/
def State.issueFrom (s : State) (core : Nat) (t : Task) : Nat :=
  let c := s.core core
  max (max (s.cycleNow (regionOf core)) c.clock) (max (t.pushAt.headD 0) (if s.ownsRun core t then 0 else c.fillEnd))

/-- Does the opcode take current credit (R387)? -/
def takesCredit (op : Nat) : Bool := op == 0x10 || op == 0x20 || op == 0x21 || op == 0x22

/-- The last cycle in which an operation of the region that holds current credit works. -/
def State.creditUntil (s : State) (r : Nat) : Nat :=
  ((s.cores.filter fun e => regionOf e.1 == r).map fun e =>
    max (((e.2.flights.filter fun f => decide (f.unit < 1000)).map fun f => f.last + 1).foldl max 0) (e.2.busyAll (List.range 24))).foldl max 0

/-- The timing of the head w of a task. What a wait for current credit takes (R387) and what bank stalls take (R211) are free values, at most
as long as another operation works: with none beside it, there is neither (log entry 118, DESIGN CHOICE). -/
def State.timing (s : State) (core task : Nat) (w : CmdWord) : Timing :=
  let c := s.core core
  let t := c.task task
  let b := s.issueFrom core t
  let f := c.fenceCycle task w b
  let icc := if takesCredit (cwOpcode w) then (freeIn (s.free (10 ^ 9)) 0 (s.creditUntil (regionOf core) - f : Nat)).toNat else 0
  let i := f + icc
  let (a, st) := match engineOf w with
    | none => if cwOpcode w = 0x54 ∨ cwOpcode w = 0x57 then (max i t.endAt, max i t.endAt) else (i, i)
    | some k =>
      if cwOpcode w = 0x10 then let (a, comp) := c.mmTiming w i; (a, comp - 10)
      else if k = 800 ∨ cwOpcode w < 0x10 then c.copyTiming t w i
      else if 100 ≤ k ∧ k < 700 then (i, if cwOpcode w = 0x11 then i else max i (sget 0 c.busy k))
      else if k < 24 then (i, max i (c.busyAll (c.pair k)))
      else let a := max i (sget 0 c.busy k); (a, a)
  let beside := c.workUntil - a
  { issue := a, start := st, fence := f - min f (max (s.issueFrom core t) t.headFrom), limit := if cwOpcode w = 0x10 then a - i else 0, icc := icc,
    spread := (freeIn (s.free (10 ^ 9 + 1)) 0 (beside : Nat)).toNat, beside := beside }

/-- The cycle of region q's run at a cycle of region r's. -/
def State.cycleIn (s : State) (r q cyc : Nat) : Nat :=
  if r = q then cyc else s.cycleNow q + (cyc - s.cycleNow r) * vfMhz100 (s.region q).point / vfMhz100 (s.region r).point

/-! ## Access cycles -/

/-- The row of a tile that holds an address, its strip counting as the rows after the last. -/
def Tile.rowAt (t : Tile) (base addr : Nat) : Option Nat :=
  if addr < t.rowAddr base 0 then none
  else if addr < t.stripAddr base then
    (if (addr - t.rowAddr base 0) % t.pitch < 256 then some ((addr - t.rowAddr base 0) / t.pitch) else none)
  else if addr < t.stripAddr base + stripLen t.fmt t.rows then some (t.rows + (addr - t.stripAddr base) / 256)
  else none

/-- Cycles of one array operation (R128, R130-R132). -/
def arrayCycles (w : CmdWord) : Nat :=
  match cwOpcode w with
  | 0x20 => (match fld w 87 86 with
    | 0 => 342
    | 1 => 456
    | _ => 684)
  | 0x21 => 228
  | _ => 456

/-- The vector of an MM or array command whose elements a row of A holds. -/
def cwVector (t : Tile) (len row : Nat) : Nat := if t.width = 0 ∨ len = 0 then 0 else if t.fmt = 11 then row * t.width / len else row / ceilDiv len t.width

/-- The access cycle in which a command reads an address of its scratchpad (R128, R131, R214, R221, R257): row v of A ten cycles before the
first compute cycle of vector v; the rows of an array operation's vector one after another in its fetch phase; a copy's rows one a
cycle; B and X of an MM or array command as the results of their vector reach the drain. The drain and the row engine read in
cycles that the manual does not give: free values of the first 15 cycles (log entry 117, DEDUCED). -/
def State.readCycle (s : State) (core task : Nat) (w : CmdWord) (tm : Timing) (addr : Nat) : Nat :=
  let t := (s.core core).task task
  let op := cwOpcode w
  let a := (tileOf (t.handles.getD (cwA w) 0))
  let row := a.rowAt t.base addr
  if op = 0x10 then
    let len := 64 * (fld w 86 83 + 1) * (if bitAt w 70 then 2 * (fld w 79 77 + 1) else 1)
    match row with
    | some r => tm.start + cwVector a len (min r (a.rows - 1)) * cwMmVec w
    | none => tm.start + 17 + cwImm w * cwMmVec w
  else if 0x20 ≤ op ∧ op < 0x23 then
    match row with
    | some r => let v := cwVector a 1024 (min r (a.rows - 1)); tm.start + (v - (t.arr.length)) * arrayCycles w + (r - v * ceilDiv 1024 a.width)
    | none => tm.start + cwImm w * arrayCycles w
  else if op = 0x02 then tm.start + 1 + row.getD 0
  else if op < 0x10 ∨ op = 0x52 then tm.start + row.getD 0
  else tm.start + (freeIn (s.free (10 ^ 9 + 2)) 0 14).toNat + row.getD 0

/-- The access cycle in which a command that ends in cycle `done` writes an address: a copy its rows one a cycle up to the last before it ends,
an exact read the four rows of each word-line at the end of its transfer (R220, R221); any other command in the last two cycles
before it ends (R256). -/
def State.writeCycle (s : State) (core task : Nat) (w : CmdWord) (done addr : Nat) : Nat :=
  let t := (s.core core).task task
  let d := tileOf (t.handles.getD (cwD w) 0)
  let k := (d.rowAt t.base addr).getD 0
  let units := d.rows + ceilDiv (stripLen d.fmt d.rows) 256
  if cwOpcode w = 0x05 then
    done - 4 + k % 4 - (cwImm w - 1 - k / 4) * ceilDiv (60 * vfMhz100 (s.region (regionOf core)).point) 10
  else if cwOpcode w < 0x10 then done - (units - k)
  else done - min 2 (units - k)

end Sys2Proof.Machine
end

