-- ==== Sys2Proof/Machine/Issue.lean ====
section
/-!
DEFINITION. Sys2Proof/Machine/Issue.lean: the issue of a tile command from the head of its task's queue segment (R202, R206, R216,
R217, R242-R244): when it may issue, how it fails, what is discarded, and what its end does to tokens, class and events.
-/
namespace Sys2Proof.Machine

/-! ## When the head may issue -/

/-- The slot of the current beat (R40). -/
def State.slotNow (s : State) : Nat :=
  ((List.range 8).filter fun k => decide (s.slotStart s.beat k ≤ s.time.now)).length - 1

/-- What an operation at the head needs of the run's budget at the least, and how long it is: a DCM compute, an array operation, a copy or
another command (R135, R168). -/
def cwNeed (w : CmdWord) : Nat :=
  let op := cwOpcode w
  if op = 0x10 then cwMmVec w * cwImm w + 18 else if 0x20 ≤ op ∧ op < 0x23 then 4 * arrayCycles w else 0

/-- A head that only waits for what no cycle of the run brings: a WAITBEAT, and a TOKEN or DONE (R254). -/
def cwWaits (w : CmdWord) : Bool := cwOpcode w == 0x50 || cwOpcode w == 0x54 || cwOpcode w == 0x57

/-- The budget of the run in progress on a core. -/
def State.runBudgetOf (s : State) (core : Nat) : Nat :=
  match (s.region (regionOf core)).run with
  | some run => run.budget
  | none => 0

/-- The task's head is ready in a cycle: pushed, its fence met, and what it needs left in the budget. -/
def State.headReady (s : State) (core task cyc : Nat) : Bool :=
  let c := s.core core
  let t := c.task task
  match t.queue with
  | w :: _ => decide (t.pushAt.headD 0 ≤ cyc) && c.fenceAt task w cyc && decide (cyc + cwNeed w ≤ s.runBudgetOf core)
  | [] => false

/-- The slot, partition and classes let a task's work issue as fill (R49). -/
def State.mayFill (s : State) (core : Nat) (t : Task) : Bool :=
  match (s.region (regionOf core)).run with
  | none => false
  | some run =>
    run.part == t.part && run.klass != 0 && run.klass != 7 && t.klass != 5 && t.klass != 7
    && slotFill (s.slotByte s.beat s.slotNow (regionOf core))

/-- A task goes before another one (R206): the owner's before fill, and fill in task order. -/
def State.goesFirst (s : State) (core k task : Nat) : Bool :=
  let c := s.core core
  (c.task k).valid &&
  if s.ownsRun core (c.task k) then !(s.ownsRun core (c.task task))
  else !(s.ownsRun core (c.task task)) && decide (k < task) && s.mayFill core (c.task k)

/-- The head w of a fill task may issue (R49, R206): the owner has no command ready on its engine, and no segment that goes first can issue in
the same cycle or before. -/
def State.fillFree (s : State) (core task : Nat) (w : CmdWord) : Bool :=
  let c := s.core core
  let cyc := (s.timing core task w).issue
  !((List.range 4).any fun k => s.goesFirst core k task &&
    match (c.task k).queue with
    | [] => false
    | v :: _ => s.headReady core k cyc && !(cwWaits v)
        && ((s.ownsRun core (c.task k) && (engineOf w).isSome && engineOf v == engineOf w) || decide ((s.timing core k v).issue ≤ cyc)))

/-- The head of a task's segment where the core, the region and the run let it issue (R46, R49, R202, R206). -/
def State.issueHead (s : State) (core task : Nat) : Option CmdWord :=
  let t := (s.core core).task task
  match t.queue with
  | [] => none
  | w :: _ =>
    if s.serving && t.valid && (s.physOf core).isSome && decide ((s.region (regionOf core)).service = .inService)
        && (s.ownsRun core t || (s.mayFill core t && s.fillFree core task w)) then some w else none

/-- The fence of R217. -/
def fenceMet (t : Task) (w : CmdWord) : Bool :=
  !(cwFence w) || decide (((t.tokens.getD (cwFenceTok w) 0) - BitVec.ofNat 16 (cwFenceTarget w)).toNat < 2 ^ 15)

/-! ## The end of a command -/

/-- A token of the task changes (R217): it counts up, and a sequencer that waits in WFI goes on (R203). -/
def Task.incToken (t : Task) (n : Nat) : Task :=
  { t with tokens := t.tokens.set n (t.tokens.getD n 0 + 1), seq := if t.seq = .wfi then .running else t.seq }

/-- The head leaves the segment in a cycle of the run. -/
def Task.popHead (t : Task) (cyc : Nat) : Task := { t with queue := t.queue.drop 1, pushAt := t.pushAt.drop 1, headFrom := cyc + 1, arr := [] }

/-- The DONE token of a command (R217). -/
def Task.doneToken (t : Task) (w : CmdWord) : Task := if cwDone w then t.incToken (cwDoneTok w) else t

/-- Save the replay unit's start of a plan: its tasks as they stand (R402). A new unit has not been replayed. -/
def State.snapUnit (s : State) (n : Nat) : State :=
  match s.plan? n with
  | none => s
  | some p =>
    let tk := planTask p.image
    let s := { s with snaps := (planCores p.image).foldl (fun m c => sins m (4 * c + tk) ((s.core c).task tk)) s.snaps }
    match s.run? n with
    | some r => s.setRun n { r with replayed := false }
    | none => s

/-- Arrive at a barrier; once every member has, each member's token is incremented (R254). In an unstepped run the end of a barrier
of every core starts a new replay unit (R402). -/
def State.arriveBarrier (s : State) (core task n : Nat) (tok : Option Nat) : State :=
  let t := (s.core core).task task
  match s.plan? t.plan with
  | none => s
  | some p =>
    let key := 16 * t.plan + n
    let here := sget [] s.barriers key
    let here := if here.contains core then here else here ++ [core]
    let s := s.modTask core task fun t => { t with barriers := t.barriers ++ [(n, tok)] }
    let members := (List.range 256).filter fun c => Nat.testBit (barrierMask p.image n) c
    if members.all fun c => here.contains c then
      let s := { s with barriers := sput [] s.barriers key [] }
      members.foldl (fun s c => s.modTask c task fun t =>
        let mine := t.barriers.filter fun b => b.1 == n
        let t := { t with barriers := t.barriers.filter fun b => b.1 != n }
        mine.foldl (fun t b => match b.2 with
          | some k => t.incToken k
          | none => t) t) s
      |> fun s => if barrierMask p.image n = planMask p.image ∧ planStepped p.image = false then s.snapUnit t.plan else s
    else { s with barriers := sput [] s.barriers key here }

/-- Write side-memory record n, and the mirror of a train-class task (R274, R336). -/
def Core.putRecord (c : Core) (t : Task) (n : Nat) (bytes : List Byte) : Core :=
  let c := if t.klass = 4 then c.dcmStore (c.dcmView.write (dcmAddr t.dcmHi (n / 4) + 64 * (n % 4)) bytes) else c
  { c with side := c.side.write (64 * n) bytes }

/-- A token of a core's task counts up in a cycle of its run: what has waited in WFI goes on from there (R203, R217). -/
def Core.tokenIn (c : Core) (task n cyc : Nat) : Core :=
  let t := c.task task
  let c := if t.seq = .wfi ∧ c.seqTask = task then { c with seqClock := max c.seqClock cyc } else c
  { c.setTask task (t.incToken n) with tokWait := c.tokWait ++ [{ task := task, tok := n, cycle := cyc }] }

/-- One effect outside the issuing core's own record, of a command that ends in cycle `done`. What reaches a core whose region has no run in
progress stands at once. -/
def State.applyFx (s : State) (core task done : Nat) : Fx → State
  | .spad c a back bs =>
    if (s.region (regionOf c)).run.isSome then s.modCore c fun k => k.landBytes a bs (s.cycleIn (regionOf core) (regionOf c) (done - back))
    else s.modCore c fun k => k.spadWrite a bs 0
  | .token c t n back =>
    if (s.region (regionOf c)).run.isSome then s.modCore c fun k => k.tokenIn t n (s.cycleIn (regionOf core) (regionOf c) (done - back))
    else s.modTask c t fun k => k.incToken n
  | .stage a bs => { s with staging := s.staging.write a bs }
  | .fault src inst lvl => s.faultEvent src inst lvl
  | .hubInc off k => s.hubInc off k
  | .loseDcm l => s.loseDcm core l
  | .softRepair l col => s.softRepair core l col 12
  | .refresh d => s.scheduleRefresh d
  | .arrive n tok => s.arriveBarrier core task n tok
  | .wearRetire d => s.wearRetire d
  | .abandon d => s.abandonRefresh d
  | .record n bytes => s.modCore core fun c => c.putRecord (c.task task) n bytes

def State.applyFxs (s : State) (core task done : Nat) (l : List Fx) : State := l.foldl (fun s f => s.applyFx core task done f) s

/-- What an operation occupies: its engines' keys, the cycles that the run's budget must cover from its start, those that its engines are
busy, those of one of its operations, the cycles in which a DCM computes, and the rate (R93, R135, R168, R169). -/
structure Hold where
  keys : List Nat
  need : Nat
  busy : Nat
  op : Nat
  computes : Option (Nat × Nat)
  deriving DecidableEq, Repr

/-- What a command that executes does: its core's new record, the class and events of its result, whether it took a rounding
sequence number (R77), its cycles, the engine it occupies for how long, its effects elsewhere, and whether its token waits. -/
structure Out where
  core : Core
  grade : Grade2
  sr : Bool
  cycles : Nat
  hold : Option Hold
  fx : List Fx
  /-- Port A writes to a DCM: its number, how many, and the cycles that each takes when it leaves the hold buffer (R179). -/
  writes : Option (Nat × Nat × Nat)
  /-- Its token increments later (R251). -/
  defer : Bool
  /-- The head does not issue yet: it stays, and only `core` and `fx` take effect (R187, R388). -/
  stay : Bool
  deriving DecidableEq, Repr

/-- A command that changes its core's record and nothing else. -/
def Out.of (c : Core) (cycles : Nat) : Out :=
  { core := c, grade := .none, sr := false, cycles := cycles, hold := none, fx := [], writes := none, defer := false, stay := false }

/-- Ring position: hub 0, region r at r + 1 (R12, R14). -/
def ringHops (grade : Grade) (a b : Nat) : Nat :=
  let d := if a ≤ b then b - a else a - b
  if grade = .szt640 then min d (5 - d) else d

/-- ns as cycles at the region's point, rounded up (R223). -/
def Ctx.nsCycles (x : Ctx) (ns : Nat) : Nat := ceilDiv (ns * vfMhz100 (x.s.region (regionOf x.core)).point) 10

/-- Ring hops of a PUT, and the cycles by which its own token follows the one at the destination (R221). -/
def Ctx.putHops (x : Ctx) : Nat := ringHops x.s.grade (x.core / 64 + 1) (cwDestCore x.w / 64 + 1)
def Ctx.putTail (x : Ctx) : Nat := if cwDestCore x.w = x.core then 0 else if x.putHops = 0 then 4 else 8 + x.nsCycles 40 * x.putHops

/-- A remote token of PUT and TSEND, whether or not DONE is set: that of the same task on the destination core, where the plan has one
there (R217). -/
def remoteToken (x : Ctx) : List Fx :=
  let t := (x.s.core (cwDestCore x.w)).task x.task
  if cwRemtok x.w && (cwOpcode x.w == 0x07 || cwOpcode x.w == 0x52) && t.valid && t.plan == x.t.plan then [.token (cwDestCore x.w) x.task (cwDoneTok x.w) x.putTail] else []

/-- The plan's run that holds a task. -/
def State.taskRun (s : State) (core task : Nat) : Option Run := s.run? ((s.core core).task task).plan

/-- Writes that the hold buffer of a DCM holds in a cycle, and the cycle in which its compute ends (R179). -/
def Core.heldAt (c : Core) (l cyc : Nat) : Nat := if cyc < sget 0 c.busy (100 + l) then sget 0 c.busy (2000 + l) else 0
def Core.computeEnd (c : Core) (l : Nat) : Nat := ((c.flights.filter fun f => f.unit == l).map fun f => f.last + 1).foldl max 0

/-- Cycles for which a writer finds the hold buffer of a computing DCM full (R179): the running operation ends, and the first held write
leaves. -/
def Ctx.holdStall (x : Ctx) (o : Out) : Nat :=
  match o.writes with
  | some (l, n, k) =>
    let room := 16 - x.c.heldAt l x.tm.start
    if x.c.computeEnd l ≤ x.tm.start ∨ n ≤ room then 0 else x.c.computeEnd l + k - (x.tm.start + room)
  | none => 0

/-- The hold buffer after the command: what it holds, and when the DCM computes again. -/
def Ctx.heldWrites (x : Ctx) (o : Out) (busy : SMap Nat) : SMap Nat :=
  match o.writes with
  | some (l, n, k) =>
    if x.c.computeEnd l ≤ x.tm.start then busy
    else sput 0 (sput 0 busy (100 + l) (sget 0 busy (100 + l) + n * k)) (2000 + l) (min 16 (x.c.heldAt l x.tm.start + n))
  | none => busy

/-- The cycle in which a command ends. -/
def Ctx.doneAt (x : Ctx) (o : Out) : Nat := x.tm.start + o.cycles + x.tm.spread + x.holdStall o

/-- Engines of a command that no `Hold` names: the drain and the row engine, a stack under an exact read, the hold buffer of tile forms. -/
def Ctx.engines (x : Ctx) : List Nat :=
  match engineOf x.w with
  | some k => if k = 700 ∨ k = 701 ∨ k < 24 ∨ cwOpcode x.w = 0x12 ∨ cwOpcode x.w = 0x13 then [k] else if k = 800 ∧ cwFlag12 x.w = true ∧ (cwOpcode x.w = 0x03 ∨ cwOpcode x.w = 0x08) then [702] else []
  | none => []

/-- What the command has in flight: a compute, or a copy with the ranges that it touches. -/
def Ctx.flightsOf (x : Ctx) (o : Out) : List Flight :=
  match o.hold.bind (·.computes) with
  | some (n, rate) => [{ unit := fld x.w 99 91, first := x.tm.start + 10, last := x.tm.start + 9 + n, rate := rate, dst := [], src := [] }]
  | none =>
    if engineOf x.w = some 800 ∨ cwOpcode x.w = 0x05 ∨ cwOpcode x.w = 0x06 then
      [{ unit := 1000, first := x.tm.start, last := x.doneAt o - 1, rate := 0, dst := (cwSpans x.t x.w).1, src := (cwSpans x.t x.w).2 }]
    else []

/-- Counters of the cycles lost: on the fence (R217), on the limits (R172), on the banks' slots, by bank a free number of cycles (R211;
log entry 118, DESIGN CHOICE). -/
def Ctx.lostCycles (x : Ctx) (c : Core) : Core :=
  let c := (c.inc cFenceWait x.tm.fence).inc cLimitWait x.tm.limit
  if x.tm.beside = 0 then c
  else (List.range 16).foldl (fun c b => c.inc (cBankConflict + 4 * b) (freeIn (x.s.free (10 ^ 9 + 16 + b)) 0 (x.tm.beside : Nat)).toNat) c

/-- The core after the issue: what the command occupies, and its writes in their access cycles. -/
def Ctx.issued (x : Ctx) (o : Out) : Core :=
  let T := x.doneAt o
  let c := o.core.land x.c.scratch o.core.scratch (x.s.writeCycle x.core x.task x.w T)
  let keys := match o.hold with
    | some h => h.keys.map fun k => (k, x.tm.start + h.busy)
    | none => x.engines.map fun k => (k, T)
  let c := { c with busy := x.heldWrites o (keys.foldl (fun m k => sput 0 m k.1 (max (sget 0 m k.1) k.2)) c.busy), clock := x.tm.issue + 1, flights := c.flights ++ x.flightsOf o,
                    fillEnd := if x.s.ownsRun x.core x.t then c.fillEnd else T }
  (x.lostCycles c).inc cHoldStall (x.holdStall o)

/-- The issue of a head that executes: it leaves the queue, writes, counts, and increments its tokens. -/
def State.finishCmd (s : State) (x : Ctx) (o : Out) : State :=
  let T := x.doneAt o
  let c := x.issued o
  let t := (o.core.task x.task).popHead x.tm.issue
  let t := { t with srSeq := t.srSeq + b2n o.sr, resClass := max t.resClass o.grade.klass, resEvents := t.resEvents ||| o.grade.events,
                    endAt := max t.endAt T }
  let c := c.setTask x.task t
  let c := if cwDone x.w ∧ o.defer = false then c.tokenIn x.task (cwDoneTok x.w) T else c
  let s := if x.tm.icc = 0 then s else s.hubInc (rIccWait + 4 * regionOf x.core) x.tm.icc
  ((s.setCore x.core c).tookFree).applyFxs x.core x.task T (o.fx ++ remoteToken x)

/-- A head that waits or goes on later: the core's record and the stack's occupation (R135, R187, R388). -/
def State.stayCmd (s : State) (x : Ctx) (o : Out) : State :=
  let c := { o.core with scratch := (s.core x.core).scratch }
  match o.hold with
  | none => (s.setCore x.core c).applyFxs x.core x.task (x.doneAt o) o.fx
  | some h =>
    let c := { c with busy := h.keys.foldl (fun m k => sput 0 m k (x.tm.start + h.busy)) c.busy,
                      fillEnd := if x.s.ownsRun x.core x.t then c.fillEnd else x.tm.start + h.busy }
    ((s.setCore x.core (x.lostCycles c)).tookFree).applyFxs x.core x.task (x.doneAt o) o.fx

/-- The error record takes the first failure (R242, R255). -/
def ErrRec.take (r : ErrRec) (w : CmdWord) (e : CErr) (beat : Nat) : ErrRec :=
  if r.valid then { r with discarding := true } else
    { valid := true, discarding := true, opcode := cwOpcode w, status := e.status,
      detail := BitVec.ofNat 32 (2 ^ 28 * e.reason + 2 ^ 22 * (e.row % 64) + e.pos % 2 ^ 22), beat := beat, word := w }

/-- Counters and events of a failure (R88, R216, R396). -/
def failureFx (x : Ctx) (e : CErr) : List Fx :=
  (if e.status = stFormatError then [.fault 11 x.core 0] else if e.status = stBoundFault then [.fault 10 x.core 0] else []) ++ e.fx

def countFailure (c : Core) (e : CErr) : Core :=
  if e.status = stFormatError then c.inc cFormatError 1 else if e.status = stBoundFault then c.inc cBoundFault 1 else c

/-- Statuses that a replay resolves first (R242, R402; log entry 43, DEDUCED). -/
def replayStatus (st : Nat) : Bool := st == stSpadUncorrectable || st == stArrayUncorrectable

/-- A head that fails: no access, counters, and either the replay of its unit or the error record and its tokens (R216, R217, R242). -/
def State.failCmd (s : State) (x : Ctx) (e : CErr) : State :=
  let plan := x.t.plan
  let again := replayStatus e.status && s.replayable plan
  let s := s.modCore x.core fun c => { (countFailure c e).inc cFenceWait x.tm.fence with clock := x.tm.issue + 1 }
  let s := s.applyFxs x.core x.task x.tm.issue (failureFx x e)
  if again then s.breakUnit plan
  else if (match s.run? plan with
      | some r => r.broken
      | none => false) then s
  else
    let s := s.modTask x.core x.task fun t =>
      let t := (t.popHead x.tm.issue).doneToken x.w
      { t with err := t.err.take x.w e s.beat }
    s.applyFxs x.core x.task x.tm.issue (remoteToken x)

/-- A head that is discarded: its tokens increment as it leaves the queue, a barrier counts as arrived and a DONE as issued (R242). -/
def State.discardCmd (s : State) (x : Ctx) : State :=
  if cwOpcode x.w = 0x51 then
    let s := s.modTask x.core x.task fun t => (t.popHead x.tm.issue).doneToken x.w
    s.arriveBarrier x.core x.task (fld x.w 99 96) none
  else
    let s := s.modTask x.core x.task fun t =>
      let t := (t.popHead x.tm.issue).doneToken x.w
      if cwOpcode x.w = 0x57 then (if bitAt x.w 99 then { t with doneEnd := true, seq := .stopped } else { t with doneStep := true }) else t
    s.applyFxs x.core x.task x.tm.issue (remoteToken x)

/-! ## Injection (R406) -/

/-- The injection armed, where its target is as the predicate says: checker and pattern. -/
def State.injected (s : State) (target : Word → Bool) : Option (Nat × Nat) :=
  let v := s.hubWord rInjCtrl
  if bitAt v 31 && target v && decide (1 ≤ fld v 27 26) && decide (fld v 27 26 ≤ 2) && !(bitAt (s.hubWord rInjLock) 0)
  then some (fld v 30 28, fld v 27 26) else none

/-- The injection armed for a core; SECDED of hub memories has the hub as its target. -/
def State.injection (s : State) (core : Nat) : Option (Nat × Nat) :=
  s.injected fun v => fld v 25 24 == core / 64 && fld v 23 16 == core % 64
def State.injectionHub (s : State) : Option (Nat × Nat) := s.injected fun v => fld v 23 16 == 0xFF && fld v 30 28 == 0

/-- One injected access is consumed: REMAINING falls, ARM clears at 0, and sticky bit 31 sets. -/
def State.consumeInjection (s : State) : State :=
  let rem := fld (s.hubWord rInjStatus) 15 0
  let s := s.setHub rInjStatus (BitVec.ofNat 32 (rem - 1))
  let s := if rem ≤ 1 then s.setHub rInjCtrl (setFld (s.hubWord rInjCtrl) 31 31 0) else s
  s.reportOnly 31 0 0

/-! ## The issue of a row's command -/

/-- Does the operation fit: an issue cycle in the run's budget, what it needs of the budget (R135, R168), the length of fill (R49)? -/
def State.roomFor (s : State) (x : Ctx) (o : Out) : Bool :=
  let h := o.hold.getD { keys := [], need := 0, busy := 0, op := o.cycles, computes := none }
  (s.ownsRun x.core x.t || decide (h.op ≤ 684)) && decide (x.tm.issue < s.runBudgetOf x.core)
  && (o.hold.isNone || decide (x.tm.start + h.need ≤ s.runBudgetOf x.core))

/-- The state as a command's reads see it: each byte of the core's scratchpad as it stands in the access cycle that reads it (R212-R214). -/
def State.sees (s : State) (core task : Nat) (w : CmdWord) : State :=
  let c := s.core core
  if c.late.isEmpty then s else s.setCore core { c with scratch := c.seen (s.readCycle core task w (s.timing core task w)) }

/-- A head at issue. -/
def State.ctxAt (s : State) (core task : Nat) (w : CmdWord) (chk : Check) (inj : Option (Nat × Nat)) : Ctx :=
  { s := s.sees core task w, core := core, task := task, w := w, chk := chk, inj := inj, tm := s.timing core task w }

/-- The head of the segment, where it is this row's opcode: it waits on its fence or engine, is discarded, fails, or executes.
`cls` are the checker classes the command consults; a reserved opcode fails here (R244). -/
def State.issue (op : Nat) (cls : List Nat) (check : Ctx → Option CErr) (run : Ctx → Out) (core task : Nat) (chk : Check)
    (s : State) : State :=
  match s.issueHead core task with
  | none => s
  | some w =>
    let t := (s.core core).task task
    let inj := match (if op = 0x08 ∧ s.injectionHub.isSome then s.injectionHub else s.injection core) with
      | some (c, p) => if cls.contains c ∧ !(op == 0x08 && c == 0 && s.injectionHub.isNone) then some (c, p) else none
      | none => none
    let x := s.ctxAt core task w chk inj
    if t.err.discarding then (if cwOpcode w = op ∨ cwReserved (cwOpcode w) = true then s.discardCmd x else s)
    else if fenceMet t w = false then s
    else if cwReserved (cwOpcode w) then s.failCmd x CErr.format
    else if cwOpcode w ≠ op then s
    else
      match check x with
      | some e => (if inj.isSome then s.consumeInjection else s).failCmd x e
      | none =>
        let o := run x
        let s' := if inj.isSome then s.consumeInjection else s
        if o.stay then s'.stayCmd x o
        else if s.roomFor x o then s'.finishCmd x o else s

/-! ## Commands that read and write the scratchpad only -/

/-- What a command of the drain, the row engine or the copy engine does within its core: the scratchpad, the side-memory records it
writes (64 B each), counters by register offset, drain operations counted, and elements rounded stochastically. -/
structure SOut where
  mem : Mem
  /-- Handle entries of the task that change (R259, R333). -/
  handles : List (Nat × DWord)
  recs : List (Nat × List Byte)
  counts : List (Nat × Nat)
  grade : Grade2
  sr : Bool
  ops : Nat
  srElems : Nat
  cycles : Nat
  deriving DecidableEq, Repr

/-- A command that only writes the scratchpad. -/
def SOut.of (m : Mem) (cycles : Nat) : SOut :=
  { mem := m, handles := [], recs := [], counts := [], grade := .none, sr := false, ops := 0, srElems := 0, cycles := cycles }

/-- Counters of a core, by register offset. -/
def Core.count (c : Core) (l : List (Nat × Nat)) : Core := l.foldl (fun c e => c.inc e.1 e.2) c

/-- A scratchpad read meets an uncorrectable word (R210). -/
def Ctx.spadCheck (x : Ctx) : Option CErr :=
  if x.meets 0 = .major ∨ x.chk = .spad then
    some { CErr.plain stSpadUncorrectable with fx := [.fault 7 (x.s.physInst x.core) 1] }
  else none

/-- Commands that name a side-memory record, which they read first (R252, R253, R275). -/
def usesSide (op : Nat) : Bool := op == 0x33 || op == 0x34 || op == 0x35 || op == 0x42 || op == 0x43 || op == 0x44 || op == 0x46

/-- The scratchpad's error of a command whose own checker is another one (log entry 11, DESIGN CHOICE). -/
def Ctx.spadOnly (x : Ctx) : Option CErr :=
  if x.chk = .spad ∨ x.inj = some (0, 2) then some { CErr.plain stSpadUncorrectable with fx := [.fault 7 (x.s.physInst x.core) 1] } else none

/-- A read meets a corrected word, of the side memory where the command reads a record (R210, R275, R396; log entry 11, DESIGN CHOICE). -/
def Ctx.spadCounts (x : Ctx) : List (Nat × Nat) :=
  (if x.meets 0 = .minor then [(if usesSide (cwOpcode x.w) then cSideCorrected else cSpadCorrected, 1)] else [])
  ++ (if x.chk = .spadCorr then [(cSpadCorrected, 1)] else [])
def Ctx.spadFx (x : Ctx) : List Fx := if x.meets 0 = .minor ∨ x.chk = .spadCorr then [.fault 6 (x.s.physInst x.core) 0] else []

/-- The same context for a command whose own checker is another one: of what it meets only the scratchpad's part counts there. -/
def Ctx.spadSide (x : Ctx) : Ctx := { x with chk := if x.chk = .spadCorr then .spadCorr else .clean }

/-- The core after a command of this kind, and what issue needs to know of it. -/
def SOut.toOut (x : Ctx) (o : SOut) : Out :=
  let c := o.recs.foldl (fun c r => c.putRecord x.t r.1 r.2) { x.c with scratch := o.mem }
  let c := o.handles.foldl (fun c h => c.setTask x.task { c.task x.task with handles := (c.task x.task).handles.set h.1 h.2 }) c
  let c := c.count (o.counts ++ x.spadCounts)
  let c := if o.ops = 0 then c else c.inc64 cDrainOps o.ops
  let c := if o.srElems = 0 then c else c.inc64 cSrElements o.srElems
  { core := c, grade := o.grade, sr := o.sr, cycles := o.cycles, hold := none, fx := x.spadFx, writes := none, defer := false, stay := false }

/-- The issue of a command of the drain, the row engine or the copy engine. -/
def State.issueSpad (op : Nat) (check : Ctx → Option CErr) (run : Ctx → SOut) (core task : Nat) (chk : Check) (s : State) : State :=
  s.issue op [0] (fun x => firstErr [check x, x.spadCheck]) (fun x => (run x).toOut x) core task chk

end Sys2Proof.Machine
end

