-- ==== Sys2Proof/Machine/Copy.lean ====
section
/-!
DEFINITION. Sys2Proof/Machine/Copy.lean: the copy engine: copies within the scratchpad, to and from own DCMs, other cores and
staging, tile forms, and exact read (R80-R88, R107-R112, R217-R223, R246).
-/
namespace Sys2Proof.Machine

/-! ## Timing (R221-R223) -/

/-! ## Copies between tiles -/

/-- The bytes that a copy moves out of a tile, by destination offset: its rows, and its strip (R66). -/
def Tile.writeFrom (d a : Tile) (base : Nat) (src dst : Mem) (srcBase : Nat) : Mem :=
  let m := (List.range a.rows).foldl (fun m r => m.write (d.rowAddr base r) (a.row src srcBase r)) dst
  m.write (d.stripAddr base) (src.read (a.stripAddr srcBase) (stripLen a.fmt a.rows))

def Tile.bytes (t : Tile) : Nat := 256 * t.rows + stripLen t.fmt t.rows

/-- Rows that a strip adds to a copy's time. -/
def Tile.units (t : Tile) : Nat := t.rows + ceilDiv (stripLen t.fmt t.rows) 256

/-- The source's rows and strip fit the destination tile. -/
def Tile.fits (a d : Tile) : Bool := decide (a.rows ≤ d.rows) && decide (stripLen a.fmt a.rows ≤ stripLen d.fmt d.rows)

def Core.copied (c : Core) (n : Nat) : Core := c.inc64 cCopyBytes n

/-- A copy-engine command's end: the core with COPY_BYTES counted and what a corrected scratchpad word counts. -/
def Ctx.copyOut (x : Ctx) (c : Core) (bytes cycles : Nat) (fx : List Fx) : Out :=
  { Out.of ((c.copied bytes).count x.spadCounts) cycles with fx := fx ++ x.spadFx }

/-- NOP (R246). -/
def nopCheck (x : Ctx) : Option CErr := x.operandCheck [] (x.zero 99 64 && x.noImm && x.noFlags)
def nopRun (x : Ctx) : Out := Out.of x.c 1

/-- The constant of FILL, DCM_FILL and DCM_COLWR: a tile of one row (R246, R248; log entry 109, DEDUCED). -/
def Ctx.constRow (x : Ctx) : Opd := ⟨cwA x.w, true, anyFmt⟩
def Ctx.oneRow (x : Ctx) : Bool := x.a.rows == 1

/-- FILL (R220): every row of D takes A's row. -/
def fillCheck (x : Ctx) : Option CErr :=
  firstErr [x.operandCheck [⟨cwD x.w, true, anyFmt⟩, x.constRow] (x.zero 99 64 && x.noImm && x.noFlags && x.oneRow), x.spadCheck]
def fillRun (x : Ctx) : Out :=
  let row := x.a.row x.mem x.base 0
  let m := (List.range x.d.rows).foldl (fun m r => m.write (x.d.rowAddr x.base r) row) x.mem
  x.copyOut { x.c with scratch := m } (256 * x.d.rows) (x.d.rows + 1) []

/-- COPYW (R220): as if the whole source were read before any destination row is written. -/
def copywCheck (x : Ctx) : Option CErr :=
  firstErr [x.operandCheck [⟨cwD x.w, true, anyFmt⟩, ⟨cwA x.w, true, anyFmt⟩] (x.zero 99 64 && x.noImm && x.noFlags),
    unlessOk (x.a.fits x.d) CErr.bound, x.spadCheck]
def copywRun (x : Ctx) : Out :=
  x.copyOut { x.c with scratch := x.d.writeFrom x.a x.base x.mem x.mem x.base } x.a.bytes (x.a.units + 7) []

/-! ## Own DCMs (R165, R182-R189, R246) -/

def dcmOf (x : Ctx) : Nat := fld x.w 99 91
def dcmRow (x : Ctx) : Nat := fld x.w 90 81
/-- Lane mask; 0 means all eight lanes. -/
def laneMask (x : Ctx) : Nat := if fld x.w 80 73 = 0 then 0xFF else fld x.w 80 73

/-- A DCM read fails: rows that a second loss took, or an injected failure of the rebuild (R189, R406). -/
def Ctx.dcmUnreadable (x : Ctx) (l first n : Nat) : Bool :=
  x.c.rowsDead l first n || (match x.inj with
    | some (4, p) => p == 2
    | _ => false)

/-- Of what a command meets, what concerns the DCM words that it reads beside its operands. -/
def Ctx.dcmSide (x : Ctx) : Ctx :=
  { x with chk := match x.chk with
      | .dcmCorr => .minor
      | .dcmBad => .major
      | .column n => .column n
      | .worse => .worse
      | _ => .clean }

/-- The read is served by rebuild (R186, R187). -/
def Ctx.dcmRebuilt (x : Ctx) (l : Nat) : Bool :=
  (x.c.dcmInfo l).lost || (match x.inj with
    | some (4, _) => true
    | _ => match x.meets 0 with
      | .major => true
      | .dcmBad => true
      | .column _ => true
      | .worse => true
      | _ => false)

/-- A word of the DCM is corrected by its SECDED code (R182, R186). -/
def Ctx.dcmCorrected (x : Ctx) : Bool :=
  match x.inj with
  | some (4, _) => true
  | _ => decide (x.meets 0 = .minor) || decide (x.meets 0 = .dcmCorr)

/-- What a DCM read counts: each counter by 1 a command, however many rows or words it reads (R182, R186; log entry 50, DESIGN CHOICE). -/
def Ctx.dcmReadCore (x : Ctx) (l : Nat) (c : Core) : Core :=
  let c := if x.dcmRebuilt l then c.inc cParityRead 1 else c
  if x.dcmCorrected then
    let d := c.dcmInfo l
    let c := (c.inc cSecdedCorrected 1).setDcmInfo l { d with transient := min 255 (d.transient + 1) }
    if bitAt (c.reg cDcmCtrl) 8 then c.inc cScrubWrite 1 else c
  else c

def Ctx.dcmReadFx (x : Ctx) (l : Nat) : List Fx :=
  let i := 576 * x.core + l
  (if x.dcmRebuilt l ∧ (x.c.dcmInfo l).lost = false then [Fx.fault 13 i 1] else [])
  ++ (if x.dcmCorrected ∧ x.dcmRebuilt l = false then [Fx.fault 12 i 0] else [])
  ++ (match x.meets 0 with
    | .column n => [Fx.softRepair l (n % 2320)]
    | .worse => [Fx.loseDcm l]
    | _ => [])

/-- Cycles that a rebuild adds to the read (R186). -/
def Ctx.dcmReadDelay (x : Ctx) (l : Nat) : Nat := if x.dcmRebuilt l then 4 else 0

/-- Write 256 B through a mask of 32 B lanes. -/
def writeLanes (m : Mem) (addr mask : Nat) (row : List Byte) : Mem :=
  (List.range 8).foldl (fun m k => if Nat.testBit mask k then m.write (addr + 32 * k) ((row.drop (32 * k)).take 32) else m) m

/-- The bytes of a DCM from a row on, to the end of the DCM. -/
def Core.dcmBytes (c : Core) (l row n : Nat) : List Byte := c.dcmView.read (dcmAddr l row) n

/-- DCM bytes in tile form from a row on: header and payload, at most to the end of the DCM. -/
def Ctx.dcmForm (x : Ctx) : List Byte :=
  let room := 256 * (1024 - dcmRow x)
  let n := tileFormLen (x.c.dcmBytes (dcmOf x) (dcmRow x) 32)
  x.c.dcmBytes (dcmOf x) (dcmRow x) (min n room)

/-- The error of a tile form, as a command's failure (R88). -/
def TileErr.toCErr (e : TileErr) : CErr := { status := stFormatError, reason := e.reason, row := e.row, pos := e.pos, fx := [] }

def formErr (t : Tile) (b : List Byte) : Option CErr :=
  match t.decompress b with
  | .error e => some e.toCErr
  | .ok _ => none

def formWrite (t : Tile) (base : Nat) (b : List Byte) (m : Mem) : Mem :=
  match t.decompress b with
  | .error _ => m
  | .ok u => t.writeUnpacked base u m

/-- Cycles of decompression (R86). -/
def formCycles (t : Tile) (b : List Byte) : Nat :=
  let comp := fld (BitVec.ofNat 8 (leNat (b.take 1))) 5 4
  let row := fun r => if comp = 1 then 8 else if comp = 2 then 4 + ceilDiv (leNat ((b.drop (32 + 2 * r)).take 2)) 8 else 0
  let lane := fun k => ((List.range t.rows).filter fun r => r % 8 == k).foldl (fun a r => a + row r) 0
  4 + ((List.range 8).map lane).foldl max 0

def compressCycles (t : Tile) : Nat := 4 + 8 * ceilDiv t.rows 8

/-- Fields and rights of DCM_RD and DCM_WR: the DCM, the rows, the lane mask with the tile form (log entry 47, DEDUCED). -/
def dcmCopyFields (x : Ctx) (rows : Nat) : List (Option CErr) :=
  [unlessOk (cwFlag12 x.w || decide (dcmRow x + rows ≤ 1024)) CErr.format,
   unlessOk (x.c.dcmUsable x.t (dcmOf x)) CErr.bound]

/-- Rows of the DCM that a DCM_RD reads. -/
def dcmRdRows (x : Ctx) : Nat := if cwFlag12 x.w then ceilDiv x.dcmForm.length 256 else x.d.rows

/-- DCM_RD (R246). -/
def dcmRdCheck (x : Ctx) : Option CErr :=
  firstErr
    [x.operandCheck [⟨cwD x.w, true, anyFmt⟩] (x.zero 72 64 && x.noImm && x.flag12Only),
     firstErr (dcmCopyFields x x.d.rows),
     unlessOk (!(x.c.dcmInfo (dcmOf x)).gone) (CErr.plain stDcmLost),
     unlessOk (!(x.dcmUnreadable (dcmOf x) (dcmRow x) (dcmRdRows x))) (CErr.plain stDcmUncorrectable),
     if cwFlag12 x.w then formErr x.d x.dcmForm else none]
def dcmRdRun (x : Ctx) : Out :=
  let l := dcmOf x
  let m := if cwFlag12 x.w then formWrite x.d x.base x.dcmForm x.mem else
    (List.range x.d.rows).foldl (fun m r =>
      writeLanes m (x.d.rowAddr x.base r) (laneMask x) (x.c.dcmBytes l (dcmRow x + r) 256)) x.mem
  let cyc := x.d.rows + 11 + (if cwFlag12 x.w then formCycles x.d x.dcmForm else 0) + x.dcmReadDelay l
  let c := x.dcmReadCore l { x.c with scratch := m }
  { Out.of (c.copied (if cwFlag12 x.w then x.d.bytes else 256 * x.d.rows)) cyc with fx := x.dcmReadFx l }

/-- DCM_WR (R246). -/
def dcmWrForm (x : Ctx) : List Byte × Bool := x.a.compress x.mem x.base
def dcmWrCheck (x : Ctx) : Option CErr :=
  firstErr
    [x.operandCheck [⟨cwA x.w, true, anyFmt⟩] (x.zero 72 64 && x.noImm && x.flag12Only),
     firstErr (dcmCopyFields x x.a.rows),
     unlessOk (!(cwFlag12 x.w) || decide (256 * dcmRow x + (dcmWrForm x).1.length ≤ 0x40000)) CErr.bound,
     unlessOk (!(x.c.lostForGood (dcmOf x))) (CErr.plain stDcmLost),
     x.spadCheck]
def dcmWrRun (x : Ctx) : Out :=
  let l := dcmOf x
  if cwFlag12 x.w then
    let (b, fb) := dcmWrForm x
    let c := x.c.dcmStore (x.c.dcmView.write (dcmAddr l (dcmRow x)) b)
    x.copyOut (if fb then c.inc cCopyFallback 1 else c) b.length (x.a.rows + 10 + compressCycles x.a) [] |> fun o => { o with writes := some (l, ceilDiv b.length 256, 1) }
  else
    let m := (List.range x.a.rows).foldl (fun m r =>
      writeLanes m (dcmAddr l (dcmRow x + r)) (laneMask x) (x.a.row x.mem x.base r)) x.c.dcmView
    let c := x.c.dcmStore m
    { x.copyOut (if laneMask x = 0xFF then c.rowsWritten l (dcmRow x) x.a.rows else c) (256 * x.a.rows) (x.a.rows + 10) [] with writes := some (l, x.a.rows, 1) }

/-! ## Exact read (R107-R112) -/

/-- The CRC-16 of an output column (R109). -/
def Deck.columnCrc (d : Deck) (j : Nat) : Half := crc16 (tabulate 1024 fun i => BitVec.ofInt 8 (d.weight i j))

/-- The column check table of a deck: 2 B per column in column order (R109). -/
def Deck.crcTable (d : Deck) : List Byte := (List.range d.columns).flatMap fun j => toLe 2 (d.columnCrc j).toNat

def deckField (x : Ctx) : Nat := fld x.w 99 92

/-- Device-wide physical deck index of a slice deck number of the command's core. -/
def Ctx.physDeck (x : Ctx) (n : Nat) : Nat := 216 * x.core + x.c.deckPos n

/-- The rights and the state of an exact read (R95, R96, R111, R230). -/
def exrdRights (x : Ctx) : List (Option CErr) :=
  [unlessOk (decide (deckField x < 192) && x.deckRights (deckField x) [0, 2] false) (CErr.plain stAccessDenied),
   unlessOk (decide ((x.deckAt (deckField x)).state = .ready)) (CErr.plain stDeckState)]

/-- An uncorrectable row (R108). -/
def Ctx.arrayErr (x : Ctx) (n : Nat) : CErr :=
  { CErr.plain stArrayUncorrectable with fx := [.hubInc rUncorrectable 1, .fault 15 (x.physDeck n) 1] }

/-- EXRD_ROW (R107, R108, R246). -/
def exrdRowCheck (x : Ctx) : Option CErr :=
  firstErr
    [x.operandCheck [⟨cwD x.w, true, anyFmt⟩]
       (x.zero 81 64 && x.noFlags && decide (1 ≤ cwImm x.w) && decide (cwImm x.w ≤ 16) && decide (fld x.w 91 82 + cwImm x.w ≤ 1024)
        && (cwD x.w == 0xFF || decide (4 * cwImm x.w ≤ x.d.rows))),
     firstErr (exrdRights x),
     if x.meets 2 = .major ∨ x.chk = .row then some (x.arrayErr (deckField x)) else none]
/-- Bits that the row code corrects in n rows, at most 9 a row (R108). -/
def Ctx.rowBits (x : Ctx) (n : Nat) : Nat := match x.chk with
  | .bits k => min k (9 * n)
  | _ => if x.meets 2 = .minor then 1 else 0
def exrdRowRun (x : Ctx) : Out :=
  let n := cwImm x.w
  let d := x.deckAt (deckField x)
  let m := (List.range n).foldl (fun m k =>
    let b := d.rowBytes (fld x.w 91 82 + k)
    (List.range 4).foldl (fun m q => m.write (x.d.rowAddr x.base (4 * k + q)) ((b.drop (256 * q)).take 256)) m) x.mem
  { Out.of (({ x.c with scratch := m } : Core).copied (1024 * n)) (82 + x.nsCycles 60 * n) with
    fx := if 0 < x.rowBits n then [.hubInc rBchCorrected (x.rowBits n)] else [] }

/-- EXRD_COL (R107, R109, R110, R246). -/
def colRows (x : Ctx) : Nat := if (x.deckAt (deckField x)).fmt4 then 2 else 4

/-- The column mismatches its check table and is taken from corrected rows (R110). -/
def colFallback (x : Ctx) : Bool :=
  let d := x.deckAt (deckField x)
  let col := fld x.w 91 81
  let t := fld x.w 80 72
  let row := 16 * fld x.w 71 66 + 2 * col / 256
  (match x.meets 3 with
    | .minor => true
    | .major => true
    | .row => true
    | .bits _ => true
    | _ => false)
  || (x.c.dcmInfo t).gone || x.c.rowsDead t row 1 || (x.c.dcmView.num (dcmAddr (fld x.w 80 72) (16 * fld x.w 71 66) + 2 * col) 2 != (d.columnCrc col).toNat)

def exrdColCheck (x : Ctx) : Option CErr :=
  firstErr
    [x.operandCheck [⟨cwD x.w, true, anyFmt⟩]
       (x.zero 65 64 && x.noFlags && x.noImm && (cwD x.w == 0xFF || decide (2 ≤ x.d.rows))),
     unlessOk (x.c.dcmUsable x.t (fld x.w 80 72)) CErr.bound,
     firstErr (exrdRights x),
     unlessOk (decide (fld x.w 91 81 < (x.deckAt (deckField x)).columns) && x.d.rows == colRows x) CErr.format,
     unlessOk (x.deckAt (deckField x)).colcheck (CErr.plain stDeckState),
     unlessOk (!(x.dcmUnreadable (fld x.w 80 72) 0 0)) (CErr.plain stDcmUncorrectable),
     if (x.meets 3 = .major ∧ x.inj = none) ∨ (x.chk = .row ∧ colFallback x = true) then some (x.arrayErr (deckField x)) else none]
def exrdColRun (x : Ctx) : Out :=
  let d := x.deckAt (deckField x)
  let col := fld x.w 91 81
  let b := packBits (if d.fmt4 then 4 else 8) (256 * colRows x) (tabulate 1024 fun i => unsigned 8 (d.weight i col))
  let m := (List.range (colRows x)).foldl (fun m q => m.write (x.d.rowAddr x.base q) ((b.drop (256 * q)).take 256)) x.mem
  let fb := colFallback x
  let t := fld x.w 80 72
  let fixed := if fb then x.rowBits 1024 else 0
  { Out.of (x.dcmSide.dcmReadCore t (({ x.c with scratch := m } : Core).copied b.length))
      (x.dcmSide.dcmReadDelay t + (if d.fmt4 then 50 + 2 * x.nsCycles 60 else 50 + 4 * x.nsCycles 60) + (if fb then 1024 * x.nsCycles 60 else 0)) with
    fx := (if fb then [.hubInc rColcheckFallback 1, .refresh (x.physDeck (deckField x))] else [])
      ++ (if 0 < fixed then [.hubInc rBchCorrected fixed] else []) ++ x.dcmSide.dcmReadFx t }

/-! ## Other cores and staging -/

/-- The first hop of the shortest path from ring position a to b: hop k joins positions k and k + 1, and hop 4 region 3 and the hub
(R12). On the SZT-320 the ring is the chain of hops 0 and 1 (R14). -/
def firstHop (grade : Grade) (a b : Nat) : Nat :=
  if (if grade = .szt640 then decide ((b + 5 - a) % 5 ≤ 2) else decide (a < b)) then a else (a + 4) % 5

/-- An injected flit error on a transfer between ring positions a and b (R396, R406): one retry, or retry exhausted, on the first hop of
its path (log entry 51, DEDUCED). -/
def Ctx.linkFx (x : Ctx) (a b : Nat) : List Fx :=
  match x.inj with
  | some (6, p) => if a = b then [] else [.fault 21 (firstHop x.s.grade a b) (if p = 2 then 3 else 0)]
  | _ => []

/-- The destination tile of a PUT: the handle of the same task on the destination core (R216, R246). -/
def Ctx.remoteTask (x : Ctx) : Task := (x.s.core (cwDestCore x.w)).task x.task
def Ctx.remoteHandle (x : Ctx) : DWord := x.remoteTask.handles.getD (cwD x.w) 0

def Ctx.remoteOk (x : Ctx) : Bool :=
  let t := x.remoteTask
  decide (fld x.w 99 98 < x.s.nRegions) && decide ((x.s.region (fld x.w 99 98)).service = .inService) && t.valid && t.plan == x.t.plan
  && handleValid x.remoteHandle && tileOk x.remoteHandle && (tileOf x.remoteHandle).inWindow t.bound && x.a.fits (tileOf x.remoteHandle)

/-- PUT and TSEND (R216-R218, R246, R254). A destination that is the issuing core makes it a COPYW. -/
def putCheck (x : Ctx) : Option CErr :=
  if cwDestCore x.w = x.core then
    firstErr [x.operandCheck [⟨cwD x.w, true, anyFmt⟩, ⟨cwA x.w, true, anyFmt⟩] (x.zero 91 64 && x.noImm && x.noFlags),
      unlessOk (x.a.fits x.d) CErr.bound, x.spadCheck]
  else
    firstErr
      [x.operandCheck [⟨cwA x.w, true, anyFmt⟩] (x.zero 91 64 && x.noImm && x.noFlags && decide (cwD x.w < 64)),
       unlessOk x.remoteOk CErr.bound, x.spadCheck]
/-- Bytes that arrive at the destination core: one write per row, then the strip. -/
def putFx (x : Ctx) : List Fx :=
  let d := tileOf x.remoteHandle
  let b := x.remoteTask.base
  (List.range x.a.rows).map (fun r => Fx.spad (cwDestCore x.w) (d.rowAddr b r) (x.putTail + x.a.units - r) (x.a.row x.mem x.base r))
  ++ [Fx.spad (cwDestCore x.w) (d.stripAddr b) (x.putTail + 1) (x.mem.read (x.a.stripAddr x.base) (stripLen x.a.fmt x.a.rows))]
def putRun (x : Ctx) : Out :=
  if cwDestCore x.w = x.core then copywRun x
  else
    x.copyOut x.c x.a.bytes (20 + x.nsCycles 40 * x.putHops + x.a.units + x.putTail) (putFx x ++ x.linkFx (x.core / 64 + 1) (cwDestCore x.w / 64 + 1))

/-- Staging address of STG_IN and STG_OUT: offset / 32 in the task's window (R246). -/
def stageOff (x : Ctx) : Nat := 32 * fld x.w 84 64
def stageAddr (x : Ctx) : Nat := x.t.stageBase + stageOff x

def stageRoom (x : Ctx) (n : Nat) : Option CErr := unlessOk (decide (stageOff x + n ≤ x.t.stageLen)) CErr.bound

def Ctx.stageForm (x : Ctx) : List Byte :=
  let n := tileFormLen (x.s.staging.read (stageAddr x) 32)
  x.s.staging.read (stageAddr x) (min n (x.t.stageLen - stageOff x))

/-- STG_IN (R246). A corrected staging word is an L0 event, an uncorrectable one stops the device and forwards nothing (R396). -/
def stgInCheck (x : Ctx) : Option CErr :=
  firstErr
    [x.operandCheck [⟨cwD x.w, true, anyFmt⟩] (x.zero 99 85 && x.noImm && x.flag12Only),
     if cwFlag12 x.w then firstErr [stageRoom x 32, stageRoom x (tileFormLen (x.s.staging.read (stageAddr x) 32)), formErr x.d x.stageForm]
     else stageRoom x x.d.bytes]
def stgInRun (x : Ctx) : Out :=
  let b := x.s.staging.read (stageAddr x) x.d.bytes
  let rows := fun m => (List.range x.d.rows).foldl (fun m r => Mem.write m (x.d.rowAddr x.base r) ((b.drop (256 * r)).take 256)) m
  let m := if x.meets 0 = .major then x.mem else if cwFlag12 x.w then formWrite x.d x.base x.stageForm x.mem
    else (rows x.mem).write (x.d.stripAddr x.base) (b.drop (256 * x.d.rows))
  let hop := x.nsCycles 40 * ringHops x.s.grade 0 (x.core / 64 + 1)
  { Out.of (({ x.c with scratch := m } : Core).copied x.d.bytes)
      (10 + x.nsCycles 10 + hop + x.d.units + (if cwFlag12 x.w then formCycles x.d x.stageForm else 0)) with
    fx := (match x.meets 0 with
      | .minor => [Fx.fault 23 0 0]
      | .major => [Fx.fault 23 0 3]
      | _ => []) ++ x.linkFx 0 (x.core / 64 + 1) }

/-- STG_OUT (R246). -/
def stgOutBytes (x : Ctx) : List Byte :=
  if cwFlag12 x.w then (x.a.compress x.mem x.base).1 else x.a.dense x.mem x.base
def stgOutCheck (x : Ctx) : Option CErr :=
  firstErr
    [x.operandCheck [⟨cwA x.w, true, anyFmt⟩] (x.zero 99 85 && x.noImm && x.flag12Only),
     stageRoom x (stgOutBytes x).length, x.spadCheck]
def stgOutRun (x : Ctx) : Out :=
  let hop := x.nsCycles 40 * ringHops x.s.grade 0 (x.core / 64 + 1)
  let fb := cwFlag12 x.w && (x.a.compress x.mem x.base).2
  x.copyOut (if fb then x.c.inc cCopyFallback 1 else x.c) (stgOutBytes x).length
    (10 + x.nsCycles 10 + hop + x.a.units + 4 + hop + (if cwFlag12 x.w then compressCycles x.a else 0))
    ([.stage (stageAddr x) (stgOutBytes x)] ++ x.linkFx (x.core / 64 + 1) 0)

/-! ## The meanings -/

def execNop (core : Fin 256) (task : Fin 4) (chk : Check) (s : State) : Host.Outcome State Fault Refusal :=
  .next (s.issue 0x00 [] nopCheck nopRun core task chk)
def execFill (core : Fin 256) (task : Fin 4) (chk : Check) (s : State) : Host.Outcome State Fault Refusal :=
  .next (s.issue 0x01 [0] fillCheck fillRun core task chk)
def execCopyw (core : Fin 256) (task : Fin 4) (chk : Check) (s : State) : Host.Outcome State Fault Refusal :=
  .next (s.issue 0x02 [0] copywCheck copywRun core task chk)
def execDcmRd (core : Fin 256) (task : Fin 4) (chk : Check) (s : State) : Host.Outcome State Fault Refusal :=
  .next (s.issue 0x03 [0, 4] dcmRdCheck dcmRdRun core task chk)
def execDcmWr (core : Fin 256) (task : Fin 4) (chk : Check) (s : State) : Host.Outcome State Fault Refusal :=
  .next (s.issue 0x04 [0] dcmWrCheck dcmWrRun core task chk)
def execExrdRow (core : Fin 256) (task : Fin 4) (chk : Check) (s : State) : Host.Outcome State Fault Refusal :=
  .next (s.issue 0x05 [2] exrdRowCheck exrdRowRun core task chk)
def execExrdCol (core : Fin 256) (task : Fin 4) (chk : Check) (s : State) : Host.Outcome State Fault Refusal :=
  .next (s.issue 0x06 [3, 4] exrdColCheck exrdColRun core task chk)
def execPut (core : Fin 256) (task : Fin 4) (chk : Check) (s : State) : Host.Outcome State Fault Refusal :=
  .next (s.issue 0x07 [0, 6] putCheck putRun core task chk)
def execStgIn (core : Fin 256) (task : Fin 4) (chk : Check) (s : State) : Host.Outcome State Fault Refusal :=
  .next (s.issue 0x08 [0, 6] stgInCheck stgInRun core task chk)
def execStgOut (core : Fin 256) (task : Fin 4) (chk : Check) (s : State) : Host.Outcome State Fault Refusal :=
  .next (s.issue 0x09 [0, 6] stgOutCheck stgOutRun core task chk)

end Sys2Proof.Machine
end

