-- ==== Sys2Proof/Machine/Sums.lean ====
section
/-!
DEFINITION. Sys2Proof/Machine/Sums.lean: exact sums, their write-back and rescale-and-repeat (R257-R267), shared by the drain and
by the commands of the matrix engines.
-/
namespace Sys2Proof.Machine

/-! ## Terms and exact sums (R258) -/

/-- One term: its value and its exponent, none for a zero or non-finite floating value, which bounds no shift. -/
structure Term where
  v : FVal
  e : Option Int
  deriving DecidableEq, Repr

def Term.int (code e : Int) : Term := { v := .ofDy ⟨code, e⟩, e := some e }

/-- Formats whose elements share the tile's exponent (R58, R61). -/
def fmtTileExp (f : Nat) : Bool := f == 0 || f == 1 || f == 10

/-- The formats of partial sums (R257). -/
def partialFmts : List Nat := [8, 9, 10, 11]

/-- Element n of a tile as a term; codes under a tile exponent are shifted right by `rep` (R264). -/
def Tile.term (t : Tile) (m : Mem) (base rep n : Nat) : Term :=
  let r := n / t.width
  let i := n % t.width
  let v := t.val m base r i
  if fmtTileExp t.fmt then Term.int (shrRne (signed (fmtBits t.fmt) (t.code m base r i)) rep) (t.se + rep)
  else if fmtBlock t.fmt then { v := v, e := some (engineExp t.fmt t.se (t.e8 m base r i)) }
  else { v := v, e := if v.isFinite && !(v.dy.isZero) then some v.dy.e else none }

/-- The exact sum of terms and how many were shifted to the limit of 56 (R258). A NaN, or infinities of both signs, give NaN. -/
def sumTerms (ts : List Term) : FVal × Nat :=
  let inf := fun n => ts.any fun t => t.v == .inf n
  if ts.any (fun t => t.v == .nan) || (inf true && inf false) then (.nan, 0)
  else if inf true then (.inf true, 0)
  else if inf false then (.inf false, 0)
  else
    match (ts.filterMap (·.e)).max? with
    | none => (.ofDy Dy.zero, 0)
    | some hi =>
      let lo := hi - 56
      let low := fun (t : Term) => match t.e with
        | some e => decide (e < lo)
        | none => false
      (.ofDy (ts.foldl (fun a t => a.add (if low t then ⟨t.v.dy.toScale lo, lo⟩ else t.v.dy)) ⟨0, hi⟩), (ts.filter low).length)

/-- One sum of a command: the exponent of its engine result and its repeats (SE_P and r of R259), and its terms. -/
structure SumIn where
  seP : Int
  rep : Nat
  terms : List Term
  deriving DecidableEq, Repr

/-! ## Write-back to ACC32 (R259, R264, R265) -/

/-- A write-back attempt: codes at SE_D, whether one does not fit, non-finite and shifted terms, and whether a repeat may raise SE_D. -/
structure Acc32 where
  codes : List Int
  se : Int
  excess : Bool
  mayRepeat : Bool
  nonfin : Nat
  align : Nat
  deriving DecidableEq, Repr

/-- The magnitude of a saturated element (R265). -/
def accLimit : Nat := 2147483647

/-- A sum fits 32 bits in two's complement (R60, R259). -/
def accFits (c : Int) : Bool := decide (-(accLimit : Int) - 1 ≤ c) && decide (c ≤ accLimit)

/-- An element as written: one out of range takes 2^31 - 1 or -(2^31 - 1) by its sign (R265). -/
def accHold (c : Int) : Int := if accFits c then c else clampQ accLimit c

/-- The exponent an operation would give alone (R259). -/
def ownExp (seB : Option Int) (x : SumIn) : Int :=
  (match seB with
   | some b => max x.seP b
   | none => x.seP) + x.rep

/-- The code of a sum at SE_D, formed at its own exponent first (R259). -/
def accCode (own se : Int) (v : FVal) : Int :=
  match v with
  | .nan => 0
  | .inf n => if n then -(accLimit : Int) else accLimit
  | .fin _ d => let o := min own se; shrRne (d.toScale o) (se - o).toNat

def acc32Of (seB : Option Int) (xs : List SumIn) : Acc32 :=
  let top := (xs.map (ownExp seB)).foldl max ((xs.head?.map (ownExp seB)).getD 0)
  let se := max (-128) (min top 127)
  let sums := xs.map fun x => (ownExp seB x, sumTerms x.terms)
  let codes := sums.map fun e => accCode e.1 se e.2.1
  { codes := codes, se := se, excess := decide (127 < top) || codes.any (fun c => !accFits c),
    mayRepeat := decide (top < 127), nonfin := (sums.filter fun e => !e.2.1.isFinite).length, align := (sums.map fun e => e.2.2).sum }

/-- Attempts from repeat r on; fuel is the repeats still allowed. The answer is the last repeat, its attempt and the terms shifted in
all attempts. -/
def accTry (seB : Option Int) (sums : Nat → List SumIn) : Nat → Nat → Nat → Nat × Acc32 × Nat
  | 0, r, al => let a := acc32Of seB (sums r); (r, a, al + a.align)
  | fuel + 1, r, al =>
    let a := acc32Of seB (sums r)
    if a.excess && a.mayRepeat then accTry seB sums fuel (r + 1) (al + a.align) else (r, a, al + a.align)

/-! ## Tiles of results -/

/-- The run's seed in force (R77). -/
def Ctx.seed (x : Ctx) : DWord :=
  match x.s.taskRun x.core x.task with
  | some r => r.seed
  | none => 0

/-- Rounding of element i of row r of a destination: stochastic under the command's sequence number, or to nearest (R77). -/
def Ctx.rnd (x : Ctx) (d : Tile) (sr : Bool) (r i : Nat) : Rnd :=
  if sr then .sr (srBits x.seed x.core x.t.srSeq (r * d.width + i)) else .rne

/-- Values written to a tile in row-major order (R69-R74, R78). -/
def Ctx.putVals (x : Ctx) (d : Tile) (sr : Bool) (vs : List FVal) (m : Mem) : Mem × QCount :=
  d.putRows x.base (x.rnd d sr) 0 (chunks d.width vs) m

/-- Codes written to a tile in row-major order. -/
def Tile.putCodes (d : Tile) (base : Nat) (codes : List Nat) (m : Mem) : Mem :=
  ((chunks d.width codes).mapIdx fun r cs => (r, cs)).foldl (fun m e => d.writeRow base e.1 e.2 m) m

/-- What a quantised tile says of the result (R74, R315, R365). -/
def QCount.grade (q : QCount) : Grade2 :=
  { klass := if q.nonfin = 0 then 0 else 2,
    events := (if q.sat = 0 then 0 else evSaturated) ||| (if q.nonfin = 0 then 0 else evNonfinite) }

def QCount.counts (q : QCount) : List (Nat × Nat) := [(cQuantSat, q.sat), (cNonfinite, q.nonfin)]

def Tile.cap (t : Tile) : Nat := t.rows * t.width

/-- Results fit a tile, or the command fails as a base/bound fault (R171, R216). -/
def holds (t : Tile) (n : Nat) : Option CErr := unlessOk (decide (n ≤ t.cap)) CErr.bound

/-- A tile's entry with a new SCALE_EXP (R229, R259). -/
def withScaleExp (h : DWord) (se : Int) : DWord := setFld h 56 49 (unsigned 8 se)

/-- The handle entry of D with SE_D. -/
def Ctx.setSe (x : Ctx) (se : Int) : Nat × DWord := (cwD x.w, withScaleExp (x.t.handles.getD (cwD x.w) 0) se)

/-- A command's operand holds no element that R68 forbids, or it fails with reason 8. -/
def Ctx.clean (x : Ctx) (t : Tile) : Option CErr :=
  (t.badElem x.mem x.base).map fun e => { CErr.format with reason := 8, row := e.1, pos := e.2 }

/-- The same of an operand that a handle field may leave out. -/
def Ctx.cleanOpt (x : Ctx) (h : Nat) : Option CErr := if h = 0xFF then none else x.clean (x.tile h)

/-- SE_B of R259: the exponent of an ACC32 partial. -/
def seOf (t : Option Tile) : Option Int :=
  match t with
  | some b => if b.fmt = 10 then some b.se else none
  | none => none

/-- Sums with the matching element of B added, read shifted by each sum's repeats where the destination is ACC32 (R257, R264). -/
def Ctx.addB (x : Ctx) (acc32 : Bool) (b : Option Tile) (xs : List SumIn) : List SumIn :=
  match b with
  | none => xs
  | some t => xs.mapIdx fun i s => { s with terms := s.terms ++ [t.term x.mem x.base (if acc32 then s.rep else 0) i] }

/-- Write the sums of a command to D: `sums r` are the sums after r repeats, r0 of them already made for a clip. `cycles` is the
latency that each repeat costs once more (R259-R266). -/
def Ctx.writeSums (x : Ctx) (d : Tile) (b : Option Tile) (sr : Bool) (r0 cycles : Nat) (sums : Nat → List SumIn) : SOut × Nat :=
  if d.fmt = 10 then
    let (r, a, al) := accTry (seOf b) (fun r => x.addB true b (sums r)) (3 - r0) r0 0
    let reps := r - r0
    let excess := a.excess || decide (0 < reps)
    let ev := (Grade2.when excess evOverflow).join ((Grade2.when a.excess evSaturated).join (Grade2.when (decide (0 < a.nonfin)) evNonfinite))
    ({ SOut.of (d.putCodes x.base (a.codes.map fun c => unsigned 32 (accHold c)) x.mem) (cycles * (1 + reps)) with
        handles := [x.setSe a.se], grade := ev, ops := 1 + reps,
        counts := [(cAccOverflow, b2n excess), (cAccRepeat, reps), (cAccSat, b2n a.excess), (cNonfinite, a.nonfin), (cExpAlign, al)] }, r)
  else
    let xs := (x.addB false b (sums r0)).map fun s => sumTerms s.terms
    let (m, q) := x.putVals d sr (xs.map (·.1)) x.mem
    ({ SOut.of m cycles with
        grade := q.grade, sr := sr, ops := 1, srElems := if sr then xs.length else 0,
        counts := q.counts ++ [(cExpAlign, (xs.map (·.2)).sum)] }, r0)

end Sys2Proof.Machine
end

