-- ==== Sys2Proof/Machine/Dcm.lean ====
section
/-!
DEFINITION. Sys2Proof/Machine/Dcm.lean: the commands of the digital macros: MM, DCM_COLWR, DCM_FILL, DCM_COPY (R164-R189, R247,
R248, R261).
-/
namespace Sys2Proof.Machine

/-- Issue to the matrix engines has stopped in the region: a droop (R388). -/
def Ctx.drooping (x : Ctx) : Bool := (x.s.region (regionOf x.core)).droop.isSome

/-- A head that waits: nothing changes. -/
def Out.wait (x : Ctx) : Out := { Out.of x.c 0 with stay := true }

/-- A DCM lost for good fails compute and writes; rows that a second loss of its group took cannot be read (R188, R189). -/
def dcmAlive (x : Ctx) (l first n : Nat) : Option CErr :=
  if x.c.rowsDead l first n then some (CErr.plain stDcmUncorrectable)
  else unlessOk (!(x.c.lostForGood l)) (CErr.plain stDcmLost)

/-! ## MM (R167-R171, R247) -/

def mmDcm (x : Ctx) : Nat := fld x.w 99 91
def mmRg (x : Ctx) : Nat := fld x.w 90 87
def mmG (x : Ctx) : Nat := fld x.w 86 83 + 1
def mmBand (x : Ctx) : Nat := fld x.w 82 80
def mmC (x : Ctx) : Nat := fld x.w 79 77 + 1
def mmW (x : Ctx) : Nat := if bitAt x.w 76 then 4 else 8
def mmA (x : Ctx) : Nat := fld x.w 75 72 + 1
def mmSplit (x : Ctx) : Bool := bitAt x.w 71
def mmBlk (x : Ctx) : Bool := bitAt x.w 70
def mmN (x : Ctx) : Nat := cwImm x.w

/-- Compute cycles (R168). -/
def mmCycles (x : Ctx) : Nat := mmN x * mmG x * mmC x * mmA x
/-- Sub-vectors of a vector, elements of a sub-vector, output columns, halves of a column (R170). -/
def mmSubs (x : Ctx) : Nat := if mmBlk x then 2 * mmC x else 1
def mmRows (x : Ctx) : Nat := 64 * mmG x
def mmCols (x : Ctx) : Nat := mmC x * 256 / mmW x
def mmHalves (x : Ctx) : Nat := if mmSplit x then 2 * mmG x else 1
/-- X is used: scales applied by the drain (R261, R170). -/
def mmScaled (x : Ctx) : Bool := (mmSplit x || mmBlk x) && cwX x.w != 0xFF
/-- Results of an output column. -/
def mmOuts (x : Ctx) : Nat := if mmScaled x then 1 else mmHalves x
def mmResults (x : Ctx) : Nat := mmN x * mmCols x * mmOuts x
/-- Elements of a vector. -/
def mmLen (x : Ctx) : Nat := mmSubs x * mmRows x

/-- Row-major place in A of element i of vector v (log entry 59, DEDUCED). -/
def mmPlace (x : Ctx) (v i : Nat) : Nat :=
  if x.a.fmt = 11 then v * mmLen x + i else v * ceilDiv (mmLen x) x.a.width * x.a.width + i

/-- The applied code of element i of vector v after r repeats: low a bits, then the shift (R170, R264). -/
def mmAct (x : Ctx) (r v i : Nat) : Int :=
  let p := mmPlace x v i
  let c := engineCode x.a.fmt (x.a.code x.mem x.base (p / x.a.width) (p % x.a.width))
  shrRne (signed (mmA x) (unsigned (mmA x) c)) r

/-- Weight of row i, output column j of the rectangle (R167). -/
def mmWeight (x : Ctx) (i j : Nat) : Int :=
  let w := mmW x
  let b := (x.c.dcm.byte (dcmAddr (mmDcm x) (64 * mmRg x + i) + 32 * mmBand x + w * j / 8)).toNat
  if w = 8 then signed 8 b else signed 4 (bitsOf b (4 * (j % 2) + 3) (4 * (j % 2)))

/-- Sub-vector that serves an output column (R170). -/
def mmSub (x : Ctx) (j : Nat) : Nat := if mmBlk x then mmW x * j / 128 else 0

/-- The sum of half h of output column j for vector v. -/
def mmSum (x : Ctx) (r v j h : Nat) : Int :=
  let len := if mmSplit x then 32 else mmRows x
  ((List.range len).map fun i => mmAct x r v (mmSub x j * mmRows x + h * len + i) * mmWeight x (h * len + i) j).sum

/-- Byte k of X, counted over its rows (R261). -/
def mmScaleByte (x : Ctx) (k : Nat) : Nat := (x.mem.byte (x.x.rowAddr x.base (k / 256) + k % 256)).toNat

/-- Number of X bytes that the operation uses. -/
def mmScaleCount (x : Ctx) : Nat := mmN x * mmSubs x * mmHalves x

/-- The exponent of half h of column j of vector v: the activation tile's, that of ACC16S, or the scale of X times U (R259, R261). -/
def mmExp (x : Ctx) (v j h : Nat) : Int :=
  if x.a.fmt = 11 then
    let p := mmPlace x v (mmSub x j * mmRows x)
    (x.a.e8 x.mem x.base (p / x.a.width) (p % x.a.width) : Int) - 127
  else if mmScaled x then
    (mmScaleByte x ((v * mmSubs x + mmSub x j) * mmHalves x + h) : Int) - 127 + (if fmtBlock x.a.fmt then fmtUnit x.a.fmt else x.a.se)
  else x.a.se

/-- SE_P: the smallest exponent that the command applies (R261). -/
def mmSeP (x : Ctx) : Int :=
  let es := (List.range (mmN x)).flatMap fun v => (List.range (mmCols x)).flatMap fun j =>
    tabulate (mmHalves x) fun h => mmExp x v j h
  es.foldl min (es.headD 0)

def mmSums (x : Ctx) (r : Nat) : List SumIn :=
  let se := mmSeP x
  let k := mmOuts x
  tabulate (mmResults x) fun e =>
    let v := e / k / mmCols x
    let j := e / k % mmCols x
    let term := fun h => Term.int (mmSum x r v j h) (mmExp x v j h + r)
    { seP := se, rep := r, terms := if mmScaled x then tabulate (mmHalves x) term else [term (e % k)] }

/-- Element formats of activations (R170). -/
def mmActFmts : List Nat := [0, 1, 2, 3, 4, 5, 6, 11]

/-- Fields and operand combinations of R168, R170 and R247. -/
def mmFields (x : Ctx) : Bool :=
  x.zero 69 64 && x.flag12Only && (cwFlag12 x.w == decide (x.d.fmt = 11))
  && decide (1 ≤ mmN x) && decide (mmN x ≤ 64) && decide (mmRg x + mmG x ≤ 16) && decide (mmBand x + mmC x ≤ 8)
  && decide (mmCycles x ≤ 4096) && !(mmBlk x && mmW x == 8)
  && (if x.a.fmt = 11 then mmBlk x && cwX x.w == 0xFF else !(fmtBlock x.a.fmt) || mmSplit x)

/-- Scale bytes that X must hold, none of them 0xFF (R68); the error record gives the byte's row and offset in X (log entry 108,
DESIGN CHOICE). -/
def mmScaleCheck (x : Ctx) : Option CErr :=
  if mmScaled x then
    firstErr
      [unlessOk (decide (mmScaleCount x ≤ 256 * x.x.rows)) CErr.bound,
       ((List.range (mmScaleCount x)).find? fun k => mmScaleByte x k == 0xFF).map fun k =>
         { CErr.format with reason := 8, row := k / 256, pos := k % 256 }]
  else none

def mmCheck (x : Ctx) : Option CErr :=
  firstErr
    [x.operandCheck [⟨cwD x.w, true, anyFmt⟩, ⟨cwA x.w, true, mmActFmts⟩, ⟨cwB x.w, false, partialFmts⟩,
        ⟨if mmSplit x || mmBlk x then cwX x.w else 0xFF, false, anyFmt⟩] (mmFields x),
     unlessOk (decide (mmPlace x (mmN x - 1) (mmLen x - 1) < x.a.cap)) CErr.bound,
     holds x.d (mmResults x), (if cwB x.w = 0xFF then none else holds x.b (mmResults x)),
     unlessOk (x.c.dcmUsable x.t (mmDcm x)) CErr.bound, mmScaleCheck x, x.clean x.a, x.cleanOpt (cwB x.w),
     dcmAlive x (mmDcm x) (64 * mmRg x) (64 * mmG x), x.spadOnly]

/-- Rows read through port B, a word of them corrected and written back (R182, R184). -/
def Ctx.scrubbed (x : Ctx) (l : Nat) (c : Core) : Core :=
  let d := c.dcmInfo l
  ((c.inc cSecdedCorrected 1).setDcmInfo l { d with transient := min 255 (d.transient + 1) }).inc cScrubWrite 1

/-- Counters of the residue check (R183, R184): that a repeat passes is counted, the third try is not a repeat that RESIDUE_REPEAT_PASS counts. -/
def mmResidue (x : Ctx) (c : Core) : Core :=
  match x.meets 1 with
  | .minor => (c.inc cResidueMismatch 1).inc cResidueRepeat 1
  | .major => c.inc cResidueMismatch 1
  | .fixed => x.scrubbed (mmDcm x) (c.inc cResidueMismatch 1)
  | _ => c

/-- Tries of an operation beyond its first (R184): one repeat; or two, the second after its rows were corrected through port B. -/
def mmTries (x : Ctx) : Nat := match x.meets 1 with
  | .minor => 1
  | .fixed => 2
  | .major => 2
  | _ => 0

/-- Operations and MACs of some passes of the command. -/
def mmCount (x : Ctx) (ops : Nat) (c : Core) : Core := (c.inc64 cComputeOps ops).inc64 cMacCount (ops * mmN x * mmRows x * mmCols x)

def mmRun (x : Ctx) : Out :=
  let l := mmDcm x
  if x.drooping || (x.c.dcmInfo l).lost then Out.wait x
  else if x.meets 1 = .major then { Out.of (mmResidue x (mmCount x 3 x.c)) 0 with stay := true, fx := [.loseDcm l] }
  else
    let n := mmCycles x
    let (o, r) := x.writeSums x.d (if cwB x.w = 0xFF then none else some x.b) (cwFlag12 x.w) 0 (n + 20) (mmSums x)
    let out := ({ o with ops := 0 } : SOut).toOut x.spadSide
    let ops := 1 + r + mmTries x
    let more := n * mmTries x + (if x.meets 1 = .fixed then 64 * mmG x else 0)
    let c := mmResidue x (mmCount x ops out.core)
    { out with
      core := c, hold := some ⟨[100 + l], n + 18, n * (1 + r) + more + 10, n, some (n * (1 + r) + more, cwMmRate x.w)⟩,
      cycles := out.cycles + more, fx := out.fx ++ if x.meets 1 = .minor ∨ x.meets 1 = .fixed then [.fault 12 (576 * x.core + l) 0] else [] }

/-! ## Storage operations (R176, R180, R248) -/

/-- A byte with bit i set to b. -/
def withBit (v : Byte) (i : Nat) (b : Bool) : Byte := setFld v i i (b2n b)

def colwrCol (x : Ctx) : Nat := fld x.w 90 80

def colwrCheck (x : Ctx) : Option CErr :=
  firstErr
    [x.operandCheck [⟨cwA x.w, true, [1, 7]⟩] (decide (cwImm x.w < 4) && x.noFlags && x.oneRow),
     unlessOk (x.c.dcmUsable x.t (dcmOf x)) CErr.bound,
     unlessOk (!(x.c.lostForGood (dcmOf x))) (CErr.plain stDcmLost), x.spadCheck]
def colwrRun (x : Ctx) : Out :=
  let codes := unpackBits 4 512 (x.a.row x.mem x.base 0)
  let at_ := fun r => dcmAddr (dcmOf x) r + colwrCol x / 8
  let m := (List.range 1024).foldl (fun m r =>
    if Nat.testBit (fld x.w 79 64) (r / 64) then
      m.put (at_ r) (withBit (x.c.dcmView.byte (at_ r)) (colwrCol x % 8) (Nat.testBit (codes.getD (r % 512) 0) (cwImm x.w)))
    else m) x.c.dcmView
  { Out.of ((x.c.dcmStore m).count x.spadCounts) 23 with fx := x.spadFx, writes := some (dcmOf x, 1, 12) }

/-- Row ranges of DCM_FILL and DCM_COPY. -/
def rowsOk (first n : Nat) : Bool := decide (1 ≤ n) && decide (n ≤ 1024) && decide (first + n ≤ 1024)

def dcmFillCheck (x : Ctx) : Option CErr :=
  firstErr
    [x.operandCheck [x.constRow] (x.zero 80 64 && x.noFlags && rowsOk (dcmRow x) (cwImm x.w) && x.oneRow),
     unlessOk (x.c.dcmUsable x.t (dcmOf x)) CErr.bound,
     unlessOk (!(x.c.lostForGood (dcmOf x))) (CErr.plain stDcmLost), x.spadCheck]
def dcmFillRun (x : Ctx) : Out :=
  let row := x.a.row x.mem x.base 0
  let m := (List.range (cwImm x.w)).foldl (fun m k => m.write (dcmAddr (dcmOf x) (dcmRow x + k)) row) x.c.dcmView
  { Out.of (((x.c.dcmStore m).rowsWritten (dcmOf x) (dcmRow x) (cwImm x.w)).count x.spadCounts) (11 + cwImm x.w) with fx := x.spadFx }

def dcmCopyCheck (x : Ctx) : Option CErr :=
  firstErr
    [x.operandCheck [] (x.zero 70 64 && x.noFlags && rowsOk (dcmRow x) (cwImm x.w) && rowsOk (fld x.w 80 71) (cwImm x.w)),
     unlessOk (x.c.dcmUsable x.t (dcmOf x)) CErr.bound,
     unlessOk (!(x.c.lostForGood (dcmOf x))) (CErr.plain stDcmLost),
     unlessOk (!(x.dcmUnreadable (dcmOf x) (dcmRow x) (cwImm x.w))) (CErr.plain stDcmUncorrectable)]
/-- As if every source row were read first (R220). -/
def dcmCopyRun (x : Ctx) : Out :=
  let n := cwImm x.w
  let bytes := x.c.dcmBytes (dcmOf x) (dcmRow x) (256 * n)
  let l := dcmOf x
  let c := (x.c.dcmStore (x.c.dcmView.write (dcmAddr l (fld x.w 80 71)) bytes)).rowsWritten l (fld x.w 80 71) n
  { Out.of (x.dcmReadCore l c) (11 + 2 * n + x.dcmReadDelay l) with fx := x.dcmReadFx l }

/-! ## Meanings -/

/-- MM (R167). -/
def execMm (core : Fin 256) (task : Fin 4) (chk : Check) (s : State) : Host.Outcome State Fault Refusal :=
  .next (s.issue 0x10 [0, 1] mmCheck mmRun core.val task.val chk)

/-- DCM_COLWR (R176). -/
def execDcmColwr (core : Fin 256) (task : Fin 4) (chk : Check) (s : State) : Host.Outcome State Fault Refusal :=
  .next (s.issue 0x11 [0] colwrCheck colwrRun core.val task.val chk)

/-- DCM_FILL (R176). -/
def execDcmFill (core : Fin 256) (task : Fin 4) (chk : Check) (s : State) : Host.Outcome State Fault Refusal :=
  .next (s.issue 0x12 [0] dcmFillCheck dcmFillRun core.val task.val chk)

/-- DCM_COPY (R176). -/
def execDcmCopy (core : Fin 256) (task : Fin 4) (chk : Check) (s : State) : Host.Outcome State Fault Refusal :=
  .next (s.issue 0x13 [4] dcmCopyCheck dcmCopyRun core.val task.val chk)

end Sys2Proof.Machine
end

