-- ==== Sys2Proof/Machine/Approx.lean ====
section
/-!
DEFINITION. Sys2Proof/Machine/Approx.lean: the fixed algorithms of R269. The manual gives no algorithm, only that it is fixed and
lies within 1 ulp of the exact function (2 ulp for SiLU and GELU). Each result here is the free candidate of Config limited to
that bound around a high-precision value of the function; a candidate outside the bound is replaced by the nearest FP32 value
(log entry 21, DEDUCED). Fixed-point values carry 480 fraction bits.
-/
namespace Sys2Proof.Machine

/-- Fraction bits of the fixed-point work. -/
def fxBits : Nat := 480

/-- ln 2 in fixed point. -/
def fxLn2 : Int := 2163831206068626582013545711676841861948052748333448460576126764197453058704984291728498395082427418541825153072586431322543340688239788857703209

/-- 2 / sqrt pi in fixed point. -/
def fxTwoOverSqrtPi : Int := 3522516029087183139922121079023241639586980889640445202788192987909899266991504962563905386245671331040827478377182480579778740105347511209615118

/-- 1 / sqrt (2 pi) in fixed point. -/
def fxInvSqrt2Pi : Int := 1245397485502928541658155156225473024843986000957105412180301684993377290312668003525860011200882983847153563898267903571504909372413016319891764

/-- 1 / sqrt 2 in fixed point. -/
def fxInvSqrt2 : Int := 2207409569087712263416621474468186325413301061846159832503749834152556095150797819903924997990816070932646535945632444374279192937128550990120758

/-- Fixed-point product. -/
def fxMul (x y : Int) : Int := (x * y) / pow2 fxBits

/-- The fixed-point form of an exact value, rounded down. -/
def fxOf (v : Dy) : Int := Dy.floorScale v (-(fxBits : Int))

/-- Sum of r^n / n! from the given term on. -/
def expTaylor : Nat → Nat → Int → Int → Int → Int
  | 0, _, _, _, acc => acc
  | fuel + 1, n, r, t, acc =>
    let t' := fxMul t r / (n + 1 : Nat)
    expTaylor fuel (n + 1) r t' (acc + t')

/-- exp of a fixed-point number, as an exact value close to it. -/
def expFx (x : Int) : Dy :=
  let k := x / fxLn2
  let r := x - k * fxLn2
  ⟨expTaylor 110 0 r (pow2 fxBits) (pow2 fxBits), k - fxBits⟩

/-- exp of an exact value of magnitude at most 200. -/
def expDy (v : Dy) : Dy := expFx (fxOf v)

/-- The quotient u / v of positive values to 200 significant bits. -/
def dyDiv (u v : Dy) : Dy :=
  if v.m = 0 then Dy.zero
  else
    let s := Nat.log2 v.m.natAbs + 200
    ⟨(u.m * pow2 s) / v.m, u.e - v.e - s⟩

/-- 1 / (1 + exp (-x)). -/
def sigmoidDy (v : Dy) : Dy :=
  let ex := expDy v
  dyDiv ex (Dy.add (Dy.ofInt 1) ex)

/-- Alternating series of erf: term is (-1)^n x^(2n+1) / n!, the sum takes term / (2n+1). -/
def erfTaylor : Nat → Nat → Int → Int → Int → Int
  | 0, _, _, _, acc => acc
  | fuel + 1, n, x2, t, acc =>
    let t' := -(fxMul t x2) / (n + 1 : Nat)
    erfTaylor fuel (n + 1) x2 t' (acc + t' / (2 * n + 3 : Nat))

/-- erf of a fixed-point number of magnitude below 11, in fixed point. -/
def erfFx (x : Int) : Int := fxMul fxTwoOverSqrtPi (erfTaylor 700 0 (fxMul x x) x x)

/-- erf of an exact value; beyond 11 it lies within 2^-170 of its limit. -/
def erfDy (v : Dy) : Dy :=
  if Dy.le (Dy.ofInt 11) v then Dy.ofInt 1
  else if Dy.le v (Dy.ofInt (-11)) then Dy.ofInt (-1)
  else ⟨erfFx (fxOf v), -(fxBits : Int)⟩

/-- Phi(x) = (1 + erf(x / sqrt 2)) / 2. -/
def phiDy (v : Dy) : Dy :=
  (Dy.add (Dy.ofInt 1) (erfDy (Dy.mul v ⟨fxInvSqrt2, -(fxBits : Int)⟩))).scale (-1)

/-- Whether an FP32 pattern lies within k ulp of an exact value, with a slack far below one ulp for the working precision. -/
def withinUlp (k : Nat) (c : Word) (v : Dy) : Bool :=
  match f32val c with
  | .fin _ w =>
    let d := (Dy.sub w v).abs
    Dy.le d ⟨(k * 2 ^ 20 + 1 : Nat), ulpExp v - 20⟩
  | _ => false

/-- The candidate where it lies within k ulp of v, otherwise the nearest FP32 value. -/
def limitUlp (k : Nat) (c : Word) (v : Dy) : Word :=
  if withinUlp k c v then c else f32ofDy false v

/-- exp (R269, R273, R285). -/
def fexp (x : Word) : Word :=
  match f32val x with
  | .nan => qnan
  | .inf neg => if neg then 0#32 else f32inf false
  | .fin _ v =>
    if Dy.lt (Dy.ofInt 89) v then f32inf false
    else limitUlp 1 (Config.expBits x) (expDy (Dy.max v (Dy.ofInt (-120))))

/-- The logistic function (R269). -/
def fsigmoid (x : Word) : Word :=
  match f32val x with
  | .nan => qnan
  | .inf neg => if neg then 0#32 else 0x3F800000#32
  | .fin _ v =>
    let w := if Dy.lt (Dy.ofInt 120) v then Dy.ofInt 120 else Dy.max v (Dy.ofInt (-120))
    limitUlp 1 (Config.sigmoidBits x) (sigmoidDy w)

/-- erf (R269). -/
def ferf (x : Word) : Word :=
  match f32val x with
  | .nan => qnan
  | .inf neg => if neg then 0xBF800000#32 else 0x3F800000#32
  | .fin _ v => if v.m = 0 then x else limitUlp 1 (Config.erfBits x) (erfDy v)

/-- 1 / x (R269). -/
def frecip (x : Word) : Word :=
  match f32val x with
  | .nan => qnan
  | .inf neg => f32zero neg
  | .fin neg v =>
    if v.m = 0 then f32inf neg
    else
      let exact := fdiv 0x3F800000#32 x
      match f32val exact with
      | .fin _ _ =>
        let q := dyDiv (Dy.ofInt 1) v.abs
        limitUlp 1 (Config.recipBits x) (if neg then q.neg else q)
      | _ => exact

/-- 1 / sqrt x (R269). -/
def frsqrt (x : Word) : Word :=
  match f32val x with
  | .nan => qnan
  | .inf neg => if neg then qnan else 0#32
  | .fin neg v =>
    if v.m = 0 then f32inf neg
    else if neg then qnan
    else limitUlp 1 (Config.rsqrtBits x) (dyDiv (Dy.ofInt 1) (dySqrt v))

/-- SiLU: x * sigma(x) within 2 ulp; the limits at the infinities are those of R268. Below -120 the exact value is closer to zero
than its value there, which lies below 2^-160, so that value stands for it. -/
def fsilu (x : Word) : Word :=
  match f32val x with
  | .nan => qnan
  | .inf neg => if neg then f32zero true else f32inf false
  | .fin _ v =>
    if v.m = 0 then x
    else
      let lo := Dy.max v (Dy.ofInt (-120))
      limitUlp 2 (Config.siluBits x) (Dy.mul lo (sigmoidDy (if Dy.lt (Dy.ofInt 120) v then Dy.ofInt 120 else lo)))

/-- GELU: 0.5 * x * (1 + erf(x / sqrt 2)) within 2 ulp; the limits at the infinities are those of R268. Where the product is too
small for the working precision a value of its sign below 2^-200 stands for it. -/
def fgelu (x : Word) : Word :=
  match f32val x with
  | .nan => qnan
  | .inf neg => if neg then f32zero true else f32inf false
  | .fin neg v =>
    if v.m = 0 then x
    else
      let p := Dy.mul v (phiDy v)
      limitUlp 2 (Config.geluBits x) (if p.m = 0 then ⟨if neg then -1 else 1, -300⟩ else p)

/-- 1 / sqrt (2 pi) as FP32. -/
def f32InvSqrt2Pi : Word := f32ofDy false ⟨fxInvSqrt2Pi, -(fxBits : Int)⟩

/-- 1 / sqrt 2 as FP32. -/
def f32InvSqrt2 : Word := f32ofDy false ⟨fxInvSqrt2, -(fxBits : Int)⟩

end Sys2Proof.Machine
end

