-- ==== Sys2Proof/Machine/Drain.lean ====
section
/-!
DEFINITION. Sys2Proof/Machine/Drain.lean: the drain commands that form, convert and scale tiles: ACC, QUANT, ACT, BSCALE, VALIGN,
XDOT (R252, R256-R270).
-/
namespace Sys2Proof.Machine

def Ctx.opdD (x : Ctx) (fmts : List Nat) : Opd := ⟨cwD x.w, true, fmts⟩
def Ctx.opdA (x : Ctx) (fmts : List Nat) : Opd := ⟨cwA x.w, true, fmts⟩
def Ctx.opdB (x : Ctx) (req : Bool) (fmts : List Nat) : Opd := ⟨cwB x.w, req, fmts⟩
def Ctx.opdX (x : Ctx) (req : Bool) (fmts : List Nat) : Opd := ⟨cwX x.w, req, fmts⟩

/-- Every format but ACC16S, which is written only with SR (R266). -/
def plainFmt : List Nat := [0, 1, 2, 3, 4, 5, 6, 7, 8, 9, 10]

/-- The tile a handle field names, none for 0xFF. -/
def Ctx.opt (x : Ctx) (h : Nat) : Option Tile := if h = 0xFF then none else some (x.tile h)

/-- Elements 0..n-1 of a tile, and the same converted to FP32 (R268). -/
def Ctx.vals (x : Ctx) (t : Tile) (n : Nat) : List FVal := tabulate n fun i => t.valN x.mem x.base i
def Ctx.f32s (x : Ctx) (t : Tile) (n : Nat) : List Word := (x.vals t n).map toF32

/-- The code of a value in an ACC32 tile of exponent se. -/
def acc32Code (rd : Rnd) (se : Int) (v : FVal) : Int :=
  match v with
  | .nan => 0
  | .inf n => if n then -(accLimit : Int) else accLimit
  | .fin _ d => roundTo rd d se

/-- The first repeat of at most `lim` whose codes fit, else `lim`. -/
def firstFit (lim : Nat) (fits : Nat → Bool) : Nat := ((List.range lim).find? fits).getD lim

/-- Values that a command which is no sum writes to an ACC32 tile: codes in units of the handle's exponent; an overflow raises that
exponent by each repeat, at most 3 and not above 127, then saturates (R60, R264, R265; log entry 106, DEDUCED). -/
def Ctx.quantAcc (x : Ctx) (d : Tile) (sr : Bool) (vs : List FVal) (cycles : Nat) : SOut :=
  let codes := fun (r : Nat) => vs.mapIdx fun i v => acc32Code (x.rnd d sr (i / d.width) (i % d.width)) (d.se + r) v
  let fits := fun (r : Nat) => (codes r).all accFits
  let r := firstFit (min 3 (127 - d.se).toNat) fits
  let nf := (vs.filter fun v => !v.isFinite).length
  let ovf := !(fits 0)
  let sat := !(fits r)
  { SOut.of (d.putCodes x.base ((codes r).map fun c => unsigned 32 (accHold c)) x.mem) (cycles * (1 + r)) with
    handles := [x.setSe (d.se + r)], sr := sr, ops := 1 + r, srElems := if sr then vs.length else 0,
    grade := (Grade2.when ovf evOverflow).join ((Grade2.when sat evSaturated).join (Grade2.when (decide (0 < nf)) evNonfinite)),
    counts := [(cAccOverflow, b2n ovf), (cAccRepeat, r), (cAccSat, b2n sat), (cNonfinite, nf)] }

/-- The end of a drain or row-engine command that quantises values into D. -/
def Ctx.quantOut (x : Ctx) (d : Tile) (sr : Bool) (vs : List FVal) (cycles : Nat) : SOut :=
  if d.fmt = 10 then x.quantAcc d sr vs cycles
  else
    let (m, q) := x.putVals d sr vs x.mem
    { SOut.of m cycles with grade := q.grade, sr := sr, ops := 1, counts := q.counts,
                            srElems := if sr && d.fmt != 9 then vs.length else 0 }

def ofF32s (l : List Word) : List FVal := l.map f32val

/-! ## ACC (R257-R259, R264) -/

def accCheck (x : Ctx) : Option CErr :=
  firstErr
    [x.operandCheck [x.opdD partialFmts, x.opdA partialFmts, x.opdB true partialFmts]
       (x.zero 99 64 && x.noImm && x.flag12Only && (cwFlag12 x.w == decide (x.d.fmt = 11))),
     holds x.d x.a.cap, holds x.b x.a.cap, x.clean x.a, x.clean x.b]

/-- SE_P of a sum of two tiles (log entry 54, DESIGN CHOICE). -/
def sumExp (x : Ctx) (a b : Tile) : Int :=
  if a.fmt = 10 then a.se else if b.fmt = 10 then b.se else freeIn (x.s.free 0) (-128) 127

def accSums (x : Ctx) (r : Nat) : List SumIn :=
  tabulate x.a.cap fun i => { seP := sumExp x x.a x.b, rep := r, terms := [x.a.term x.mem x.base (if x.d.fmt = 10 then r else 0) i] }

def accRun (x : Ctx) : SOut := (x.writeSums x.d (some x.b) (cwFlag12 x.w) 0 (15 + x.d.rows) (accSums x)).1

/-! ## QUANT (R70-R75) -/

def quantCheck (x : Ctx) : Option CErr :=
  firstErr
    [x.operandCheck [x.opdD anyFmt, x.opdA anyFmt, x.opdX false [8]]
       (x.zero 99 64 && x.noImm && x.flag12Only && (!(cwFlag12 x.w) || x.t.klass == 4) && (cwFlag12 x.w || x.d.fmt != 11)),
     holds x.d x.a.cap, (x.opt (cwX x.w)).bind fun s => unlessOk (decide (s.cap ≤ x.a.cap) && x.a.cap % s.cap == 0) CErr.format,
     x.clean x.a]

/-- Column scaling (R75). The scale tile holds one element per output column, so a result has as many columns as it has elements, and
element i of A, vectors one after another, is of column i modulo that number (log entry 107, DEDUCED). -/
def scaleCols (x : Ctx) (s : Tile) (vs : List FVal) : List FVal :=
  vs.mapIdx fun i v => f32val (fmul (toF32 v) (toF32 (s.valN x.mem x.base (i % s.cap))))

def quantRun (x : Ctx) : SOut :=
  let vs := x.vals x.a x.a.cap
  let vs := match x.opt (cwX x.w) with
    | some s => scaleCols x s vs
    | none => vs
  x.quantOut x.d (cwFlag12 x.w) vs (15 + ceilDiv x.a.cap 64)

/-! ## ACT (R268-R270) -/

def actFn (x : Ctx) : Nat := fld x.w 99 96
def actKeep (x : Ctx) : Bool := bitAt x.w 95
/-- The clamp bound's magnitude in FP32. -/
def actBound (x : Ctx) : Word := f32abs (f32ofBf16 (BitVec.ofNat 16 (fld x.w 79 64)))
/-- Functions that keep one bit per element. -/
def actBits (f : Nat) : Bool := f == 0 || f == 3
def actGated (f : Nat) : Bool := f == 4 || f == 5

def clampF32 (b v : Word) : Word := if f32isNan v then qnan else if flt v (f32neg b) then f32neg b else if flt b v then b else v
def reluF32 (v : Word) : Word := if f32isNan v then qnan else if flt 0#32 v then v else 0#32

/-- One result of ACT: function, clamp bound, input, gate. -/
def actVal (f : Nat) (b v g : Word) : Word :=
  match f with
  | 0 => reluF32 v
  | 1 => fsilu v
  | 2 => fgelu v
  | 3 => clampF32 b v
  | 4 => fmul v (fsilu g)
  | _ => fmul v (fgelu g)

/-- The bit kept for an element. -/
def actBit (f : Nat) (b v : Word) : Bool := if f = 0 then flt 0#32 v else flt (f32neg b) v && flt v b

/-- Bits packed with bit i mod 8 of byte i div 8 (R270). -/
def packBools (l : List Bool) : List Nat := (chunks 8 l).map fun c => (c.mapIdx fun i b => b2n b * 2 ^ i).sum

def actCheck (x : Ctx) : Option CErr :=
  let f := actFn x
  let keep := actKeep x
  firstErr
    [x.operandCheck [x.opdD plainFmt, x.opdA anyFmt, ⟨if actGated f then cwB x.w else 0xFF, actGated f, anyFmt⟩,
        ⟨if keep then cwX x.w else 0xFF, keep, if actBits f then [0] else [2]⟩]
       (decide (f ≤ 5) && x.zero 94 80 && x.noImm && x.noFlags && !(f == 3 && f32isNan (actBound x))),
     holds x.d x.a.cap, (if actGated f then holds x.b x.a.cap else none),
     (if keep then holds x.x (if actBits f then ceilDiv x.a.cap 8 else x.a.cap) else none),
     x.clean x.a, (if actGated f then x.clean x.b else none)]

def actRun (x : Ctx) : SOut :=
  let f := actFn x
  let n := x.a.cap
  let b := actBound x
  let vs := x.f32s x.a n
  let gs := if actGated f then x.f32s x.b n else vs
  let o := x.quantOut x.d false (ofF32s ((vs.zip gs).map fun e => actVal f b e.1 e.2)) (15 + ceilDiv n (if actBits f then 64 else 32))
  if !(actKeep x) then o
  else if actBits f then { o with mem := x.x.putCodes x.base (packBools (vs.map (actBit f b))) o.mem }
  else
    let (m, q) := x.putVals x.x false (ofF32s gs) o.mem
    { o with mem := m, grade := o.grade.join q.grade, counts := o.counts ++ q.counts }

/-! ## BSCALE (R262) and VALIGN (R196, R263) -/

/-- Byte b of token t's scales in a scale frame (R193). -/
def scaleByte (x : Ctx) (t b : Nat) : Nat := (x.mem.byte (x.x.rowAddr x.base (t / 8) + 32 * (t % 8) + b)).toNat

/-- A scale of 0xFF among the bytes of the 64 tokens that a command reads (R68). The error record gives the byte's row and offset in
X (log entry 108, DESIGN CHOICE: R68 and R88 name no row and position of a scale operand). -/
def badScale (x : Ctx) (b0 k : Nat) : Option CErr :=
  ((List.range (64 * k)).find? fun i => scaleByte x (i / k) (b0 + i % k) == 0xFF).map fun i =>
    { CErr.format with reason := 8, row := i / k / 8, pos := 32 * (i / k % 8) + b0 + i % k }

def bscaleHead (x : Ctx) : Nat := fld x.w 95 94

def bscaleCheck (x : Ctx) : Option CErr :=
  firstErr
    [x.operandCheck [x.opdD [9], x.opdA [10], x.opdX true anyFmt]
       (x.zero 99 96 && x.zero 93 64 && x.noImm && x.noFlags && x.a.cap % 256 == 0),
     unlessOk (decide (8 ≤ x.x.rows)) CErr.bound, holds x.d (x.a.cap / 4), badScale x (4 * bscaleHead x) 4]

def bscaleRun (x : Ctx) : SOut :=
  let h := bscaleHead x
  (x.writeSums x.d none false 0 (15 + ceilDiv x.a.cap 64) fun _ =>
    tabulate (x.a.cap / 4) fun i =>
      { seP := x.a.se, rep := 0,
        terms := tabulate 4 fun b =>
          Term.int (signed 32 (x.a.code x.mem x.base ((4 * i + b) / x.a.width) ((4 * i + b) % x.a.width)))
            (x.a.se + (scaleByte x (i % 64) (4 * h + b) : Int) - 127) }).1

def valignK (x : Ctx) : Nat := fld x.w 99 96 + 1
def valignB0 (x : Ctx) : Nat := fld x.w 95 92

/-- Exponents of the 64 tokens for a value block, its base and its widest difference. -/
def valignExps (x : Ctx) (b : Nat) : List Nat := tabulate 64 fun t => scaleByte x t (16 + b)
def valignMax (x : Ctx) (b : Nat) : Nat := (valignExps x b).foldl max 0
def valignBase (x : Ctx) (b : Nat) : Nat := max ((valignExps x b).foldl min 255) (valignMax x b - 8)

/-- Strip code of a block (R263). -/
def valignCode (x : Ctx) (b : Nat) : Int := x.a.se + valignBase x b

def valignCheck (x : Ctx) : Option CErr :=
  let k := valignK x
  firstErr
    [x.operandCheck [x.opdD [11], x.opdA [0], x.opdX true anyFmt, x.opdB false anyFmt]
       (x.zero 91 64 && x.noImm && x.noFlags && decide (valignB0 x + k ≤ 16) && x.a.cap % 64 == 0),
     unlessOk (decide (8 ≤ x.x.rows)) CErr.bound, holds x.d (x.a.cap * k), badScale x (16 + valignB0 x) k,
     unlessOk ((List.range k).all fun i => decide (0 ≤ valignCode x (valignB0 x + i)) && decide (valignCode x (valignB0 x + i) ≤ 0xFE)) CErr.format]

/-- An aligned activation and whether its shift rounded (R196). -/
def valignAct (p : Int) (sh : Int) : Int × Nat :=
  if 0 ≤ sh then (p * pow2 sh.toNat, 0)
  else
    let a := shrRne p (-sh).toNat
    (a, if a * pow2 (-sh).toNat = p then 0 else 1)

def valignRun (x : Ctx) : SOut :=
  let k := valignK x
  let b0 := valignB0 x
  let acts := tabulate (x.a.cap * k) fun e =>
    let t := e % 64
    let i := e / 64 % k
    let n := 64 * (e / 64 / k) + t
    valignAct (signed 8 (x.a.code x.mem x.base (n / x.a.width) (n % x.a.width)))
      ((scaleByte x t (16 + b0 + i) : Int) - valignBase x (b0 + i))
  let m := x.d.putCodes x.base (acts.map fun a => unsigned 16 a.1) x.mem
  let rows := ceilDiv (x.a.cap * k) x.d.width
  let m := (List.range rows).foldl (fun m r =>
    x.d.writeStrip x.base r (tabulate (ceilDiv x.d.width 32) fun j =>
      (valignCode x (b0 + (r * x.d.width + 32 * j) / 64 % k)).toNat) m) m
  let m := match x.opt (cwB x.w) with
    | none => m
    | some b =>
      let a := 8 + ((List.range k).map fun i => valignMax x (b0 + i) - valignBase x (b0 + i)).foldl max 0
      let bytes := (a :: (List.range k).map fun i => valignBase x (b0 + i)).map fun n => BitVec.ofNat 8 n
      m.write (b.rowAddr x.base 0) (bytes ++ List.replicate (255 - k) 0)
  { SOut.of m (23 + ceilDiv x.a.cap 64) with ops := 1, counts := [(cValignCount, (acts.map (·.2)).sum)] }

/-! ## XDOT (R260) -/

/-- Rows of a vector of 1,024 elements. -/
def vecRows (t : Tile) : Nat := if t.fmt = 1 then 2 else 4

/-- A signed integer code of a tile, element n in row-major order. -/
def Tile.intN (t : Tile) (m : Mem) (base n : Nat) : Int :=
  signed (fmtBits t.fmt) (t.code m base (n / t.width) (n % t.width))

def xdotCheck (x : Ctx) : Option CErr :=
  firstErr
    [x.operandCheck [x.opdD [10], x.opdA [0, 1], x.opdB true [0, 1]]
       (x.zero 99 64 && x.noImm && x.noFlags && x.a.width == fmtCap x.a.fmt && x.a.rows % vecRows x.a == 0),
     holds x.b 1024, holds x.d (x.a.cap / 1024)]

def xdotRun (x : Ctx) : SOut :=
  let n := x.a.cap / 1024
  (x.writeSums x.d none false 0 (15 + 4 * n) fun r =>
    tabulate n fun v =>
      { seP := x.a.se + x.b.se, rep := r,
        terms := [Term.int ((List.range 1024).map fun i =>
          x.a.intN x.mem x.base (1024 * v + i) * x.b.intN x.mem x.base i).sum (x.a.se + x.b.se)] }).1

/-! ## Meanings -/

/-- ACC (R258). -/
def execAcc (core : Fin 256) (task : Fin 4) (chk : Check) (s : State) : Host.Outcome State Fault Refusal :=
  .next (s.issueSpad 0x30 accCheck accRun core.val task.val chk)

/-- QUANT (R70-R75). -/
def execQuant (core : Fin 256) (task : Fin 4) (chk : Check) (s : State) : Host.Outcome State Fault Refusal :=
  .next (s.issueSpad 0x31 quantCheck quantRun core.val task.val chk)

/-- ACT (R268). -/
def execAct (core : Fin 256) (task : Fin 4) (chk : Check) (s : State) : Host.Outcome State Fault Refusal :=
  .next (s.issueSpad 0x32 actCheck actRun core.val task.val chk)

/-- BSCALE (R262). -/
def execBscale (core : Fin 256) (task : Fin 4) (chk : Check) (s : State) : Host.Outcome State Fault Refusal :=
  .next (s.issueSpad 0x3B bscaleCheck bscaleRun core.val task.val chk)

/-- VALIGN (R263). -/
def execValign (core : Fin 256) (task : Fin 4) (chk : Check) (s : State) : Host.Outcome State Fault Refusal :=
  .next (s.issueSpad 0x3C valignCheck valignRun core.val task.val chk)

/-- XDOT (R260). -/
def execXdot (core : Fin 256) (task : Fin 4) (chk : Check) (s : State) : Host.Outcome State Fault Refusal :=
  .next (s.issueSpad 0x3D xdotCheck xdotRun core.val task.val chk)

end Sys2Proof.Machine
end

