-- ==== Sys2Proof/Machine/Row.lean ====
section
/-!
DEFINITION. Sys2Proof/Machine/Row.lean: the row engine, selection lists, sampling and the combines of the fixed tree (R252, R254,
R271-R285).
-/
namespace Sys2Proof.Machine

/-! ## Vector statistics (R271) -/

/-- The sum of a vector in the fixed order: 32 lanes, then pairs (R271). -/
def pairUp : List Word → List Word
  | a :: b :: l => fadd a b :: pairUp l
  | l => l

/-- Pairwise combination of the lane totals; the first argument is the number of levels. -/
def combineLanes : Nat → List Word → List Word
  | 0, l => l
  | n + 1, l => combineLanes n (pairUp l)

def laneTotal (vs : List Word) (l : Nat) : Word :=
  match (List.range (ceilDiv vs.length 32)).filterMap fun k => vs[32 * k + l]? with
  | [] => 0#32
  | v :: rest => rest.foldl fadd v

def laneSum (vs : List Word) : Word := (combineLanes 5 (tabulate 32 (laneTotal vs))).headD 0#32

/-! ## Side-memory records (R274, R275) -/

def sideOf (x : Ctx) : Nat := fld x.w 99 90

/-- The record belongs to another partition (R275). -/
def sideCheck (x : Ctx) : Option CErr :=
  let k := x.c.side.byte (64 * sideOf x)
  let o := x.c.side.byte (64 * sideOf x + 1)
  unlessOk (k == 0 || fld o 1 0 == x.t.part) (CErr.plain stAccessDenied)

/-- A whole record without history. -/
def sideRecord (x : Ctx) (kind count : Nat) (s0 s1 : Word) : List Byte :=
  [BitVec.ofNat 8 kind, BitVec.ofNat 8 (x.t.part % 4 + 4 * x.task), 0, 0] ++ toLe 4 count ++ toLe 4 s0.toNat ++ toLe 4 s1.toNat
  ++ List.replicate 48 0

/-! ## RMSNORM and LAYERNORM (R272) -/

def normEps (x : Ctx) : Word := f32ofBf16 (BitVec.ofNat 16 (fld x.w 79 64))

/-- Checks of both; `bias` asks for B. -/
def normCheck (bias : Bool) (x : Ctx) : Option CErr :=
  firstErr
    [x.operandCheck [x.opdD plainFmt, x.opdA anyFmt, x.opdX true anyFmt, ⟨if bias then cwB x.w else 0xFF, bias, anyFmt⟩]
       (x.zero 89 80 && x.noImm && x.noFlags),
     holds x.d x.a.cap, holds x.x x.a.cap, (if bias then holds x.b x.a.cap else none), sideCheck x,
     x.clean x.a, x.clean x.x, (if bias then x.clean x.b else none)]

/-- 1 / sqrt (mean of squares + epsilon). -/
def invRms (vs : List Word) (eps : Word) : Word :=
  frsqrt (fadd (fdiv (laneSum (vs.map fun v => fmul v v)) (f32ofInt vs.length)) eps)

def normCycles (x : Ctx) : Nat := 24 + 2 * ceilDiv x.a.cap 32

def rmsnormRun (x : Ctx) : SOut :=
  let n := x.a.cap
  let vs := x.f32s x.a n
  let r := invRms vs (normEps x)
  let ys := (vs.zip (x.f32s x.x n)).map fun e => fmul (fmul e.1 r) e.2
  { x.quantOut x.d false (ofF32s ys) (normCycles x) with recs := [(sideOf x, sideRecord x 1 n 0 r)] }

def layernormRun (x : Ctx) : SOut :=
  let n := x.a.cap
  let vs := x.f32s x.a n
  let mu := fdiv (laneSum vs) (f32ofInt n)
  let ds := vs.map fun v => fsub v mu
  let r := invRms ds (normEps x)
  let ys := (ds.zip ((x.f32s x.x n).zip (x.f32s x.b n))).map fun e => fadd (fmul (fmul e.1 r) e.2.1) e.2.2
  { x.quantOut x.d false (ofF32s ys) (normCycles x) with recs := [(sideOf x, sideRecord x 2 n mu r)] }

/-! ## SOFTMAX (R273) -/

/-- The largest of a list of numbers, minus infinity where it is empty. -/
def maxF32 (vs : List Word) : Word := vs.foldl (fun a v => if flt a v then v else a) (f32inf true)

/-- m, 1/s and the outputs of the valid elements. -/
def softmaxOf (vs : List Word) : Word × Word × List Word :=
  let m := maxF32 vs
  if vs.any f32isNan then (qnan, qnan, vs.map fun _ => qnan)
  else if m = f32inf true then (f32inf true, 0#32, vs.map fun _ => 0#32)
  else
    let es := vs.map fun v => fexp (fsub v m)
    let inv := frecip (laneSum es)
    (m, inv, es.map fun e => fmul e inv)

def softmaxCheck (x : Ctx) : Option CErr :=
  firstErr
    [x.operandCheck [x.opdD plainFmt, x.opdA anyFmt] (x.zero 73 64 && x.noImm && x.noFlags),
     holds x.d x.a.cap, sideCheck x, x.clean x.a]

def softmaxRun (x : Ctx) : SOut :=
  let n := x.a.cap
  let v := min (fld x.w 89 74) n
  let (m, inv, ys) := softmaxOf (x.f32s x.a v)
  { x.quantOut x.d false (ofF32s (ys ++ List.replicate (n - v) 0#32)) (30 + 3 * ceilDiv n 32) with
    recs := [(sideOf x, sideRecord x 3 v m inv)] }

/-! ## Lists (R276, R277) -/

/-- A list entry: key and index as stored. -/
structure LEnt where
  key : Word
  idx : Word
  deriving DecidableEq, Repr

def LEnt.unused : LEnt := { key := 0xFFFFFFFF#32, idx := 0xFFFFFFFF#32 }

/-- Key order of a list format: ACC32 integers, or FP32 values. -/
def keyLess (fmt : Nat) (a b : Word) : Bool := if fmt = 10 then decide (a.toInt < b.toInt) else flt a b

/-- Entry a stands before entry b: larger key, then lower index (R276). -/
def LEnt.before (fmt : Nat) (a b : LEnt) : Bool :=
  keyLess fmt b.key a.key || (!(keyLess fmt a.key b.key) && decide (a.idx.toNat < b.idx.toNat))

/-- Insert after every entry that the new one does not stand before. -/
def insertEnt (fmt : Nat) (e : LEnt) : List LEnt → List LEnt
  | [] => [e]
  | f :: l => if e.before fmt f then e :: f :: l else f :: insertEnt fmt e l

/-- The k best entries (R279, R281). -/
def bestK (fmt k : Nat) (es : List LEnt) : List LEnt := es.foldl (fun l e => (insertEnt fmt e l).take k) []

/-- Entries that a list tile holds. -/
def Tile.entries (t : Tile) : Nat := t.cap / 2

/-- Entry j of a list tile, none where it is unused or its key is NaN. -/
def Tile.entry (t : Tile) (m : Mem) (base j : Nat) : Option LEnt :=
  let w := fun n => BitVec.ofNat 32 (t.code m base (n / t.width) (n % t.width))
  let e : LEnt := { key := w (2 * j), idx := w (2 * j + 1) }
  if e.idx = 0xFFFFFFFF#32 ∨ (t.fmt = 9 ∧ f32isNan e.key = true) then none else some e

/-- The used entries of a list tile from entry lo on, n of them. -/
def Ctx.used (x : Ctx) (t : Tile) (lo n : Nat) : List LEnt := (List.range n).filterMap fun j => t.entry x.mem x.base (lo + j)

/-- Codes of a list of n places; places without an entry are unused. -/
def listCodes (n : Nat) (es : List LEnt) : List Nat :=
  (List.range n).flatMap fun j => let e := es.getD j LEnt.unused; [e.key.toNat, e.idx.toNat]

/-- Write the whole list of a tile. -/
def Ctx.putList (x : Ctx) (d : Tile) (es : List LEnt) (m : Mem) : Mem := d.putCodes x.base (listCodes d.entries es) m

/-- Score tile and list agree (R276). -/
def scoreOk (a d : Tile) : Bool := d.fmt == 9 || (fmtTileExp a.fmt && a.se == d.se)

/-- The key of element n of a score tile for a list format, and whether it is NaN (R276, R277). -/
def Ctx.scoreKey (x : Ctx) (a d : Tile) (n : Nat) : Word × Bool :=
  if d.fmt = 10 then (BitVec.ofInt 32 (a.intN x.mem x.base n), false)
  else let v := toF32 (a.valN x.mem x.base n); (v, f32isNan v)

def nanGrade (n : Nat) : Grade2 := Grade2.when (decide (0 < n)) evNonfinite

/-! ## MAXIDX and MINIDX (R278) -/

def idxCheck (x : Ctx) : Option CErr :=
  firstErr
    [x.operandCheck [x.opdD [9, 10], x.opdA anyFmt] (x.zero 99 64 && x.noImm && x.noFlags && scoreOk x.a x.d),
     unlessOk (decide (x.a.rows ≤ x.d.entries)) CErr.bound, x.clean x.a]

/-- The best of a row: the first of the largest, or smallest, keys. -/
def rowBest (fmt : Nat) (mx : Bool) (ks : List (Word × Bool)) : LEnt :=
  ((ks.mapIdx fun i k => (i, k)).foldl (fun (b : Option LEnt) e =>
    if e.2.2 then b else
      match b with
      | none => some { key := e.2.1, idx := BitVec.ofNat 32 e.1 }
      | some c => if (if mx then keyLess fmt c.key e.2.1 else keyLess fmt e.2.1 c.key) then some { key := e.2.1, idx := BitVec.ofNat 32 e.1 } else b)
    none).getD LEnt.unused

def idxRun (mx : Bool) (x : Ctx) : SOut :=
  let rows := tabulate x.a.rows fun r => tabulate x.a.width fun i => x.scoreKey x.a x.d (r * x.a.width + i)
  let nan := (rows.map fun r => (r.filter fun k => k.2).length).sum
  { SOut.of (x.putList x.d (rows.map (rowBest x.d.fmt mx)) x.mem) (15 + ceilDiv x.a.cap 128) with
    ops := 1, grade := nanGrade nan, counts := [(cNonfinite, nan)] }

/-! ## Filters, TOPK and MERGE (R279-R281) -/

/-- A filter descriptor's fields (R280). -/
structure Filter where
  tagCount : Nat
  tombOn : Bool
  tags : List Nat
  tagOff : Nat
  tombOff : Nat
  deriving DecidableEq, Repr

/-- The descriptor in the first 64 B of B. -/
def Ctx.filter (x : Ctx) : Filter :=
  let m := x.mem
  let a := x.b.rowAddr x.base 0
  { tagCount := m.num a 2, tombOn := decide (m.num (a + 2) 2 % 2 = 1), tags := tabulate 8 fun i => m.num (a + 4 + 2 * i) 2,
    tagOff := m.num (a + 0x14) 4, tombOff := m.num (a + 0x18) 4 }

/-- Fields of the descriptor, and the arrays it uses for n positions, against the task's window (R216, R280). -/
def Ctx.filterCheck (x : Ctx) (n : Nat) : Option CErr :=
  let a := x.b.rowAddr x.base 0
  let f := x.filter
  firstErr
    [unlessOk (decide (f.tagCount ≤ 8) && decide (x.mem.num (a + 2) 2 / 2 = 0) && decide (x.mem.num (a + 0x1C) 36 = 0)) CErr.format,
     unlessOk (f.tagCount == 0 || decide (f.tagOff + 2 * n ≤ x.t.bound)) CErr.bound,
     unlessOk (!f.tombOn || decide (f.tombOff + ceilDiv n 8 ≤ x.t.bound)) CErr.bound]

/-- Element position p passes (R280). -/
def Ctx.passes (x : Ctx) (f : Filter) (p : Nat) : Bool :=
  !(f.tombOn && bitAt (x.mem.byte (x.base + f.tombOff + p / 8)) (p % 8))
  && (f.tagCount == 0 || (f.tags.take f.tagCount).contains (x.mem.num (x.base + f.tagOff + 2 * p) 2))

/-- Does the position pass the filter, where one is given? -/
def Ctx.passesIf (x : Ctx) (on : Bool) (p : Nat) : Bool := !on || x.passes x.filter p

/-- The largest k for a task's class (R252). -/
def kLimit (klass : Nat) : Nat := if klass = 3 then 1024 else 256
def kOk (x : Ctx) : Bool := decide (1 ≤ cwImm x.w) && decide (cwImm x.w ≤ kLimit x.t.klass)

/-- What a run of scores gives: entries in order, elements filtered, and NaN scores. -/
structure Scores where
  es : List LEnt
  filtered : Nat
  nan : Nat
  deriving DecidableEq, Repr

/-- Scores with their positions and indices: those that pass become entries (R277, R279). -/
def Ctx.scores (x : Ctx) (filterOn : Bool) (ks : List (Nat × Nat × Word × Bool)) : Scores :=
  let pass := ks.filter fun k => x.passesIf filterOn k.1
  { es := (pass.filter fun k => !k.2.2.2).map fun k => { key := k.2.2.1, idx := BitVec.ofNat 32 k.2.1 },
    filtered := ks.length - pass.length, nan := (pass.filter fun k => k.2.2.2).length }

def topkCheck (x : Ctx) : Option CErr :=
  firstErr
    [x.operandCheck [x.opdD [9, 10], x.opdA anyFmt, x.opdB false anyFmt] (x.zero 79 64 && x.noFlags && kOk x && scoreOk x.a x.d),
     unlessOk (decide (cwImm x.w ≤ x.d.entries)) CErr.bound,
     (if cwB x.w = 0xFF then none else x.filterCheck x.a.cap), x.clean x.a]

def topkRun (x : Ctx) : SOut :=
  let k := cwImm x.w
  let sc := x.scores (cwB x.w != 0xFF) (tabulate x.a.cap fun p => (p, fld x.w 99 80 + p, x.scoreKey x.a x.d p))
  { SOut.of (x.putList x.d (bestK x.d.fmt k (x.used x.d 0 x.d.entries ++ sc.es)) x.mem)
      (15 + ceilDiv x.a.cap 128 + ceilDiv k 16) with
    ops := 1, grade := nanGrade sc.nan, counts := [(cFiltered, sc.filtered), (cNonfinite, sc.nan)] }

/-- Two lists may be merged into a third (R281, R283). -/
def listsOk (x : Ctx) : Bool := x.a.fmt == x.b.fmt && x.d.fmt == x.a.fmt && (x.a.fmt != 10 || x.a.se == x.b.se)

/-- D's exponent is that of the lists (R283; log entry 55, DEDUCED). -/
def listSe (x : Ctx) : List (Nat × DWord) := if x.d.fmt = 10 then [x.setSe x.a.se] else []

def mergeCheck (x : Ctx) : Option CErr :=
  firstErr
    [x.operandCheck [x.opdD [9, 10], x.opdA [9, 10], x.opdB true [9, 10]] (x.zero 99 64 && x.noFlags && kOk x && listsOk x),
     unlessOk (decide (cwImm x.w ≤ x.d.entries)) CErr.bound]

def mergeRun (x : Ctx) : SOut :=
  let es := x.used x.a 0 x.a.entries ++ x.used x.b 0 x.b.entries
  { SOut.of (x.putList x.d (bestK x.d.fmt (cwImm x.w) es) x.mem) (15 + ceilDiv (x.a.entries + x.b.entries) 64) with
    ops := 1, handles := listSe x }

/-! ## SAMPLE (R284, R285) -/

/-- The parameter block in the first 32 B of B. -/
def sampleByte (x : Ctx) (o n : Nat) : Nat := x.mem.num (x.b.rowAddr x.base 0 + o) n

def sampleTopK (x : Ctx) : Nat := if sampleByte x 4 2 = 0 then cwImm x.w else sampleByte x 4 2

def sampleCheck (x : Ctx) : Option CErr :=
  firstErr
    [x.operandCheck [x.opdD anyFmt, x.opdA [9], x.opdB true anyFmt] (x.zero 99 64 && x.noFlags && kOk x),
     unlessOk (decide (sampleByte x 4 2 ≤ 256) && !(x.used x.a 0 x.a.entries).isEmpty) CErr.format]

/-- Running sums from an initial value (R285). -/
def runningSums : Word → List Word → List Word
  | _, [] => []
  | c, w :: l => let d := fadd c w; d :: runningSums d l

/-- The number of candidates that top-p keeps. -/
def topPCount (p : Word) (c : List Word) : Nat :=
  let n := c.length
  if f32isNan p || fle 0x3F800000#32 p then n
  else if fle p 0#32 then 1
  else
    let lim := fmul p (c.getLastD 0#32)
    match c.findIdx? fun v => fle lim v with
    | some j => j + 1
    | none => n

/-- The rank of the chosen candidate (R285). -/
def sampleRank (keys : List Word) (temp topP : Word) (seed step : Nat) : Nat :=
  if flt 0#32 temp = false ∨ keys.length ≤ 1 then 0
  else
    let k0 := keys.headD 0#32
    let c := runningSums 0#32 (keys.map fun k => fexp (fdiv (fsub k k0) temp))
    let m := topPCount topP c
    let u := f32ofDy false ⟨(philox0 (BitVec.ofNat 64 seed) (BitVec.ofNat 32 step) (BitVec.ofNat 32 (step / 2 ^ 32)) 0 1).toNat / 256, -24⟩
    let t := fmul u (c.getD (m - 1) 0#32)
    match (c.take m).findIdx? fun v => flt t v with
    | some i => i
    | none => m - 1

def sampleRun (x : Ctx) : SOut :=
  let es := (x.used x.a 0 x.a.entries).take (sampleTopK x)
  let r := sampleRank (es.map (·.key)) (BitVec.ofNat 32 (sampleByte x 0 4)) (BitVec.ofNat 32 (sampleByte x 8 4)) (sampleByte x 0x10 8)
    (sampleByte x 0x18 8)
  let tok := (es.getD r LEnt.unused).idx
  { SOut.of (x.mem.write (x.d.rowAddr x.base 0) (toLe 4 tok.toNat ++ toLe 4 r ++ List.replicate 248 0)) (79 + ceilDiv (cwImm x.w) 32) with
    ops := 1 }

/-! ## TRECV (R254, R283) -/

def combineOf (x : Ctx) : Nat := fld x.w 99 96

/-- A combine of lists, entry by entry: the larger, or smaller, key; ties to the lower index (R277, R283). -/
def pickEnt (fmt : Nat) (mx : Bool) (a b : Option LEnt) : LEnt :=
  match a, b with
  | none, none => LEnt.unused
  | some e, none => e
  | none, some e => e
  | some e, some f =>
    let better := if mx then keyLess fmt f.key e.key else keyLess fmt e.key f.key
    let worse := if mx then keyLess fmt e.key f.key else keyLess fmt f.key e.key
    if better then e else if worse then f else if e.idx.toNat ≤ f.idx.toNat then e else f

def trecvCheck (x : Ctx) : Option CErr :=
  let c := combineOf x
  if c = 0 ∨ c = 4 then
    let f := if c = 0 then [10] else [9]
    firstErr [x.operandCheck [x.opdD f, x.opdA f, x.opdB true f] (x.zero 95 64 && x.noImm && x.noFlags), holds x.d x.a.cap, holds x.b x.a.cap]
  else
    firstErr
      [x.operandCheck [x.opdD [9, 10], x.opdA [9, 10], x.opdB true [9, 10]]
         (decide (c ≤ 3) && x.zero 95 64 && x.noFlags && (if c = 3 then kOk x else x.noImm) && listsOk x),
       unlessOk (decide ((if c = 3 then cwImm x.w else max x.a.entries x.b.entries) ≤ x.d.entries)) CErr.bound]

def trecvRun (x : Ctx) : SOut :=
  let c := combineOf x
  if c = 0 ∨ c = 4 then
    (x.writeSums x.d (some x.b) false 0 (15 + x.d.rows) fun r =>
      tabulate x.a.cap fun i => { seP := x.a.se, rep := r, terms := [x.a.term x.mem x.base (if c = 0 then r else 0) i] }).1
  else if c = 3 then mergeRun x
  else
    let n := max x.a.entries x.b.entries
    let at? := fun (t : Tile) j => if j < t.entries then t.entry x.mem x.base j else none
    { SOut.of (x.putList x.d (tabulate n fun j => pickEnt x.d.fmt (c == 1) (at? x.a j) (at? x.b j)) x.mem) (15 + ceilDiv x.a.cap 128) with
      ops := 1, handles := listSe x }

/-! ## Meanings -/

/-- RMSNORM (R272). -/
def execRmsnorm (core : Fin 256) (task : Fin 4) (chk : Check) (s : State) : Host.Outcome State Fault Refusal :=
  .next (s.issueSpad 0x33 (normCheck false) rmsnormRun core.val task.val chk)

/-- LAYERNORM (R272). -/
def execLayernorm (core : Fin 256) (task : Fin 4) (chk : Check) (s : State) : Host.Outcome State Fault Refusal :=
  .next (s.issueSpad 0x34 (normCheck true) layernormRun core.val task.val chk)

/-- SOFTMAX (R273). -/
def execSoftmax (core : Fin 256) (task : Fin 4) (chk : Check) (s : State) : Host.Outcome State Fault Refusal :=
  .next (s.issueSpad 0x35 softmaxCheck softmaxRun core.val task.val chk)

/-- MAXIDX (R278). -/
def execMaxidx (core : Fin 256) (task : Fin 4) (chk : Check) (s : State) : Host.Outcome State Fault Refusal :=
  .next (s.issueSpad 0x36 idxCheck (idxRun true) core.val task.val chk)

/-- MINIDX (R278). -/
def execMinidx (core : Fin 256) (task : Fin 4) (chk : Check) (s : State) : Host.Outcome State Fault Refusal :=
  .next (s.issueSpad 0x37 idxCheck (idxRun false) core.val task.val chk)

/-- TOPK (R279). -/
def execTopk (core : Fin 256) (task : Fin 4) (chk : Check) (s : State) : Host.Outcome State Fault Refusal :=
  .next (s.issueSpad 0x38 topkCheck topkRun core.val task.val chk)

/-- MERGE (R281). -/
def execMerge (core : Fin 256) (task : Fin 4) (chk : Check) (s : State) : Host.Outcome State Fault Refusal :=
  .next (s.issueSpad 0x39 mergeCheck mergeRun core.val task.val chk)

/-- SAMPLE (R285). -/
def execSample (core : Fin 256) (task : Fin 4) (chk : Check) (s : State) : Host.Outcome State Fault Refusal :=
  .next (s.issueSpad 0x3A sampleCheck sampleRun core.val task.val chk)

/-- TRECV (R283). -/
def execTrecv (core : Fin 256) (task : Fin 4) (chk : Check) (s : State) : Host.Outcome State Fault Refusal :=
  .next (s.issueSpad 0x53 trecvCheck trecvRun core.val task.val chk)

end Sys2Proof.Machine
end

