-- ==== Sys2Proof/Machine/Array.lean ====
section
/-!
DEFINITION. Sys2Proof/Machine/Array.lean: the array commands: CR, PW, PWT, CORRSEL, PROG, ERASE, CAL (R95-R105, R126-R163,
R249-R251).
-/
namespace Sys2Proof.Machine

/-! ## Layer entries (R163) -/

def Core.layerEntry (c : Core) (e : Nat) : Nat := c.reg64 (cLayerTbl + 8 * e)
def leValid (v : Nat) : Bool := Nat.testBit v 0
def leTask (v : Nat) : Nat := bitsOf v 2 1
/-- Window width; 0 and 13-15 act as 12. -/
def leWb (v : Nat) : Nat := let w := bitsOf v 11 8; if w = 0 ∨ 12 < w then 12 else w
def leStatic (v : Nat) : Nat := min (bitsOf v 19 14) 32
def leCorrMax (v : Nat) : Nat := min (bitsOf v 23 20) 8
def leCorrRows (v : Nat) : Nat := bitsOf v 31 24
/-- MIRROR_ADDR, a byte offset (R163). -/
def leMirror (v : Nat) : Nat := bitsOf v 63 37

/-- The static channels of an entry, in order (R143). -/
def Core.statics (c : Core) (e : Nat) : List Nat :=
  tabulate (leStatic (c.layerEntry e)) fun n =>
    let w := c.reg (cStaticSet + 64 * e + 4 * (n / 2))
    if n % 2 = 0 then fld w 15 0 else fld w 31 16

/-- The in-window code of a window of wb bits (R140). -/
def inWindowCode (wb : Nat) (v : Int) : Int :=
  let h : Int := pow2 (wb - 1)
  if v < -h then -h else if h - 1 < v then h - 1 else v

/-! ## Input vectors (R136, R250) -/

/-- Element formats of CR inputs, and of PW and PWT inputs (R133, R136). -/
def crFmts : List Nat := [0, 1, 2, 3, 4, 5, 6]
def pwFmts : List Nat := [0, 1, 2]

/-- Rows of A that a vector of `nel` elements takes. -/
def Tile.vecRows (t : Tile) (nel : Nat) : Nat := ceilDiv nel t.width

/-- A holds n vectors of `nel` elements: its width divides a vector, so that no vector ends inside a row, and it has their rows
(R250). -/
def Tile.holdsVecs (t : Tile) (n nel : Nat) : Bool := nel % t.width == 0 && decide (n * t.vecRows nel ≤ t.rows)

/-- The layer entry that a deck's DECKMAP entry names does not belong to another task (R237). -/
def Ctx.layerFree (x : Ctx) (e : Word) : Bool :=
  let v := x.c.layerEntry (grantLayer e)
  !(leValid v) || leTask v == x.task

/-- An input vector: applied codes, their exponent, and whether alignment made a non-zero code zero. -/
structure ArrVec where
  codes : List Int
  se : Int
  lost : Bool
  deriving DecidableEq, Repr

/-- Codes aligned to the largest block exponent (R136). -/
def alignCodes (es : List Nat) (cs : List Int) : Nat × List Int :=
  let top := es.foldl max 0
  (top, (cs.zip es).map fun e => shrRne e.1 (top - e.2))

/-- Vector v of A. -/
def Ctx.arrVec (x : Ctx) (nel v : Nat) : ArrVec :=
  let t := x.a
  let at_ := fun i => (v * t.vecRows nel + i / t.width, i % t.width)
  let cs := tabulate nel fun i => engineCode t.fmt (t.code x.mem x.base (at_ i).1 (at_ i).2)
  if fmtBlock t.fmt then
    let (top, out) := alignCodes (tabulate nel fun i => t.e8 x.mem x.base (at_ i).1 (at_ i).2) cs
    { codes := out, se := (top : Int) - 127 + fmtUnit t.fmt, lost := (cs.zip out).any fun e => e.1 != 0 && e.2 == 0 }
  else { codes := cs, se := t.se, lost := false }

/-! ## One operation (R127-R149) -/

/-- Digit k of word-line i, output column j (R90, R91). -/
def Deck.digit (d : Deck) (i j k : Nat) : Nat :=
  let off : Int := if d.fmt4 then 8 else 128
  (d.weight i j + off).toNat / 4 ^ k % 4

/-- Results of an operation, its inputs. -/
def Deck.outs (d : Deck) (trans : Bool) : Nat := if trans then 1024 else d.columns
def Deck.ins (d : Deck) (trans : Bool) : Nat := if trans then d.columns else 1024

/-- The digit sum of result j (R129, R132). -/
def Deck.digitSum (d : Deck) (trans : Bool) (xs : List Int) (j k : Nat) : Int :=
  (xs.mapIdx fun i v => v * (((if trans then d.digit j i k else d.digit i j k) : Nat) : Int)).sum

/-- Converter range (R145). -/
def digitLimit (bx : Nat) : Nat := 192 * 2 ^ (bx - 1)

def shifted (xs : List Int) (r : Nat) : List Int := xs.map fun v => shrRne v r

/-- A digit column is out of range. PWT's sum of a digit is one over all 2,048 columns of an INT4 deck, as of all 1,024 of an INT8 deck:
the manual does not say how an INT4 deck's two digits use the four phases (log entry 119, DESIGN CHOICE). -/
def Deck.clips (d : Deck) (trans : Bool) (bx : Nat) (xs : List Int) : Bool :=
  (List.range (d.outs trans)).any fun j => (List.range d.digits).any fun k =>
    decide (digitLimit bx < (d.digitSum trans xs j k).natAbs)

/-- The first repeat of at most 3 that does not clip, else 3 (R146, R147); the fuel is the repeats left. -/
def Deck.clipRepeat (d : Deck) (trans : Bool) (bx : Nat) (xs : List Int) : Nat → Nat → Nat
  | 0, r => r
  | fuel + 1, r => if d.clips trans bx (shifted xs r) then d.clipRepeat trans bx xs fuel (r + 1) else r

/-- The exact combination of digit sums held at the range limits, with the offset term (R129, R132, R147). -/
def Deck.combine (d : Deck) (trans : Bool) (bx : Nat) (xs : List Int) (j : Nat) : Int :=
  ((List.range d.digits).map fun k => pow2 (2 * k) * clampQ (digitLimit bx) (d.digitSum trans xs j k)).sum
  - (if d.fmt4 then 8 else 128) * xs.sum

/-- The product without an array (R117, R118). -/
def Deck.product (d : Deck) (trans : Bool) (xs : List Int) (j : Nat) : Int :=
  (xs.mapIdx fun i v => v * (if trans then d.weight j i else d.weight i j)).sum

/-- Result j has a digit column out of range (R147). -/
def Deck.saturates (d : Deck) (trans : Bool) (bx : Nat) (xs : List Int) (j : Nat) : Bool :=
  (List.range d.digits).any fun k => decide (digitLimit bx < (d.digitSum trans xs j k).natAbs)

/-- log2 of the full scale (R127). -/
def fullScaleLog (d : Deck) (bx : Nat) : Nat := 10 + (bx - 1) + (if d.fmt4 then 3 else 7)

/-- Bounds of R156 and R159 as (maximum, RMS), each FS / 2^k by its k; none where none is stated. `off` lists the cleared bits of
AFE_CTRL, `dt` the temperature difference and `db` the beats since the last re-trim. -/
def errBounds (cr : Bool) (off : List Nat) (dt db : Nat) : Option Nat × Option Nat :=
  let row := fun (crMax crRms pwRms : Nat) => if cr then (some crMax, some crRms) else (none, some pwRms)
  match off with
  | [] => if cr then (some 9, some 12) else (some 6, some 8)
  | [3] => if dt ≤ 3 then row 9 12 8 else row 7 10 7
  | [2] => row 8 11 8
  | [1] => if db ≤ 4096 ∧ dt ≤ 10 then row 9 12 8 else row 7 10 7
  | [0] => if db ≤ 4096 ∧ dt ≤ 5 then row 7 10 7 else (none, none)
  | _ => if dt ≤ 10 then row 5 7 5 else (none, none)

/-- Cleared calibration controls (R159). -/
def Core.calOff (c : Core) : List Nat := [0, 1, 2, 3].filter fun b => !(bitAt (c.reg cAfeCtrl) b)

/-- The stack of a slice deck is above the operating range: the bounds of R156 do not hold (R390). -/
def Ctx.hotStack (x : Ctx) (n : Nat) : Bool := decide (105 < x.s.stackTemp x.core (n / 8))

/-- The conditions of R156: a junction at 0 to 105 °C, and a deck whose drift has not reached the refresh trigger (R113). -/
def Ctx.inConditions (x : Ctx) (n : Nat) : Bool :=
  let d := x.deckAt n
  decide (0 ≤ x.s.stackTemp x.core (n / 8)) && !(x.hotStack n) && decide (d.drift ≤ x.s.driftWindow) && !d.refreshDue

/-- The trims of the stack at the region's point (R154, R159). -/
def Ctx.trimOf (x : Ctx) (n : Nat) : Trim := (x.c.stack (n / 8)).trim (x.s.region (regionOf x.core)).point

/-- The candidate errors keep the bounds, on every result that is not saturated. -/
def errorsFit (fsLog : Nat) (bounds : Option Nat × Option Nat) (sat : Nat → Bool) (e : List Int) : Bool :=
  let kept := (List.range e.length).filter fun j => !sat j
  let big := fun j => (e.getD j 0).natAbs
  (match bounds.1 with
   | some k => kept.all fun j => decide (big j * 2 ^ k ≤ 2 ^ fsLog)
   | none => true)
  && (match bounds.2 with
   | some k => decide ((kept.map fun j => (big j * 2 ^ k) ^ 2).sum ≤ kept.length * 2 ^ (2 * fsLog))
   | none => true)

/-- Two error vectors of the same operands differ by at most 2^-8 FS per column and 2^-11.5 FS RMS (R158). -/
def errorsAgree (fsLog : Nat) (e f : List Int) : Bool :=
  let d := List.zipWith (fun a b => (a - b).natAbs) e f
  d.all (fun v => decide (v * 2 ^ 8 ≤ 2 ^ fsLog)) && decide ((d.map fun v => v ^ 2 * 2 ^ 23).sum ≤ d.length * 2 ^ (2 * fsLog))

/-- What an array operation is given: deck number, direction, width, charge-redistribution or pulse-width, codes. -/
structure ArrIn where
  n : Nat
  trans : Bool
  cr : Bool
  bx : Nat
  v : Nat
  codes : List Int
  /-- The command drops corrections of this vector (R141): the result carries class 2. -/
  drop : Bool
  deriving DecidableEq, Repr

/-- The deck under the format of the DECKMAP entry (R250). -/
def Ctx.arrDeck (x : Ctx) (n : Nat) : Deck :=
  { x.deckAt n with fmt4 := match x.t.grant n with
      | some e => grantInt4 e
      | none => false }

/-- An operation's clip repeats. -/
def Ctx.arrRepeat (x : Ctx) (i : ArrIn) : Nat :=
  let d := x.arrDeck i.n
  if d.standIn then 0 else d.clipRepeat i.trans i.bx i.codes 3 0

/-- The operation of the command that meets its bound check's finding: a free one of those that have not yet issued. -/
def Ctx.boundIx (x : Ctx) : Nat := (freeIn (x.s.free (10 ^ 9 + 3)) x.t.arr.length (cwImm x.w - 1 : Nat)).toNat

/-- An operation without an array's sums: its deck is stood for, or every input is zero (R118, R138). -/
def Ctx.arrExact (x : Ctx) (i : ArrIn) : Bool := (x.arrDeck i.n).standIn || i.codes.all (· == 0)

/-- The bound check of an operation: clean, failed once, failed twice (R149). Of several operations one meets it. A stack that has lost its
converters fails it always (log entry 42, DEDUCED). -/
def Ctx.boundMeets (x : Ctx) (i : ArrIn) : Check :=
  if x.arrExact i then .clean
  else if (x.c.stack (i.n / 8)).bankLost then .major
  else if i.v = x.boundIx then x.meets 5 else .clean

/-- The bounds that hold of an operation's result at repeat r: those of R156 and R159, of results of class 1 and of those that carry class 2 for
CAL_OFF alone. -/
def Ctx.boundsOf (x : Ctx) (i : ArrIn) (r : Nat) : Option Nat × Option Nat :=
  if 0 < r ∨ i.drop ∨ x.boundMeets i = .major ∨ x.inConditions i.n = false then (none, none)
  else errBounds i.cr x.c.calOff (x.s.stackTemp x.core (i.n / 8) - (x.trimOf i.n).temp).natAbs (x.s.beat - (x.trimOf i.n).beat)

/-- Earlier error vectors of the same operands (R158). -/
def Ctx.sameOperands (x : Ctx) (i : ArrIn) : List ErrVec :=
  let d := x.arrDeck i.n
  if i.cr && x.c.calOff.isEmpty then
    x.c.errLog.filter fun e => e.fmt4 == d.fmt4 && e.bx == i.bx && e.codes == i.codes && e.weights == d.cells
  else []

/-- The errors of an operation's results in units of 2^r: free values that keep the bounds; where the candidates break one, no error (log
entry 62, DESIGN CHOICE). -/
def Ctx.errorsOf (x : Ctx) (i : ArrIn) (r : Nat) : List Int :=
  let d := x.arrDeck i.n
  let n := d.outs i.trans
  let e := tabulate n fun j => x.s.free (10000 * (4 * i.v + r) + j)
  let fs := fullScaleLog d i.bx
  let b := x.boundsOf i r
  if errorsFit fs b (d.saturates i.trans i.bx (shifted i.codes r)) e && (b.1.isNone || (x.sameOperands i).all fun o => errorsAgree fs e o.errs) then e
  else List.replicate n 0

/-- The results at repeat r, in units of 2^(SE + r) (R129, R138, R146, R147). -/
def Ctx.arrResult (x : Ctx) (i : ArrIn) (r : Nat) : List Int :=
  let d := x.arrDeck i.n
  let xs := shifted i.codes r
  let n := d.outs i.trans
  if d.standIn then tabulate n (d.product i.trans xs)
  else if i.codes.all (· == 0) then List.replicate n 0
  else
    let errs := x.errorsOf i r
    tabulate n fun j =>
      if !i.trans && d.patched.contains j then d.product i.trans xs j else d.combine i.trans i.bx xs j + errs.getD j 0

/-- Class and events of an operation (R161). -/
def Ctx.arrGrade (x : Ctx) (i : ArrIn) : Grade2 :=
  let d := x.arrDeck i.n
  let r := x.arrRepeat i
  let zero := x.arrExact i
  let sat := !zero && d.clips i.trans i.bx (shifted i.codes r)
  let g := (Grade2.when (!zero && (decide (0 < r) || sat)) evClip).join (Grade2.when sat evSaturated)
  let g := g.join (Grade2.when (decide (x.boundMeets i = .major)) evBoundFail)
  let g := g.join (Grade2.when (!d.standIn && (!x.c.calOff.isEmpty || x.hotStack i.n)) evCalOff)
  g.join { klass := if zero then 0 else 1, events := 0 }

/-- Passes of an operation, repeats included. -/
def Ctx.arrPasses (x : Ctx) (i : ArrIn) : Nat :=
  1 + x.arrRepeat i + (if x.boundMeets i = .minor ∨ x.boundMeets i = .major then 1 else 0)

/-- Counters of an operation (R146, R147, R149, R163). -/
def Ctx.arrCounts (x : Ctx) (i : ArrIn) : List (Nat × Nat) :=
  let r := x.arrRepeat i
  let e := (x.arrGrade i).events
  [(cClipCount, b2n (Nat.testBit e 0)), (cRepeatCount, r), (cSatCount, b2n (Nat.testBit e 1)),
   (cBoundRetry, if x.boundMeets i = .minor ∨ x.boundMeets i = .major then 1 else 0)]

/-- A bound check that failed twice is one event of ANALOGUE_CAL (R149). -/
def Ctx.boundFx (x : Ctx) (i : ArrIn) : List Fx :=
  if x.boundMeets i = .major ∧ (x.c.stack (i.n / 8)).bankLost = false then [.fault 19 (24 * x.core + i.n / 8) 1] else []

/-! ## Tracking (R148, R149) -/

/-- An estimate o, as n / 16^k, after one more measured value: o + (m - o) / 16. -/
def trackStep (e : Int × Nat) (m : Int) : Int × Nat := (15 * e.1 + m * 16 ^ e.2, e.2 + 1)

/-- Expected sums of the offset, gain and check references, exact: cells at L0, at L3, and at L1 and L2 by turns. -/
def refSums (codes : List Int) : Int × Int × Int := (0, 3 * codes.sum, (codes.mapIdx fun i v => v * ((1 + i % 2 : Nat) : Int)).sum)

/-- The estimates of a deck after an operation: per column group the offset always, the gain where the inputs are large enough. What the
references measure is a free value. -/
def Ctx.track (x : Ctx) (i : ArrIn) (d : Deck) : Deck :=
  let (o, g, _) := refSums i.codes
  let big := decide (2 ^ (i.bx + 3) ≤ (i.codes.map Int.natAbs).sum)
  let m := fun (k : Nat) => x.s.free (10 ^ 9 + 1000 + 64 * i.v + k)
  let put := fun (e : SMap (Int × Nat)) (k : Nat) (v : Int) => sput (0, 0) e k (trackStep (sget (0, 0) e k) v)
  { d with est := (List.range 16).foldl (fun e k => let e := put e k (m k - o); if big then put e (16 + k) (m (16 + k) - g) else e) d.est }

/-- The residual that an operation's check reference leaves, in 2^-16 of its full scale: at most 2^-10 where the check passes (R149). -/
def Ctx.residual (x : Ctx) (i : ArrIn) : Nat :=
  let v := x.s.free (10 ^ 9 + 100 + i.v)
  (if x.boundMeets i = .minor ∨ x.boundMeets i = .major then freeIn v 65 255 else freeIn v 0 64).toNat

/-- The core after an operation on the array: estimates, the largest residual, and the errors of a charge-redistribution result of class 1. -/
def Ctx.observe (x : Ctx) (c : Core) (i : ArrIn) : Core :=
  if x.arrExact i then c else
  let k := x.c.deckPos i.n
  let st := c.stack (i.n / 8)
  let v := (x.s.region (regionOf x.core)).point
  let t := st.trim v
  let c := c.setStack (i.n / 8) (st.setTrim v { t with resid := max t.resid (x.residual i) })
  let c := if bitAt (c.reg cAfeCtrl) 0 then c.setDeck k (x.track i (c.deck k)) else c
  if i.cr && (x.arrGrade i).klass == 1 && (x.boundsOf i 0).1.isSome then
    let d := x.arrDeck i.n
    { c with errLog := c.errLog ++ [{ weights := d.cells, fmt4 := d.fmt4, bx := i.bx, codes := i.codes, errs := x.errorsOf i 0 }] }
  else c

/-! ## The issue of CR, PW and PWT (R135) -/

/-- Rights and deck state of a compute (R95, R96, R230). -/
def computeRights (x : Ctx) : List (Option CErr) :=
  [unlessOk (decide (deckField x < 192) && x.deckRights (deckField x) [0] false) (CErr.plain stAccessDenied),
   unlessOk (decide ((x.deckAt (deckField x)).state = .ready)) (CErr.plain stDeckState)]

/-- A command's operations: each with its exponent; the pass counter, the cycles of a pass, the correction rows that each reads and those that
it may need, and an exact addition per result (R135, R142, R143, R163). -/
structure ArrJob where
  ops : List (ArrIn × Int)
  reg : Nat
  per : Nat
  rows : Nat → Nat
  may : Nat
  extra : Nat → Nat → Int

/-- Cycles of an operation on its stack. -/
def Ctx.opCycles (x : Ctx) (j : ArrJob) (i : ArrIn) : Nat := x.arrPasses i * j.per + 154 * j.rows i.v

/-- The operations, from a cycle on, whose worst case the budget covers. -/
def Ctx.opsThatFit (x : Ctx) (j : ArrJob) (budget : Nat) : List (ArrIn × Int) → Nat → List (ArrIn × Int)
  | [], _ => []
  | o :: l, at_ =>
    if at_ + 4 * j.per + 114 * j.may ≤ budget then o :: x.opsThatFit j budget l (at_ + x.opCycles j o.1) else []

/-- An operation that has issued. As fill it owes its repeats. -/
def Ctx.opDone (x : Ctx) (i : ArrIn) (own : Bool) : ArrDone :=
  let r := x.arrRepeat i
  let g := x.arrGrade i
  { rep := r, owed := if own then 0 else x.arrPasses i - 1, klass := g.klass, events := g.events, vals := x.arrResult i r }

/-- What issues now: operations, passes of them and of repeats still owed, cycles on the stack, and the operations ended so far. -/
structure ArrNow where
  ops : List ArrIn
  passes : Nat
  cycles : Nat
  arr : List ArrDone

/-- Repeats that a fill operation owes go first, as fill one by one; then operations, as fill one (R49, R135). -/
def Ctx.arrNow (x : Ctx) (j : ArrJob) : ArrNow :=
  let own := x.s.ownsRun x.core x.t
  let budget := x.s.runBudgetOf x.core
  let arr := x.t.arr
  match arr.getLast? with
  | some { rep, owed := k + 1, klass, events, vals } =>
    let n := if own then k + 1 else 1
    if x.tm.start + n * j.per ≤ budget then
      { ops := [], passes := n, cycles := n * j.per, arr := arr.dropLast ++ [⟨rep, k + 1 - n, klass, events, vals⟩] }
    else { ops := [], passes := 0, cycles := 0, arr := arr }
  | _ =>
    let todo := j.ops.drop arr.length
    let go := x.opsThatFit j budget (if own then todo else todo.take 1) x.tm.start
    let ops := go.map (·.1)
    { ops := ops, passes := if own then (ops.map x.arrPasses).sum else ops.length,
      cycles := if own then (ops.map (x.opCycles j)).sum else (ops.map fun i => j.per + 154 * j.rows i.v).sum,
      arr := arr ++ ops.map fun i => x.opDone i own }

/-- Every operation and every repeat of it has ended. -/
def arrFinished (j : ArrJob) (n : ArrNow) : Bool := n.arr.length == j.ops.length && n.arr.all fun a => a.owed == 0

/-- Sums of a command at accumulator repeat rr, where r0 is the largest clip repeat (R259, R264). -/
def Ctx.arrSums (x : Ctx) (j : ArrJob) (arr : List ArrDone) (r0 rr : Nat) : List SumIn :=
  (j.ops.zip arr).flatMap fun o =>
    let k := if rr = r0 then o.2.rep else rr
    (if rr = r0 then o.2.vals else x.arrResult o.1.1 k).mapIdx fun c v =>
      { seP := o.1.2, rep := k, terms := [Term.int v (o.1.2 + k), Term.int (j.extra o.1.1.v c) o.1.2] }

def joinGrades (l : List Grade2) : Grade2 := l.foldl Grade2.join Grade2.none

/-- Counters and records of what issues now. -/
def Ctx.arrCore (x : Ctx) (j : ArrJob) (n : ArrNow) (c : Core) : Core :=
  let gated := (n.ops.map fun i => (i.codes.filter fun v => v == 0).length).sum
  n.ops.foldl x.observe (((c.count (n.ops.flatMap x.arrCounts)).inc64 j.reg n.passes).inc64 cGated gated)

def Ctx.arrHold (x : Ctx) (j : ArrJob) (cycles : Nat) : Hold :=
  { keys := x.c.pair (deckField x / 8), need := 0, busy := cycles, op := j.per, computes := none }

/-- A step of the command at the head: nothing fits, some operations issue, or its last ones do and it ends with `fin`, which gives the drain's
part and the accumulator's repeats; each of these repeats every operation once more (R163, R264). -/
def Ctx.arrStep (x : Ctx) (j : ArrJob) (g : Grade2) (counts : List (Nat × Nat)) (fx : List Fx) (fin : List ArrDone → SOut × Nat) : Out :=
  let n := x.arrNow j
  if x.drooping ∨ x.s.time.now < (x.c.stack (deckField x / 8)).resumeAt ∨ (n.passes = 0 ∧ arrFinished j n = false) then Out.wait x
  else if arrFinished j n then
    let (o, reps) := fin n.arr
    let out := ({ o with ops := 0 } : SOut).toOut x.spadSide
    let again := reps * j.ops.length
    let c := ((x.arrCore j n out.core).count counts).inc64 j.reg again
    { out with core := c, grade := out.grade.join (g.join (joinGrades (n.arr.map fun a => { klass := a.klass, events := a.events }))),
               hold := some (x.arrHold j (n.cycles + again * j.per)), fx := fx ++ out.fx ++ n.ops.flatMap x.boundFx }
  else
    let c := (x.arrCore j n x.c)
    { Out.of (c.setTask x.task { c.task x.task with arr := n.arr }) n.cycles with
      hold := some (x.arrHold j n.cycles), fx := n.ops.flatMap x.boundFx, stay := true }

/-- Largest clip repeat of the operations. -/
def clipTop (arr : List ArrDone) : Nat := (arr.map (·.rep)).foldl max 0

/-- The drain's part of CR, PW and PWT. -/
def Ctx.arrWrite (x : Ctx) (j : ArrJob) (b : Option Tile) (sr : Bool) (cyc : Nat) (arr : List ArrDone) : SOut × Nat :=
  let r0 := clipTop arr
  let (o, r) := x.writeSums x.d b sr r0 cyc (x.arrSums j arr r0)
  (o, r - r0)

/-- D holds ACC32, or ACC16S with SR (R250, R267). -/
def accDest (x : Ctx) : Bool := cwFlag12 x.w == decide (x.d.fmt = 11)

/-! ## CR (R128, R140-R143, R250) -/

def crLayer (x : Ctx) : Nat := fld x.w 91 88
def crAvg (x : Ctx) : Nat := fld x.w 87 86
def crCycles (x : Ctx) : Nat := match crAvg x with
  | 0 => 342
  | 1 => 456
  | _ => 684
def crEntry (x : Ctx) : Nat := x.c.layerEntry (crLayer x)
def Ctx.grantOf (x : Ctx) : Word := (x.t.grant (deckField x)).getD 0
def crBlk (x : Ctx) : Nat := grantRowBlk x.grantOf
/-- Static channels within the deck's row-block, by word-line. -/
def crStatic (x : Ctx) : List Nat := ((x.c.statics (crLayer x)).filter fun c => c / 1024 == crBlk x).map fun c => c % 1024

/-- Corrected elements of vector v in the deck's row-block: word-line and excess (R142, R249). -/
def crFixes (x : Ctx) (v : Nat) : List (Nat × Int) :=
  if cwX x.w = 0xFF then [] else
    (List.range 8).filterMap fun q =>
      let a := x.x.rowAddr x.base v + 8 * q
      let i := x.mem.num a 4
      if i = 0xFFFFFFFF ∨ i / 1024 ≠ crBlk x then none else some (i % 1024, signed 32 (x.mem.num (a + 4) 4))

/-- In-window codes of a vector: static channels gated, the rest clamped (R140, R143). -/
def crCodes (x : Ctx) (v : ArrVec) : List Int :=
  v.codes.mapIdx fun i c => if (crStatic x).contains i then 0 else inWindowCode (leWb (crEntry x)) c

/-- Elements of vector v outside the window and neither static nor corrected. -/
def crDropped (x : Ctx) (v : Nat) : Nat :=
  let vec := x.arrVec 1024 v
  let fixed := (crFixes x v).map (·.1)
  ((vec.codes.mapIdx fun i c => (i, c)).filter fun e =>
    !((crStatic x).contains e.1) && e.2 != inWindowCode (leWb (crEntry x)) e.2 && !(fixed.contains e.1)).length

def crOp (x : Ctx) (v : Nat) : ArrIn × Int :=
  let vec := x.arrVec 1024 v
  ({ n := deckField x, trans := false, cr := true, bx := leWb (crEntry x), v := v, codes := crCodes x vec, drop := decide (0 < crDropped x v) }, vec.se)

/-- Byte offset of the mirrored row of a static channel for this deck: channels in order, and for each the core's decks of the layer
whose row-block contains it, in slice deck order (R143). -/
def mirrorAt (x : Ctx) (ch : Nat) : Nat :=
  let decks := fun c => (List.range 192).filter fun n => match x.t.grant n with
    | some e => grantUse e == 0 && grantLayer e == crLayer x && grantRowBlk e == c / 1024
    | none => false
  let before := (x.c.statics (crLayer x)).takeWhile fun c => c != ch
  leMirror (crEntry x) + 1024 * ((before.map fun c => (decks c).length).sum + ((decks ch).takeWhile fun n => n != deckField x).length)

/-- Mirrored weight of a static channel for a column. -/
def mirrorWeight (x : Ctx) (ch j : Nat) : Int :=
  let a := mirrorAt x ch
  if grantInt4 x.grantOf then signed 4 (bitsOf (x.c.dcmView.byte (a + j / 2)).toNat (4 * (j % 2) + 3) (4 * (j % 2)))
  else signed 8 (x.c.dcmView.byte (a + j)).toNat

/-- Correction and static terms of vector v, column j, exact (R142, R143). -/
def crExtra (x : Ctx) (v j : Nat) : Int :=
  let d := x.arrDeck (deckField x)
  let vec := x.arrVec 1024 v
  ((crFixes x v).map fun f => f.2 * d.weight f.1 j).sum
  + ((crStatic x).map fun i => vec.codes.getD i 0 * mirrorWeight x (1024 * crBlk x + i) j).sum

def crN (x : Ctx) : Nat := cwImm x.w

def crCheck (x : Ctx) : Option CErr :=
  let n := crN x
  let d := x.arrDeck (deckField x)
  firstErr
    [x.operandCheck [x.opdD [10, 11], x.opdA crFmts, x.opdB false partialFmts, x.opdX false anyFmt]
       (x.flag12Only && accDest x && x.zero 85 64 && decide (crAvg x ≤ 2)),
     firstErr (computeRights x),
     unlessOk (decide (1 ≤ n) && decide (n ≤ if d.fmt4 then 2 else 4) && leValid (crEntry x) && leTask (crEntry x) == x.task
       && grantLayer x.grantOf == crLayer x && x.a.holdsVecs n 1024) CErr.format,
     holds x.d (n * d.columns), (if cwB x.w = 0xFF then none else holds x.b (n * d.columns)),
     unlessOk (cwX x.w == 0xFF || decide (n ≤ x.x.rows)) CErr.bound, x.clean x.a, x.cleanOpt (cwB x.w), x.spadOnly,
     if (x.chk = .row ∨ x.inj = some (2, 2)) ∧ (List.range n).any (fun v => !(crFixes x v).isEmpty) = true
       then some (x.arrayErr (deckField x)) else none]

def crJob (x : Ctx) : ArrJob :=
  { ops := (List.range (crN x)).map (crOp x), reg := cCrOps, per := crCycles x, rows := fun v => (crFixes x v).length,
    may := if cwX x.w = 0xFF then 0 else leCorrMax (crEntry x), extra := crExtra x }

/-- Bits that the row code corrects in the correction rows, at most 9 a row (R108). -/
def crCorrected (x : Ctx) (rows : Nat) : Nat :=
  if x.inj = some (2, 1) then min 1 rows else match x.chk with
    | .bits n => min n (9 * rows)
    | _ => 0

/-- CR. A corrected element counts in CORR_COUNT in each deck's command of its row-block (log entry 120, DESIGN CHOICE). -/
def crRun (x : Ctx) : Out :=
  let n := crN x
  let vs := List.range n
  let j := crJob x
  let rows := (vs.map j.rows).sum
  let dropped := (vs.map (crDropped x)).sum
  let cyc := n * crCycles x + 189 * rows + 4 * (rows + (crStatic x).length) + 16 * n
  let fixed := crCorrected x rows
  x.arrStep j (Grade2.when (decide (0 < dropped)) evCorrOverflow)
    [(cCorrCount, rows), (cCorrOverflow, if cwX x.w = 0xFF then dropped else 0),
     (cAlignCount, (vs.filter fun v => (x.arrVec 1024 v).lost).length)]
    (if 0 < fixed then [.hubInc rBchCorrected fixed] else [])
    (x.arrWrite j (if cwB x.w = 0xFF then none else some x.b) (cwFlag12 x.w) cyc)

/-! ## PW (R131, R133, R279) -/

def pwTopk (x : Ctx) : Bool := bitAt x.w 91
def pwFilter (x : Ctx) : Bool := bitAt x.w 90
def pwBits (x : Ctx) : Nat := if x.a.fmt = 1 then 4 else 8

def pwOp (x : Ctx) (trans : Bool) (nel v : Nat) : ArrIn × Int :=
  let vec := x.arrVec nel v
  ({ n := deckField x, trans := trans, cr := false, bx := pwBits x, v := v, codes := vec.codes, drop := false }, vec.se)

def pwCheck (x : Ctx) : Option CErr :=
  let n := cwImm x.w
  let d := x.arrDeck (deckField x)
  let tk := pwTopk x
  firstErr
    [x.operandCheck [x.opdD (if tk then [9, 10] else [10]), x.opdA pwFmts, ⟨if pwFilter x then cwB x.w else 0xFF, pwFilter x, anyFmt⟩]
       (x.noFlags && x.zero 89 64 && decide (1 ≤ n) && decide (n ≤ if tk then 16 else 4) && (tk || !(pwFilter x))),
     firstErr (computeRights x),
     unlessOk (x.layerFree x.grantOf && x.a.holdsVecs n 1024 && (!tk || (x.d.entries % n == 0
       && (x.d.fmt == 9 || (List.range n).all fun v => (x.arrVec 1024 v).se == x.d.se)))) CErr.format,
     (if tk then none else holds x.d (n * d.columns)), (if pwFilter x then x.filterCheck d.columns else none), x.clean x.a, x.spadOnly]

def pwJob (x : Ctx) (trans : Bool) (nel per reg : Nat) : ArrJob :=
  { ops := (List.range (cwImm x.w)).map (pwOp x trans nel), reg := reg, per := per, rows := fun _ => 0, may := 0, extra := fun _ _ => 0 }

/-- The lists after a PW with TOPK = 1, and what the scores count. -/
def pwLists (x : Ctx) (j : ArrJob) (arr : List ArrDone) : List (List LEnt) × Nat :=
  let d := x.arrDeck (deckField x)
  let per := x.d.entries / cwImm x.w
  let one := fun (o : (ArrIn × Int) × ArrDone) =>
    let r := o.2.rep
    let ks := o.2.vals.mapIdx fun j v =>
      (j, d.columns * (192 * x.core + deckField x) + j,
       if x.d.fmt = 10 then BitVec.ofInt 32 (v * pow2 r) else f32ofDy false ⟨v, o.1.2 + r⟩, false)
    let sc := x.scores (pwFilter x) ks
    (bestK x.d.fmt per (x.used x.d (per * o.1.1.v) per ++ sc.es), sc.filtered)
  let out := (j.ops.zip arr).map one
  (out.map fun e => e.1 ++ List.replicate (per - e.1.length) LEnt.unused, (out.map (·.2)).sum)

def pwRun (x : Ctx) : Out :=
  let n := cwImm x.w
  let j := pwJob x false 1024 228 cPwOps
  let align := (cAlignCount, ((List.range n).filter fun v => (x.arrVec 1024 v).lost).length)
  let cyc := n * 228 + 24
  x.arrStep j Grade2.none [align] [] fun arr =>
    if pwTopk x then
      let (ls, filtered) := pwLists x j arr
      ({ SOut.of (x.putList x.d ls.flatten x.mem) cyc with counts := [(cFiltered, filtered)] }, 0)
    else x.arrWrite j none false cyc arr

/-! ## PWT (R132) -/

def pwtCheck (x : Ctx) : Option CErr :=
  let n := cwImm x.w
  let d := x.arrDeck (deckField x)
  firstErr
    [x.operandCheck [x.opdD [10, 11], x.opdA pwFmts, x.opdB false partialFmts]
       (x.flag12Only && accDest x && x.zero 91 64 && decide (1 ≤ n) && decide (n ≤ 4)),
     firstErr (computeRights x), unlessOk (x.layerFree x.grantOf && x.a.holdsVecs n d.columns) CErr.format,
     holds x.d (n * 1024), (if cwB x.w = 0xFF then none else holds x.b (n * 1024)), x.clean x.a, x.cleanOpt (cwB x.w), x.spadOnly]

def pwtRun (x : Ctx) : Out :=
  let n := cwImm x.w
  let nel := (x.arrDeck (deckField x)).columns
  let j := pwJob x true nel 456 cPwtOps
  x.arrStep j Grade2.none [(cAlignCount, ((List.range n).filter fun v => (x.arrVec nel v).lost).length)] []
    (x.arrWrite j (if cwB x.w = 0xFF then none else some x.b) (cwFlag12 x.w) (n * 456 + 24))

/-! ## CORRSEL (R141, R249) -/

def corrOff (x : Ctx) : Nat := fld x.w 99 84
def corrLayer (x : Ctx) : Nat := fld x.w 83 80
def corrEntry (x : Ctx) : Nat := x.c.layerEntry (corrLayer x)

/-- rows_left of a row-block (R141). -/
def Task.rowsLeftOf (t : Task) (entry layer b : Nat) : Nat := (mget t.rowsLeft (32 * layer + b)).getD (leCorrRows entry)

/-- Codes of the chunk, block-scaled inputs aligned per row-block of 1,024 elements. -/
def corrCodes (x : Ctx) : List Int :=
  let n := x.a.cap
  let cs := tabulate n fun i => engineCode x.a.fmt (x.a.code x.mem x.base (i / x.a.width) (i % x.a.width))
  if fmtBlock x.a.fmt then
    let es := tabulate n fun i => x.a.e8 x.mem x.base (i / x.a.width) (i % x.a.width)
    ((chunks 1024 cs).zip (chunks 1024 es)).flatMap fun e => (alignCodes e.2 e.1).2
  else cs

/-- Candidate order: larger excess, then lower index. -/
def candBefore (a b : Nat × Int) : Bool := decide (b.2.natAbs < a.2.natAbs) || (a.2.natAbs == b.2.natAbs && decide (a.1 < b.1))

def insertCand (e : Nat × Int) : List (Nat × Int) → List (Nat × Int)
  | [] => [e]
  | f :: l => if candBefore e f then e :: f :: l else f :: insertCand e l

def sortCands (l : List (Nat × Int)) : List (Nat × Int) := l.foldl (fun a e => insertCand e a) []

/-- Candidates of the list and the chunk, sorted. -/
def corrCands (x : Ctx) : List (Nat × Int) :=
  let old := if bitAt x.w 63 then [] else (mget x.t.cands (cwD x.w)).getD []
  let st := x.c.statics (corrLayer x)
  let wb := leWb (corrEntry x)
  let new := ((corrCodes x).mapIdx fun p c => (corrOff x + p, c - inWindowCode wb c)).filter fun e => e.2 != 0 && !(st.contains e.1)
  sortCands (old ++ new)

/-- Keep of a sorted list the first min(rows_left, CORR_MAX) of each row-block. -/
def corrKeep (x : Ctx) (l : List (Nat × Int)) : List (Nat × Int) :=
  l.foldl (fun acc e =>
    let b := e.1 / 1024
    if (acc.filter fun f => f.1 / 1024 == b).length < min (x.t.rowsLeftOf (corrEntry x) (corrLayer x) b) (leCorrMax (corrEntry x))
    then acc ++ [e] else acc) []

/-- The procedure of R141 over a sorted list: the corrected elements and rows_left. -/
def corrSelect (mx : Nat) (left : Nat → Nat) : List (Nat × Int) → List (Nat × Int) → SMap Nat → List (Nat × Int) × SMap Nat
  | [], sel, m => (sel, m)
  | e :: l, sel, m =>
    let b := e.1 / 1024
    let n := (mget m b).getD (left b)
    if sel.length < mx ∧ 0 < n then corrSelect mx left l (sel ++ [e]) (sins m b (n - 1)) else corrSelect mx left l sel m

def corrselCheck (x : Ctx) : Option CErr :=
  firstErr
    [x.operandCheck [x.opdD anyFmt, x.opdA crFmts]
       (x.noFlags && x.zero 79 64 && decide (cwImm x.w % 2 ^ 14 = 0) && leValid (corrEntry x) && leTask (corrEntry x) == x.task
        && (!(fmtBlock x.a.fmt) || (corrOff x % 1024 == 0 && x.a.cap % 1024 == 0))),
     x.clean x.a]

def corrselRun (x : Ctx) : Out :=
  let cands := corrCands x
  let kept := corrKeep x cands
  let last := bitAt x.w 62
  let layer := corrLayer x
  let (sel, left) := corrSelect (leCorrMax (corrEntry x)) (x.t.rowsLeftOf (corrEntry x) layer) kept [] []
  let dropped := cands.length - (if last then sel.length else kept.length)
  let bytes := (tabulate 8 fun q => sel[q]?).flatMap fun e => match e with
    | some (i, v) => toLe 4 i ++ toLe 4 (unsigned 32 v)
    | none => List.replicate 8 0xFF#8
  let m := if last then x.mem.write (x.d.rowAddr x.base 0) (bytes ++ List.replicate 192 0) else x.mem
  let o := { SOut.of m (15 + ceilDiv x.a.cap 64 + if last then 32 else 0) with
    grade := Grade2.when (decide (0 < dropped)) evCorrOverflow, counts := [(cCorrOverflow, dropped)] }
  let out := o.toOut x
  let t := out.core.task x.task
  let t := if last then
      { t with cands := sdel t.cands (cwD x.w), rowsLeft := left.foldl (fun m e => sins m (32 * layer + e.1) e.2) t.rowsLeft }
    else { t with cands := sins t.cands (cwD x.w) kept }
  { out with core := out.core.setTask x.task t }

/-! ## PROG and ERASE (R95-R105, R251) -/

/-- Only a program-class task programs or erases (R251). -/
def programOnly (x : Ctx) : Option CErr := unlessOk (x.t.klass == 5) (CErr.plain stAccessDenied)

def progWl (x : Ctx) : Nat := fld x.w 91 82
def progResume (x : Ctx) : Bool := bitAt x.w 81
def progFmt (x : Ctx) : Bool := bitAt x.w 80
def progCol (x : Ctx) : Bool := bitAt x.w 79

/-- The deck accepts the word-lines (R95, R104, R251). -/
def progState (x : Ctx) : Bool :=
  let d := x.deckAt (deckField x)
  let same := d.fmt4 == progFmt x && d.colcheck == progCol x
  if progResume x then
    decide (d.state = .incomplete) && !d.noResume && progWl x == d.pages / 17 && same
  else
    match d.state, d.job with
    | .erased, _ => progWl x == 0
    | .programming, some j => j.nextWl == progWl x && progWl x != 0 && same && j.task.isSome
    | _, _ => false

def progCheck (x : Ctx) : Option CErr :=
  firstErr
    [programOnly x,
     x.operandCheck [x.opdA anyFmt]
       (x.noFlags && decide (1 ≤ cwImm x.w) && decide (cwImm x.w ≤ 16) && decide (progWl x + cwImm x.w ≤ 1024)),
     unlessOk (decide (4 * cwImm x.w ≤ x.a.rows)) CErr.bound,
     unlessOk (!(progCol x) || x.c.dcmUsable x.t (fld x.w 78 70)) CErr.bound,
     unlessOk (decide (deckField x < 192) && x.deckRights (deckField x) [1] true) (CErr.plain stAccessDenied),
     unlessOk (progState x) (CErr.plain stDeckState), x.spadCheck]

/-- Word-line k of the command's data: the cells' codes, u = w + 128 or w + 8 (R90, R91). -/
def progLine (x : Ctx) (k : Nat) : List Byte :=
  ((List.range 4).flatMap fun q => x.a.row x.mem x.base (4 * k + q)).map fun b => b ^^^ (if progFmt x then 0x88 else 0x80)

def progRun (x : Ctx) : Out :=
  let n := cwImm x.w
  let d := x.deckAt (deckField x)
  let lines := tabulate n (progLine x)
  let tok := [(progWl x + n - 1, x.w)]
  let crc := if progCol x then some (fld x.w 78 70, 16 * fld x.w 69 64) else none
  let job : ProgJob := match d.state, d.job with
    | .programming, some j => { j with nextWl := progWl x + n, data := j.data ++ lines, words := j.words ++ tok, crc := crc }
    | _, _ => { task := some x.task, cmd := none, nextWl := progWl x + n, data := lines, words := tok, source := none, crc := crc }
  let d := if d.state = .programming then { d with job := some job } else
    { d with state := .programming, fmt4 := progFmt x, colcheck := progCol x, enc := false, pages := 17 * progWl x, job := some job,
             queuedAt := some x.s.beat }
  { Out.of ((x.c.setDeck (x.c.deckPos (deckField x)) d).count x.spadCounts) 4 with defer := true, fx := x.spadFx }

/-- Why an erase is refused (R95, R105). -/
def eraseState (x : Ctx) : Option CErr :=
  let d := x.deckAt (deckField x)
  if d.state = .programming ∨ d.state = .erasing then some (CErr.plain stDeckState)
  else if d.state = .retired then some (CErr.plain (if d.worn then stWearLimit else stDeckState))
  else if 3000 ≤ d.wear then some { CErr.plain stWearLimit with fx := [.wearRetire (x.physDeck (deckField x))] }
  else none

def eraseCheck (x : Ctx) : Option CErr :=
  firstErr
    [programOnly x, x.operandCheck [] (x.zero 91 64 && x.noImm && x.noFlags),
     unlessOk (decide (deckField x < 192) && x.deckRights (deckField x) [1] true) (CErr.plain stAccessDenied), eraseState x]

def eraseRun (x : Ctx) : Out :=
  let d := { x.deckAt (deckField x) with
    state := .erasing, pulses := 400, eraseToken := if cwDone x.w then some (x.task, cwDoneTok x.w) else none, eraseCmd := none,
    eraseTask := some x.task, recorded := false, handover := false, queuedAt := some x.s.beat }
  { Out.of (x.c.setDeck (x.c.deckPos (deckField x)) d) 1 with defer := true, fx := [.abandon (x.physDeck (deckField x))] }

/-! ## Meanings -/

/-- CR (R128). -/
def execCr (core : Fin 256) (task : Fin 4) (chk : Check) (s : State) : Host.Outcome State Fault Refusal :=
  .next (s.issue 0x20 [0, 2, 5] crCheck crRun core.val task.val chk)

/-- PW (R131). -/
def execPw (core : Fin 256) (task : Fin 4) (chk : Check) (s : State) : Host.Outcome State Fault Refusal :=
  .next (s.issue 0x21 [0, 5] pwCheck pwRun core.val task.val chk)

/-- PWT (R132). -/
def execPwt (core : Fin 256) (task : Fin 4) (chk : Check) (s : State) : Host.Outcome State Fault Refusal :=
  .next (s.issue 0x22 [0, 5] pwtCheck pwtRun core.val task.val chk)

/-- PROG (R251). -/
def execProg (core : Fin 256) (task : Fin 4) (chk : Check) (s : State) : Host.Outcome State Fault Refusal :=
  .next (s.issue 0x23 [0] progCheck progRun core.val task.val chk)

/-- ERASE (R100). -/
def execErase (core : Fin 256) (task : Fin 4) (chk : Check) (s : State) : Host.Outcome State Fault Refusal :=
  .next (s.issue 0x24 [] eraseCheck eraseRun core.val task.val chk)

/-- CAL (R250): always ACCESS_DENIED from a plan. -/
def execCal (core : Fin 256) (task : Fin 4) (chk : Check) (s : State) : Host.Outcome State Fault Refusal :=
  .next (s.issue 0x25 [] (fun _ => some (CErr.plain stAccessDenied)) (fun x => Out.of x.c 0) core.val task.val chk)

/-- CORRSEL (R141). -/
def execCorrsel (core : Fin 256) (task : Fin 4) (chk : Check) (s : State) : Host.Outcome State Fault Refusal :=
  .next (s.issue 0x26 [0] (fun x => firstErr [corrselCheck x, x.spadCheck]) corrselRun core.val task.val chk)

end Sys2Proof.Machine
end

