-- ==== Sys2Proof/Machine/AesGcm.lean ====
section
/-!
DEFINITION. Sys2Proof/Machine/AesGcm.lean: AES-256-GCM decryption of install packages (R119, R120), as FIPS 197 and SP 800-38D define
it. The manual names the algorithm and does not restate it (log 23).
-/
namespace Sys2Proof.Machine

/-- Multiply by x in the AES field. -/
def xtime (a : Nat) : Nat := if a ≥ 128 then ((a * 2) ^^^ 0x11B) % 256 else a * 2

/-- Product in the AES field. -/
def gmulGo : Nat → Nat → Nat → Nat → Nat
  | 0, _, _, acc => acc
  | n + 1, a, b, acc => gmulGo n (xtime a) (b / 2) (if b % 2 = 1 then acc ^^^ a else acc)

def gmul (a b : Nat) : Nat := gmulGo 8 a b 0

/-- a^254, the inverse in the AES field (0 for 0). -/
def ginv (a : Nat) : Nat :=
  let a2 := gmul a a
  let a3 := gmul a2 a
  let a6 := gmul a3 a3
  let a12 := gmul a6 a6
  let a15 := gmul a12 a3
  let a30 := gmul a15 a15
  let a60 := gmul a30 a30
  let a120 := gmul a60 a60
  let a126 := gmul a120 a6
  let a127 := gmul a126 a
  gmul a127 a127

def rotl8 (b n : Nat) : Nat := ((b <<< n) ||| (b >>> (8 - n))) % 256

/-- The AES S-box. -/
def sbox (a : Nat) : Nat :=
  let b := ginv a
  b ^^^ rotl8 b 1 ^^^ rotl8 b 2 ^^^ rotl8 b 3 ^^^ rotl8 b 4 ^^^ 0x63

/-- Key expansion of AES-256: words are lists of 4 bytes; w holds the words so far, last first. -/
def aesExpand : Nat → Nat → Nat → List (List Nat) → List (List Nat)
  | 0, _, _, w => w.reverse
  | fuel + 1, i, rcon, w =>
    let prev := w.headD []
    let old := w.getD 7 []
    let t :=
      if i % 8 = 0 then
        match prev with
        | [a, b, c, d] => [sbox b ^^^ rcon, sbox c, sbox d, sbox a]
        | _ => prev
      else if i % 8 = 4 then prev.map sbox
      else prev
    aesExpand fuel (i + 1) (if i % 8 = 0 then xtime rcon else rcon) (List.zipWith (· ^^^ ·) old t :: w)

def aesKeys (key : List Byte) : List (List Nat) :=
  let ws := chunks 4 (key.map BitVec.toNat)
  (chunks 4 (aesExpand 52 8 1 ws.reverse)).map List.flatten

def aesShiftRows (s : List Nat) : List Nat := tabulate 16 fun i => s.getD ((i + 4 * (i % 4)) % 16) 0

def aesMixCol (c : List Nat) : List Nat :=
  tabulate 4 fun i =>
    gmul (c.getD i 0) 2 ^^^ gmul (c.getD ((i + 1) % 4) 0) 3 ^^^ c.getD ((i + 2) % 4) 0 ^^^ c.getD ((i + 3) % 4) 0

def xorBytes (a b : List Nat) : List Nat := List.zipWith (· ^^^ ·) a b

def aesRound (last : Bool) (s k : List Nat) : List Nat :=
  let t := aesShiftRows (s.map sbox)
  xorBytes (if last then t else (chunks 4 t).flatMap aesMixCol) k

/-- Encrypt one 16 B block under the 15 round keys. -/
def aesBlock (ks : List (List Nat)) (blk : List Nat) : List Nat :=
  let s0 := xorBytes blk (ks.headD [])
  let s13 := ((ks.drop 1).take 13).foldl (aesRound false) s0
  aesRound true s13 (ks.getD 14 [])

/-- Big-endian number of bytes. -/
def beNat (bs : List Nat) : Nat := bs.foldl (fun a b => 256 * a + b) 0

def toBe (k n : Nat) : List Nat := (toLe k n).reverse.map BitVec.toNat

/-- Product in GF(2^128), bits most significant first. -/
def ghashMulGo : Nat → Nat → Nat → Nat → Nat
  | 0, _, _, z => z
  | n + 1, x, v, z =>
    let z' := if (x >>> n) % 2 = 1 then z ^^^ v else z
    let v' := if v % 2 = 1 then (v / 2) ^^^ (0xE1 <<< 120) else v / 2
    ghashMulGo n x v' z'

def ghash (h : Nat) (blocks : List (List Nat)) : Nat :=
  blocks.foldl (fun y b => ghashMulGo 128 (y ^^^ (beNat b <<< (8 * (16 - b.length)))) h 0) 0

/-- Counter-mode key stream exclusive-or, block counter from c. -/
def gctrGo (ks : List (List Nat)) (iv : List Nat) : Nat → List (List Nat) → List Nat
  | _, [] => []
  | c, b :: bs => xorBytes b (aesBlock ks (iv ++ toBe 4 (c % 2 ^ 32))) ++ gctrGo ks iv (c + 1) bs

/-- The GCM tag of ciphertext ct with additional data aad. -/
def gcmTag (ks : List (List Nat)) (iv aad ct : List Nat) : List Nat :=
  let h := beNat (aesBlock ks (List.replicate 16 0))
  let s := ghash h (chunks 16 aad ++ chunks 16 ct ++ [toBe 8 (8 * aad.length) ++ toBe 8 (8 * ct.length)])
  xorBytes (toBe 16 s) (aesBlock ks (iv ++ toBe 4 1))

/-- Decrypt with a 12 B IV: the plaintext where the tag is right, none otherwise. -/
def gcmOpen (key iv aad ct tag : List Byte) : Option (List Byte) :=
  let ks := aesKeys key
  let ivn := iv.map BitVec.toNat
  let ctn := ct.map BitVec.toNat
  if gcmTag ks ivn (aad.map BitVec.toNat) ctn = tag.map BitVec.toNat then
    some ((gctrGo ks ivn 2 (chunks 16 ctn)).map (BitVec.ofNat 8))
  else none

end Sys2Proof.Machine
end

