-- ==== Sys2Proof/Machine/Part.lean ====
section
/-!
DEFINITION. Sys2Proof/Machine/Part.lean: the partition table: strap default, staged table, its checks and its entry into force
(R340, R352, R434, R435).
-/
namespace Sys2Proof.Machine

/-- Ports present for STRAP_BIF (R338). -/
def portsPresent (strapBif : BitVec 2) : List Nat :=
  match strapBif.toNat with
  | 1 => [0, 2]
  | 2 => [0]
  | _ => [0, 1, 2, 3]

/-- Ports that partition n would own under STRAP_PART, as a mask (R340). -/
def strapMask (strapPart : BitVec 2) (present : List Nat) (n : Nat) : Nat :=
  let m := fun (ps : List Nat) => (ps.filter fun p => present.contains p).foldl (fun a p => a + 2 ^ p) 0
  match strapPart.toNat with
  | 1 => m [n]
  | 2 => if n = 0 then m [0, 1] else if n = 1 then m [2, 3] else 0
  | _ => if n = 0 then m [0, 1, 2, 3] else 0

/-- The strap default of R340, with the device figures of R316. -/
def strapTable (g : Grade) (strapBif strapPart : BitVec 2) : PartTable :=
  let present := portsPresent strapBif
  let mask := strapMask strapPart present
  let live := (List.range 4).filter fun n => mask n ≠ 0
  let k := live.length
  let half := if g = .szt640 then 1 else 2
  let part := fun (total n : Nat) => if n = 0 then total / k + total % k else total / k
  let sram := fun n => if g = .szt640 then [part 8192 n, part 8192 n, part 8192 n, part 8192 n] else [part 8192 n, part 8192 n, 0, 0]
  { entries := tabulate 4 fun n =>
      if mask n = 0 then PartEntry.none else
        { valid := true, ports := mask n, share := part 65536 n, power := part 255 n, streams := part (8192 / half) n,
          genSlots := part (256 / half) n, cachePages := part (16384 / half) n, maxContext := 64 * part (16384 / half) n,
          queryInflight := part (4096 / half) n, queryBatch := 64, sram := sram n },
    seq := 0, commit := none }

/-- The staged entry of partition p (R436). -/
def State.stagedEntry (s : State) (p : Nat) : PartEntry :=
  let w := fun o => s.hubWord (rPtStage + 0x80 * p + o)
  { valid := bitAt (w 0) 31, ports := fld (w 0) 7 4, share := fld (w 4) 16 0, power := fld (w 8) 7 0, streams := (w 0x10).toNat,
    genSlots := (w 0x14).toNat, cachePages := (w 0x18).toNat, maxContext := (w 0x1C).toNat, queryInflight := (w 0x20).toNat,
    queryBatch := (w 0x24).toNat, sram := [(w 0x30).toNat, (w 0x34).toNat, (w 0x38).toNat, (w 0x3C).toNat] }

def State.stagedTable (s : State) : List PartEntry := tabulate 4 s.stagedEntry

/-- Fill PT_STAGE from the table in force (R436). -/
def State.stageFrom (s : State) : State :=
  (List.range 4).foldl (fun s p => ((s.part p).words p).foldl (fun s x => s.setHub (rPtStage + 0x80 * p + x.1) x.2) s) s

/-- ACTIVE of a submission ring (R350): enabled, or admitted commands not yet completed. -/
def State.sqActive (s : State) (p n : Nat) : Bool :=
  let r := (s.port p).sq n
  bitAt r.cfg 31 || r.inEffect || s.cmds.any fun c => c.port == p && c.sq == n

/-- ACTIVE of a completion ring: enabled. -/
def State.cqActive (s : State) (p n : Nat) : Bool := bitAt ((s.port p).cq n).cfg 31

def State.portActive (s : State) (p : Nat) : Bool := (List.range 64).any fun n => s.sqActive p n || s.cqActive p n

/-- Open streams of a partition (R316). -/
def State.openStreams (s : State) (q : Nat) : Nat :=
  (s.streams.filter fun e => e.2.state ≠ .free ∧ e.2.part = q).length

/-- The lowest code among the failed checks of R434 on a table; 0: it passes. -/
def State.tableCheck (s : State) (t : List PartEntry) : Nat :=
  let half := if s.grade = .szt640 then 1 else 2
  let e := fun p => t.getD p PartEntry.none
  let old := fun p => s.part p
  let vs := (List.range 4).filter fun p => (e p).valid
  let total := fun (f : PartEntry → Nat) => (vs.map fun p => f (e p)).sum
  let owner := fun (tab : Nat → PartEntry) (port : Nat) => (List.range 4).find? fun p => (tab p).valid && Nat.testBit (tab p).ports port
  if (List.range 4).any fun port => decide (1 < (vs.filter fun p => Nat.testBit (e p).ports port).length) then 1
  else if 65536 < total PartEntry.share then 2
  else if 8192 / half < total PartEntry.streams ∨ 256 / half < total PartEntry.genSlots ∨ 16384 / half < total PartEntry.cachePages
      ∨ 4096 / half < total PartEntry.queryInflight then 3
  else if (List.range 4).any fun r => decide (8192 < total fun x => x.sram.getD r 0) then 4
  else if (List.range s.nRegions).any fun r => (List.range 4).any fun p =>
      let mine := (frameBytes s.frame.active s.frame.len r).filter fun b => slotClass b != 0 && slotClass b != 7 && slotPart b == p
      decide ((if (e p).valid then (e p).share else 0) * 8 * s.frame.len / 65536 < mine.length) then 5
  else if (List.range 4).any fun p =>
      (!(e p).valid && (old p).valid && (decide (s.openStreams p ≠ 0) || (s.partPorts p).any s.portActive))
      || (decide (s.openStreams p ≠ 0) && (e p).valid && (old p).ports != 0 && (e p).ports == 0) then 6
  else if (List.range 4).any fun port => owner e port != owner old port && s.portActive port then 6
  else if vs.any fun p => (e p).maxContext % 64 != 0 || decide (64 * (e p).cachePages < (e p).maxContext) then 7
  else if vs.any fun p => let x := e p
      decide (8192 / half < x.streams ∨ 256 / half < x.genSlots ∨ 16384 / half < x.cachePages ∨ x.maxContext < 64
        ∨ 4096 / half < x.queryInflight ∨ x.queryBatch < 1 ∨ 64 < x.queryBatch) then 8
  else 0

/-- PT_COMMIT_GO (R434). -/
def ptCommitGo (v : Word) (s : State) : State :=
  if s.dead ∨ bitAt v 0 = false then s else { s with parts := { s.parts with commit := some (bitAt v 1) } }

/-- Check the staged table and put it in force or reject it (R434, R435). -/
def State.applyTable (s : State) : State :=
  match s.parts.commit with
  | none => s
  | some persist =>
    let t := s.stagedTable
    let code := s.tableCheck t
    let s := { s with parts := { s.parts with commit := none } }
    if code ≠ 0 then s.setHub rPtStatus (setFld (s.hubWord rPtStatus) 7 4 code)
    else
      let s := { s with parts := { entries := t, seq := s.parts.seq + 1, commit := none } }
      if persist then { s with config := ({ s.config with partTable := some s.parts } : Config).put (.partTable s.parts) } else s

/-- PARTITION_TABLE_APPLY (R434): at the next beat boundary. -/
def partitionTableApply (s : State) : State :=
  if s.dead ∨ s.parts.commit = none then s else (s.advanceTo s.nextBoundary).applyTable

def execPtCommitGo (v : Word) (s : State) : Host.Outcome State Fault Refusal := .next (ptCommitGo v s)
def execPartitionTableApply (s : State) : Host.Outcome State Fault Refusal := .next (partitionTableApply s)

end Sys2Proof.Machine
end

