-- ==== Sys2Proof/Machine/Boot.lean ====
section
/-!
DEFINITION. Sys2Proof/Machine/Boot.lean: the firmware image, the boot ROM's checks and the derived keys (R414-R421).
-/
namespace Sys2Proof.Machine

/-- A byte of the SPI flash; erased flash reads 0xFF (log entry 7, DESIGN CHOICE). -/
def State.flashByte (s : State) (a : Nat) : Byte := sget 0xFF s.flash a
def State.flashBytes (s : State) (a n : Nat) : List Byte := tabulate n fun i => s.flashByte (a + i)

/-- The signature's length (R4). -/
def signatureLen : Nat := 29792

/-- Fields of an image (R415); `rd a n` reads n bytes at offset a. -/
structure Image where
  magic : Nat
  hdrVersion : Nat
  keyIndex : Nat
  version : Nat
  svn : Nat
  bodyLen : Nat
  reserved : Bool
  publicKey : List Byte
  deriving DecidableEq, Repr

def imageOf (rd : Nat → Nat → List Byte) : Image :=
  { magic := leNat (rd 0 4), hdrVersion := leNat (rd 4 2), keyIndex := leNat (rd 6 1), version := leNat (rd 8 4), svn := leNat (rd 0x0C 4),
    bodyLen := leNat (rd 0x10 4), reserved := (rd 7 1 ++ rd 0x18 8 ++ rd 0x60 160).all fun b => b == 0, publicKey := rd 0x20 64 }

/-- Check 2 of R416. -/
def imageHeaderOk (h : Image) : Bool :=
  h.magic == 0x5A544657 && h.hdrVersion == 1 && h.bodyLen % 256 == 0 && decide (256 ≤ h.bodyLen) && decide (h.bodyLen ≤ 8358400)
  && decide (h.svn ≤ 64) && h.reserved

/-- Check 3 of R416; in BLANK only key index 0 boots (R425; log entry 35, DEDUCED). -/
def imageKeyOk (f : Fuses) (h : Image) : Bool :=
  decide (h.keyIndex < 4) && (f.keyDigests.getD h.keyIndex [] == sha3_256 h.publicKey) && !(f.revoked.getD h.keyIndex true)
  && (decide (f.life ≠ .blank) || h.keyIndex == 0)

/-- The signed bytes of an image (R415). -/
def signedBytes (rd : Nat → Nat → List Byte) (h : Image) : List Byte := rd 0 (256 + h.bodyLen)

/-- Checks 2 to 5 of R416 on an image; 0: they pass. -/
def imageCheck (f : Fuses) (rd : Nat → Nat → List Byte) : Nat :=
  let h := imageOf rd
  if imageHeaderOk h = false then 2
  else if imageKeyOk f h = false then 3
  else if h.svn < f.svn then 4
  else if Config.slhDsaVerify h.publicKey (signedBytes rd h) (rd (256 + h.bodyLen) signatureLen) = false then 5
  else 0

/-- The failing step's code of R416, 0 where the boot succeeds. -/
def State.bootCode (s : State) (up : StartUp) : Nat :=
  if s.fuses.life = .scrapped then 7
  else if up.flashAnswers = false then 1
  else match imageCheck s.fuses s.flashBytes with
    | 0 => if up.checkpoint then 0 else 6
    | c => c

def str (t : String) : List Byte := t.toList.map fun c => BitVec.ofNat 8 c.toNat

/-- The device identity key's material (R421). -/
def identityKey (secret : List Byte) : List Byte := shake256 96 (secret ++ str "ZT-ID")
/-- The alias key's material (R421). -/
def aliasKeyOf (secret digest : List Byte) (svn : Nat) : List Byte := shake256 96 (secret ++ str "ZT-AL" ++ digest ++ toLe 4 svn)

/-- In PROVISIONED and DEPLOYED each boot derives the two key pairs (R421). -/
def State.deriveKeys (s : State) : State :=
  if s.fuses.life = .provisioned ∨ s.fuses.life = .deployed then
    { s with verm := { s.verm with identity := some (identityKey s.fuses.secret),
                                   aliasKey := some (aliasKeyOf s.fuses.secret s.boot.digest s.boot.svn), certSigned := none } }
  else { s with verm := { s.verm with identity := none, aliasKey := none, certSigned := none } }

/-- The boot ROM's run (R416): the code of a failure, or the image in force and the keys. -/
def State.bootRom (s : State) (up : StartUp) : State :=
  match s.bootCode up with
  | 0 =>
    let h := imageOf s.flashBytes
    let s := { s with boot := { s.boot with phase := .booted, keyIndex := h.keyIndex, version := BitVec.ofNat 32 h.version, svn := h.svn,
                                            digest := sha3_256 (signedBytes s.flashBytes h) } }
    s.deriveKeys
  | c => { s with boot := { s.boot with phase := .failed c } }

/-- Serving of the sideband beyond recovery's messages (R417). -/
def State.managed (s : State) : Bool :=
  !s.latches.tripped && (decide (s.boot.phase = .booted) || decide (s.boot.phase = .ready))

/-- The device is not at L3 and its firmware runs: messages that change state are accepted. -/
def State.manageable (s : State) : Bool := s.managed && !s.latches.l3

end Sys2Proof.Machine
end

