-- ==== Sys2Proof/Machine/Mgmt.lean ====
section
/-!
DEFINITION. Sys2Proof/Machine/Mgmt.lean: management over the sideband: install keys, key revocation, certificate, firmware update,
SPDM, PLDM sensors, transport, tamper and the anti-rollback counter (R418-R433).
-/
namespace Sys2Proof.Machine

/-- Completion codes of the vendor messages (R432). -/
def ccSuccess : Nat := 0
def ccRefused : Nat := 1
def ccBusy : Nat := 2
def ccInvalid : Nat := 3

/-! ## Install keys (R427, R428) -/

/-- KEY_BUSY: an admitted command names the slot. -/
def State.keyBusy (s : State) (slot : Nat) : Bool := s.cmds.any fun c => c.keySlot == some slot

def keySet (slot owner : Nat) (key : List Byte) (s : State) : State :=
  if s.manageable = false then s
  else if key.length ≠ 32 then s.answer ccInvalid []
  else if s.keyBusy slot then s.answer ccRefused []
  else { s with verm := { s.verm with slots := sput none s.verm.slots slot (some (key, owner)) } }.answer ccSuccess []

def keyClear (slot : Nat) (s : State) : State :=
  if s.manageable = false then s
  else if s.keyBusy slot then s.answer ccRefused []
  else { s with verm := { s.verm with slots := sput none s.verm.slots slot none } }.answer ccSuccess []

/-- KEY_REVOKE (R419). -/
def keyRevoke (index : Nat) (s : State) : State :=
  if s.manageable = false then s
  else if index = s.boot.keyIndex ∨ s.fuses.keyDigests.getD index [] = [] then s.answer ccRefused []
  else { s with fuses := { s.fuses with revoked := s.fuses.revoked.set index true } }.answer ccSuccess []

/-- CERT_WRITE: the identity certificate, in PROVISIONED only (R432). -/
def certWrite (cert : List Byte) (s : State) : State :=
  if s.manageable = false then s
  else if s.fuses.life ≠ .provisioned then s.answer ccRefused []
  else { s with config := ({ s.config with cert := cert } : Config).put (.cert cert) }.answer ccSuccess []

/-! ## Firmware update (R420): PLDM results are 0 for success, 1 for failure; message 1 RequestUpdate, 2 VerifyComplete,
3 ApplyComplete, 4 ActivateFirmware. -/

/-- The update is served while the firmware or the recovery ROM runs (R417). -/
def State.updatable (s : State) : Bool := !s.dead && decide (s.boot.phase ≠ .start)

def requestUpdate (_bytes : Nat) (s : State) : State :=
  if s.updatable = false then s
  else match s.stageFree 0x800000 with
    | none => s.emit (.update 1 1)
    | some b => { s with mgmt := { s.mgmt with update := .receiving b 0 } }.emit (.update 1 0)

def stagedImage (s : State) (base : Nat) (a n : Nat) : List Byte := s.staging.read (base + a) n

/-- One transfer of the image; after the last the held image is verified (R420 steps 2 and 3). -/
def requestFirmwareData (offset : Nat) (data : List Byte) (last : Bool) (s : State) : State :=
  match s.mgmt.update with
  | .receiving b len =>
    if s.updatable = false ∨ 1024 < data.length ∨ 0x800000 < offset + data.length then s else
    let s := { s with staging := s.staging.write (b + offset) data }
    let len := max len (offset + data.length)
    if last then
      if imageCheck s.fuses (stagedImage s b) = 0 then
        { s with mgmt := { s.mgmt with update := .verified b len } }.emit (.update 2 0)
      else { s with mgmt := { s.mgmt with update := .idle } }.emit (.update 2 1)
    else { s with mgmt := { s.mgmt with update := .receiving b len } }
  | _ => s

/-- The whole flash after the image has been written: erased, then the image at offset 0 (R420 step 4). -/
def flashOf (image : List Byte) : SMap Byte :=
  ((List.range image.length).zip image).filter fun e => e.2 ≠ 0xFF

/-- APPLY_COMPLETE (R420 step 4): on a failed compare one byte of the flash holds a free value (log entry 34, DESIGN CHOICE). -/
def applyComplete (ok : Bool) (s : State) : State :=
  match s.mgmt.update with
  | .verified b len =>
    if s.updatable = false then s else
    let fl := flashOf (s.staging.read b len)
    if ok then { s with flash := fl, mgmt := { s.mgmt with update := .applied } }.emit (.update 3 0)
    else
      let fl := sput 0xFF fl (s.free 0).toNat (BitVec.ofInt 8 (s.free 1))
      ({ s with flash := fl, mgmt := { s.mgmt with update := .idle } }.emit (.update 3 1)).tookFree
  | _ => s

/-! ## Anti-rollback and certificate -/

/-- FUSE_BLOW (R418): one fuse every 10 ms while the running SVN is above the counter. -/
def fuseBlow (s : State) : State :=
  if s.dead ∨ s.boot.phase ≠ .ready ∨ s.boot.svn ≤ s.fuses.svn then s else
  let s := s.advanceTo (second / 100 + s.mgmt.lastFuse)
  { s with fuses := { s.fuses with svn := s.fuses.svn + 1 }, mgmt := { s.mgmt with lastFuse := s.time.now } }

/-- ALIAS_CERT_SIGN (R421): the identity key signs the certificate of the alias key. -/
def aliasCertSign (s : State) : State :=
  match s.verm.identity, s.verm.aliasKey with
  | some idk, some alk =>
    if s.dead ∨ s.boot.phase ≠ .ready ∨ s.verm.certSigned.isSome then s else
    let tbs := Config.aliasTbs (Config.slhDsaPublic alk)
    { s with verm := { s.verm with certSigned := some (tbs ++ Config.slhDsaSign idk tbs s.freeCtr) } }.tookFree
  | _, _ => s

/-! ## SPDM (R422, R423) -/

def partBytes (es : List PartEntry) : List Byte :=
  (List.range 4).flatMap fun p => ((es.getD p PartEntry.none).words p).flatMap fun x => toLe 4 x.2.toNat

/-- SHA3-256 of the plans of a partition, in plan-number order (R423). -/
def State.plansMeasurement (s : State) (p : Nat) : List Byte :=
  sha3_256 ((s.plans.filter fun e => e.2.part == p).flatMap fun e => toLe 2 e.1 ++ planDigest e.2.image)

/-- Every deck of an install still holds it (R423). -/
def State.holdsInstall (s : State) (n : Nat) (i : Install) : Bool :=
  i.decks.all fun d => let x := (s.core (d / 192)).deck ((s.core (d / 192)).deckPos (d % 192))
                       decide (x.state = .ready) && x.installed == some n

def State.modelsMeasurement (s : State) (p : Nat) : List Byte :=
  sha3_256 ((s.installs.mapIdx fun n i => if i.part = p ∧ s.holdsInstall n i = true then
    toLe 4 (i.decks.headD 0) ++ toLe 4 i.decks.length ++ i.digest else []).flatten)

/-- The corpus measurement of the current epoch: none while it is not complete (R424). -/
def State.corpusMeasurement (s : State) (p : Nat) : Option (List Byte) :=
  match s.corpus? p with
  | none => some (List.replicate 64 0)
  | some c => match c.measured with
    | some (e, d) => if e = c.epoch then some d else none
    | none => none

def lifeCode : LifeCycle → Nat
  | .blank => 0
  | .provisioned => 1
  | .deployed => 2
  | .rma => 3
  | .scrapped => 4

def revokeBits (r : List Bool) : Nat := (List.range 4).foldl (fun a i => if r.getD i false then a + 2 ^ i else a) 0

/-- The value of a measurement; none where it is not ready, some [] where there is no such index. -/
def State.measurement (s : State) (i : Nat) : Option (List Byte) :=
  if i = 1 then some Config.bootRomDigest
  else if i = 2 then some s.boot.digest
  else if i = 3 then some (toLe 4 s.boot.version.toNat ++ toLe 4 s.boot.svn)
  else if i = 4 then some (toLe 1 (lifeCode s.fuses.life) ++ toLe 1 (revokeBits s.fuses.revoked) ++ toLe 2 s.fuses.svn)
  else if i = 5 then some (Config.configMeasurement
      (partBytes s.parts.entries ++ s.frame.active.flatMap (fun w => toLe 4 w.toNat) ++ toLe 4 s.frame.len
        ++ toLe 4 (s.config.pwrCfg.getD (hubReset rPwrCfg)).toNat ++ toLe 4 (s.config.thermCfg.getD (hubReset rThermCfg)).toNat))
  else if 0x10 ≤ i ∧ i < 0x14 then some (s.plansMeasurement (i - 0x10))
  else if 0x20 ≤ i ∧ i < 0x24 then some (s.modelsMeasurement (i - 0x20))
  else if 0x24 ≤ i ∧ i < 0x28 then s.corpusMeasurement (i - 0x24)
  else some []

/-- Every index of R423. -/
def measureIndices : List Nat := [1, 2, 3, 4, 5] ++ tabulate 4 (fun p => 0x10 + p) ++ tabulate 8 (fun p => 0x20 + p)

/-- The measurements that a request names; none where one is not ready. -/
def State.measureList (s : State) (index : Nat) : Option (List (Nat × List Byte)) :=
  if index = 0xFF then measureIndices.mapM fun i => (s.measurement i).map fun d => (i, d)
  else (s.measurement index).map fun d => [(index, d)]

/-- The certificate chain of slot 0: root, identity and alias certificate (R422). -/
def State.chain (s : State) : List Byte := Config.rootCert ++ s.config.cert ++ s.verm.certSigned.getD []

/-- ResponseNotReady, with an RDTExponent of 18 and a token for RESPOND_IF_READY (R422). -/
def State.notReady (s : State) (r : SpdmRequest) (signed : Bool) : State :=
  let t := s.mgmt.nextToken
  { s with mgmt := { s.mgmt with waiting := some { token := t, request := r, signed := signed }, nextToken := t + 1 } }.emit
    (.spdm (.notReady t 18))

/-- Can a signature be made now: the alias certificate exists and no other signature is being made (R422)? -/
def State.canSign (s : State) : Bool := s.verm.certSigned.isSome && decide (s.mgmt.signUntil ≤ s.time.now)

/-- Sign with the alias key; the signer is taken for 250 ms (R422; log entry 33, DEDUCED). -/
def State.signedAnswer (s : State) (m : List Byte) (mk : List Byte → SpdmAnswer) : State :=
  let sig := Config.slhDsaSign (s.verm.aliasKey.getD []) m s.freeCtr
  ({ s with mgmt := { s.mgmt with signUntil := second / 4 + s.time.now, waiting := none } }.emit (.spdm (mk sig))).tookFree

/-- Answer a request that may need a signature. -/
def spdmServe (r : SpdmRequest) (signed : Bool) (s : State) : State :=
  if s.managed = false then s
  else if signed ∧ s.mgmt.negotiated = false then s.emit (.spdm .unsupportedRequest)
  else match r with
  | .challenge nonce =>
    if s.canSign then s.signedAnswer (sha3_256 s.chain ++ nonce) .challengeAuth else s.notReady r true
  | .measurements index nonce =>
    match s.measureList index with
    | none => s.notReady r signed
    | some vs =>
      if signed then
        if s.canSign then s.signedAnswer ((vs.flatMap fun v => toLe 1 v.1 ++ v.2) ++ nonce) (.measurements vs) else s.notReady r true
      else s.emit (.spdm (.measurements vs []))

def getVersion (s : State) : State :=
  if s.managed = false then s else { s with mgmt := { s.mgmt with negotiated := false } }.emit (.spdm .version)

def getCapabilities (s : State) : State :=
  if s.managed = false then s else s.emit (.spdm .capabilities)

/-- The algorithm of R422 in ExtAsym. -/
def slhExt : ExtAsym := { registry := 3, vendor := 0x1C5E, algorithm := 1 }

def negotiateAlgorithms (ext : List ExtAsym) (s : State) : State :=
  if s.managed = false then s else
  let ok := ext.contains slhExt
  { s with mgmt := { s.mgmt with negotiated := ok } }.emit (.spdm (.algorithms ok))

def getDigests (s : State) : State := if s.managed = false then s else s.emit (.spdm (.digests (sha3_256 s.chain)))

def getCertificate (slot offset len : Nat) (s : State) : State :=
  if s.managed = false then s
  else if slot ≠ 0 then s.emit (.spdm .unexpected)
  else s.emit (.spdm (.certificate ((s.chain.drop offset).take len)))

def respondIfReady (token : Nat) (s : State) : State :=
  match s.mgmt.waiting with
  | some w => if w.token = token then spdmServe w.request w.signed s else if s.managed then s.emit (.spdm .unexpected) else s
  | none => if s.managed then s.emit (.spdm .unexpected) else s

/-! ## PLDM sensors, transport -/

/-- GET_SENSOR_READING (R433): sensors 0-4 TEMP_MAX, 5 AVG_POWER, 6 LAST_BEAT_POWER, 7 fault level (log entry 32, DESIGN CHOICE); the request may
turn event generation on or off. -/
def getSensorReading (sensor : Nat) (events : Option Bool) (s : State) : State :=
  if s.managed = false then s else
  let s := match events with
    | some b => { s with mgmt := { s.mgmt with eventsOn := b } }
    | none => s
  if sensor < 5 then
    let t := if sensor < 4 then (s.region sensor).temp else s.power.hubTemp
    let th := fld (s.hubWord rThermCfg) 6 0
    let th := if 85 ≤ th ∧ th ≤ 100 then th else 95
    s.emit (.sensor sensor t (decide ((th : Int) ≤ t)) (decide (110 ≤ t)))
  else if sensor = 5 then s.emit (.sensor 5 (s.hubWord rAvgPower).toNat false false)
  else if sensor = 6 then s.emit (.sensor 6 (s.hubWord rLastBeatPower).toNat false false)
  else if sensor = 7 then s.emit (.sensor 7 s.faultLevel (decide (1 ≤ s.faultLevel)) (decide (2 ≤ s.faultLevel)))
  else s

/-- MCTP_CONTROL (R431): answered by the firmware or, in recovery, by the boot ROM (R417). -/
def mctpControl (code : Byte) (s : State) : State :=
  if s.latches.tripped ∨ s.boot.phase = .start then s else s.emit (.mctp code)

/-- The transport of the sideband changes. -/
def State.setSideband (s : State) (b : Sideband) : State := { s with mgmt := { s.mgmt with sideband := b } }

/-- SMBUS_FALLBACK (R431): 1 s after power good with no dynamic address. -/
def smbusFallback (s : State) : State :=
  if s.dead ∨ s.mgmt.sideband ≠ .none then s
  else
    (s.advanceTo (second + s.mgmt.powerGoodAt)).setSideband .smbus

/-- DYNAMIC_ADDRESS_ASSIGNMENT (R431). -/
def dynamicAddress (addr : BitVec 7) (s : State) : State :=
  if s.latches.tripped then s else s.setSideband (.i3c addr)

/-! ## Tamper (R429, R430) -/

def tamperBit : TamperCause → Nat
  | .tamper0 => 0
  | .tamper1 => 1
  | .volt => 2
  | .clk => 3
  | .temp => 4

/-- Enable bit of a cause in TAMPER_CFG (R436). -/
def tamperEnable : TamperCause → Nat
  | .tamper0 => 0
  | .tamper1 => 0
  | .volt => 1
  | .clk => 2
  | .temp => 3

/-- Every SRAM of a core zeroised (R430). -/
def Core.zeroSram (c : Core) : Core := { c.settled with scratch := [], side := [], dcm := [], parity := [] }

def State.zeroise (s : State) : State := { s.mapCores (fun _ c => c.zeroSram) with staging := [], streams := [] }

def tamper (cause : TamperCause) (s : State) : State :=
  if s.latches.tripped ∨ bitAt (s.hubWord rTamperCfg) (tamperEnable cause) = false then s else
  let s := { s with verm := Vermilion.init }
  let s := s.hubOr rTamperCause (BitVec.ofNat 32 (2 ^ tamperBit cause))
  let zero := bitAt (s.hubWord rTamperCfg) 4
  let s := s.reportOnly 26 0 3
  if zero then s.zeroise else s

/-! ## The meanings -/

def execKeySet (slot : Fin 32) (owner : Fin 4) (key : List Byte) (s : State) : Host.Outcome State Fault Refusal :=
  .next (keySet slot.val owner.val key s)
def execKeyClear (slot : Fin 32) (s : State) : Host.Outcome State Fault Refusal := .next (keyClear slot.val s)
def execKeyRevoke (index : Fin 4) (s : State) : Host.Outcome State Fault Refusal := .next (keyRevoke index.val s)
def execCertWrite (cert : List Byte) (s : State) : Host.Outcome State Fault Refusal := .next (certWrite cert s)
def execRequestUpdate (imageBytes : Nat) (s : State) : Host.Outcome State Fault Refusal := .next (requestUpdate imageBytes s)
def execRequestFirmwareData (offset : Nat) (data : List Byte) (last : Bool) (s : State) : Host.Outcome State Fault Refusal :=
  .next (requestFirmwareData offset data last s)
def execApplyComplete (ok : Bool) (s : State) : Host.Outcome State Fault Refusal := .next (applyComplete ok s)
def execFuseBlow (s : State) : Host.Outcome State Fault Refusal := .next (fuseBlow s)
def execAliasCertSign (s : State) : Host.Outcome State Fault Refusal := .next (aliasCertSign s)
def execGetVersion (s : State) : Host.Outcome State Fault Refusal := .next (getVersion s)
def execGetCapabilities (s : State) : Host.Outcome State Fault Refusal := .next (getCapabilities s)
def execNegotiateAlgorithms (_hash _asym : BitVec 32) (ext : List ExtAsym) (s : State) : Host.Outcome State Fault Refusal :=
  .next (negotiateAlgorithms ext s)
def execGetDigests (s : State) : Host.Outcome State Fault Refusal := .next (getDigests s)
def execGetCertificate (slot offset len : Nat) (s : State) : Host.Outcome State Fault Refusal := .next (getCertificate slot offset len s)
def execChallenge (nonce : List Byte) (s : State) : Host.Outcome State Fault Refusal := .next (spdmServe (.challenge nonce) true s)
def execGetMeasurements (index : Nat) (signed : Bool) (nonce : List Byte) (s : State) : Host.Outcome State Fault Refusal :=
  .next (spdmServe (.measurements index nonce) signed s)
def execRespondIfReady (token : Nat) (s : State) : Host.Outcome State Fault Refusal := .next (respondIfReady token s)
def execGetSensorReading (sensor : Nat) (events : Option Bool) (s : State) : Host.Outcome State Fault Refusal :=
  .next (getSensorReading sensor events s)
def execMctpControl (code : Byte) (_data : List Byte) (s : State) : Host.Outcome State Fault Refusal := .next (mctpControl code s)
def execSmbusFallback (s : State) : Host.Outcome State Fault Refusal := .next (smbusFallback s)
def execDynamicAddressAssignment (addr : BitVec 7) (s : State) : Host.Outcome State Fault Refusal := .next (dynamicAddress addr s)
def execTamper (cause : TamperCause) (s : State) : Host.Outcome State Fault Refusal := .next (tamper cause s)

/-- MANAGEMENT_WATCHDOG_EXPIRY (R396): the Fatal event of source 24. -/
def managementWatchdogExpiry (s : State) : State := if s.dead then s else s.reportOnly 24 0 3

def execManagementWatchdogExpiry (s : State) : Host.Outcome State Fault Refusal := .next (managementWatchdogExpiry s)

/-- JTAG_INSTRUCTION (R454): IDCODE shifts out the code, BYPASS and, outside BLANK and RMA, every other instruction act as BYPASS. -/
def idcode (g : Grade) : Word :=
  BitVec.ofNat 32 (0x2E7 * 2 + 1 + 2 ^ 12 * (if g = .szt640 then 0x6400 else 0x3200) + 2 ^ 28 * Config.stepping.toNat)

def execJtagInstruction (instr : JtagInstr) (s : State) : Host.Outcome State Fault Refusal :=
  match instr with
  | .idcode => .next (s.emit (.jtag (idcode s.grade)))
  | .bypass => .next s
  | .other _ => if s.fuses.life = .blank ∨ s.fuses.life = .rma then .refused .jtagUnstated else .next s

end Sys2Proof.Machine
end

