-- ==== Sys2Proof/Machine/Storage.lean ====
section
/-!
DEFINITION. Sys2Proof/Machine/Storage.lean: what the charge-trap storage does over time: pages and erase pulses, pump grants, wear
snapshots, read-verify, refresh, re-trim, ownership changes (R96-R118, R150), and the end of a DCM rebuild (R187).
-/
namespace Sys2Proof.Machine

/-! ## Runs -/

/-- The core serves: not halted, bound to a physical core, its region in service. -/
def State.coreUp (s : State) (core : Nat) : Bool :=
  s.serving && (s.physOf core).isSome && decide ((s.region (regionOf core)).service = .inService)

/-- The run in progress in the core's region is a maintenance run (R48). -/
def State.inMaintenance (s : State) (r : Nat) : Bool :=
  match (s.region r).run with
  | some run => run.klass == 7
  | none => false

/-- ns as cycles at the region's point, rounded up (R223). -/
def State.cyclesOf (s : State) (r ns : Nat) : Nat := ceilDiv (ns * vfMhz100 (s.region r).point) 10

/-- The cycle of the run at which pump work of `ns` on a stack would end, where it fits the run's budget (R99, R100). -/
def State.pumpEnd (s : State) (core st ns : Nat) : Option Nat :=
  match (s.region (regionOf core)).run with
  | none => none
  | some run =>
    let e := max (s.runElapsed (regionOf core) run) (sget 0 (s.core core).busy st) + s.cyclesOf (regionOf core) ns
    if e ≤ run.budget then some e else none

/-- Occupy a stack until a cycle of the run. -/
def Core.hold (c : Core) (st e : Nat) : Core := { c with busy := sput 0 c.busy st e }

/-! ## Page programs (R98, R99, R103) -/

/-- Page time and pulse time in ns (R99, R100). -/
def pageNs : Nat := 5285
def pulseNs : Nat := 5000

/-- A cell of a byte is above its target (R103, R104). -/
def cellAbove (old new : Byte) : Bool := (List.range 4).any fun k => decide (fld new (2 * k + 1) (2 * k) < fld old (2 * k + 1) (2 * k))

/-- The first read-verify pass after power-up is not over: a READY deck of the region has not been read (R116). Until then no other
maintenance work runs there. -/
def State.firstPass (s : State) (r : Nat) : Bool :=
  s.cores.any fun e => regionOf e.1 == r && e.2.decks.any fun d => decide (d.2.state = .ready) && d.2.verifiedAt.isNone

/-- A maintenance run of the region is in progress, free for work other than read-verify. -/
def State.maintains (s : State) (r : Nat) : Bool := s.inMaintenance r && !(s.firstPass r)

/-- The partition for which a job programs. -/
def State.jobPart (s : State) (c : Core) (j : ProgJob) : Option Nat :=
  match j.task, j.cmd with
  | some t, _ => some (c.task t).part
  | none, some id => (s.cmd? id).map (·.part)
  | none, none => none

/-- The word-line being programmed, where the run lets the job go on: a program-class run of its partition, or for a refresh a
maintenance run in which the stack is not being calibrated (R99, R114). -/
def State.jobLine (s : State) (core k : Nat) (d : Deck) (j : ProgJob) : Option (List Byte) :=
  let c := s.core core
  match (s.region (regionOf core)).run with
  | none => none
  | some run =>
    match j.source with
    | some src => if run.klass = 7 ∧ s.firstPass (regionOf core) = false ∧ (c.stack (k / 9)).retrim = none then some ((c.deck src).cells.read (1024 * (d.pages / 17)) 1024) else none
    | none => if run.klass = 5 ∧ s.jobPart c j = some run.part then j.data.head? else none

/-- Level of the calibration reference cell k of a word-line: L0, L3, and L1 or L2, in each column group (R148). -/
def refLevel (wl k : Nat) : Nat := if k % 3 = 0 then 0 else if k % 3 = 1 then 3 else 1 + wl % 2

/-- The 64 reference cells of a word-line: 16 for drift, of which word-line 0 keeps the wear count, and 48 for calibration (R92, R148). -/
def Deck.refBytes (d : Deck) (wl : Nat) : List Byte :=
  let drift := tabulate 4 (Config.driftPattern wl)
  (if wl = 0 then d.aux.read 96 2 ++ drift.drop 2 else drift)
  ++ tabulate 12 fun b => BitVec.ofNat 8 ((List.range 4).map fun q => 4 ^ q * refLevel wl (4 * b + q)).sum

/-- Number of 1 bits. -/
def onesIn (l : List Byte) : Nat := (l.map fun b => ((List.range 8).filter fun i => bitAt b i).length).sum

/-- The 128 check bits of a row: BCH parity, overall parity, row-closed (R92, R108). -/
def checkBytes (row : List Byte) : List Byte :=
  let p := (Config.bchParity row).toNat
  toLe 16 (p + 2 ^ 126 * ((onesIn row + onesIn (toLe 16 p)) % 2) + 2 ^ 127)

/-- Bytes of page g of a word-line: 64 for a column group, 32 for the control group (R98). -/
def Deck.pageBytes (d : Deck) (line : List Byte) (g : Nat) : List Byte :=
  if g < 16 then (line.drop (64 * g)).take 64 else d.refBytes (d.pages / 17) ++ checkBytes line

/-- What the page holds now. -/
def Deck.pageCells (d : Deck) : List Byte :=
  let wl := d.pages / 17
  let g := d.pages % 17
  if g < 16 then d.cells.read (1024 * wl + 64 * g) 64 else d.aux.read (128 * wl + 96) 32

/-- The old and new bytes of a page hold a cell above its target. -/
def Deck.overshoots (d : Deck) (line : List Byte) : Bool :=
  (d.pageCells.zip (d.pageBytes line (d.pages % 17))).any fun e => cellAbove e.1 e.2

/-- The cell of a bit-line of a word-line. -/
def Deck.lineCell (d : Deck) (wl b : Nat) : Nat := if b < 4096 then cellAt d.cells (1024 * wl) b else cellAt d.aux (128 * wl) (b - 4096)

/-- The page's cells, and with them the redundant bit-lines that replace bit-lines of the page (R98). -/
def Deck.writePage (d : Deck) (line : List Byte) : Deck :=
  let wl := d.pages / 17
  let g := d.pages % 17
  let bs := d.pageBytes line g
  let d := if g < 16 then { d with cells := d.cells.write (1024 * wl + 64 * g) bs } else { d with aux := d.aux.write (128 * wl + 96) bs }
  (d.replaced.filter fun e => if g < 16 then e.1 / 256 == g else decide (4480 ≤ e.1)).foldl (fun d e =>
    { d with aux := putCell d.aux (128 * wl) (e.2 - 4096) (d.lineCell wl e.1) }) d

/-- A program that stops: INCOMPLETE and not resumable, its grant released (R103). -/
def Deck.stopProgram (d : Deck) : Deck :=
  { d.idle with state := .incomplete, noResume := true }

/-- ARRAY_PROGRAM_FAIL (R103): the commands that are programming end, the first with the status in its task's record. -/
def State.programFail (s : State) (core k : Nat) (j : ProgJob) : State :=
  let s := s.modCore core fun c => c.setDeck k (c.deck k).stopProgram
  let s := match j.task with
    | some t => s.modTask core t fun tk =>
        j.words.foldl (fun (tk : Task) (w : Nat × CmdWord) => { tk.doneToken w.2 with err := tk.err.take w.2 (CErr.plain stProgramFail) s.beat }) tk
    | none => s
  let s := match j.cmd.bind s.cmd? with
    | some c => s.setCmd { c with fail := some (c.fail.getD stProgramFail) }
    | none => s
  let s := s.faultEvent 16 (216 * core + k) 1
  if j.source.isSome then s.serveRefresh core (k / 9) else s

/-- A closed word-line: the commands whose last word-line it is end (R251). -/
def Task.closeLine (t : Task) (wl : Nat) (words : List (Nat × CmdWord)) : Task :=
  (words.filter fun w => w.1 == wl).foldl (fun t w => t.doneToken w.2) t

/-- The deck after its next page. The last control group makes it READY (R98, R251). -/
def Deck.nextPage (d : Deck) (j : ProgJob) (line : List Byte) : Deck :=
  let wl := d.pages / 17
  let g := d.pages % 17
  let d := { d.writePage line with pages := d.pages + 1 }
  if g < 16 then d else
  let j := { j with data := j.data.drop 1, words := j.words.filter fun w => w.1 != wl }
  if wl = 1023 then
    { d with state := .ready, holdsGrant := false, queuedAt := none, drift := 0, patched := [], noResume := false,
             copyDone := j.source.isSome, job := if j.source.isSome then some j else none }
  else { d with job := some j }

/-- PAGE_PROGRAM (R99): one page of a deck that holds a grant. -/
def pageProgram (i : Nat) (ok : Bool) (s : State) : State :=
  let core := i / 216
  let k := i % 216
  let c := s.core core
  let d := c.deck k
  if s.coreUp core = false ∨ s.power.dip.isSome ∨ d.state ≠ .programming ∨ d.holdsGrant = false then s else
  match d.job with
  | none => s
  | some j =>
    match s.jobLine core k d j, s.pumpEnd core (k / 9) pageNs, (s.region (regionOf core)).run with
    | some line, some e, some run =>
      let s := s.setCore core (c.hold (k / 9) (if j.source.isSome then run.budget else e))
      if ok = false ∨ d.overshoots line = true then s.programFail core k j
      else
        let wl := d.pages / 17
        let d' := { d.nextPage j line with verifiedAt := if d.pages = 17407 then some s.beat else d.verifiedAt }
        let s := s.modCore core fun c => c.setDeck k d'
        let s := match j.task with
          | some t => if d.pages % 17 = 16 then s.modTask core t fun tk => tk.closeLine wl j.words else s
          | none => s
        match decide (d'.state = .ready) && d.colcheck && j.source.isNone, j.crc with
        | true, some (dcm, row) => s.modCore core fun c => c.dcmStore (c.dcmView.write (dcmAddr dcm row) d'.crcTable)
        | _, _ => s
    | _, _, _ => s

/-! ## Erase pulses (R100) -/

/-- The logical deck of a physical deck, device-wide, none for a spare. -/
def State.deviceDeck (s : State) (i : Nat) : Option Nat :=
  ((s.core (i / 216)).logicalAt (i % 216)).map fun l => 192 * (i / 216) + 8 * (i % 216 / 9) + l

/-- May the erase go on in this run: a program-class run of the deck's owner for an erase that a command of the owner asked for, else a
maintenance run (R48, R100)? -/
def State.eraseRun (s : State) (i : Nat) (run : RegionRun) : Bool :=
  let d := s.deck i
  if d.eraseCmd.isSome || d.eraseTask.isSome then
    run.klass == 5 && (match s.deviceDeck i with
      | some n => ownerWrites (s.owner n) run.part
      | none => false)
  else run.klass == 7 && !(s.firstPass (regionOf (i / 216)))

/-- The erase has ended (R100, R105, R106): ERASED, every cell at L0 but the wear count, which is one higher. -/
def Deck.erased (d : Deck) : Deck :=
  ({ d.idle with cells := [], aux := [], pages := 0, state := .erased, noResume := false, patched := [],
                 drift := 0, enc := false, standIn := false, installed := none, handover := d.handover } : Deck).setWear (d.wear + 1)

/-- ARRAY_CFG.WEAR_WARN; values above 3,000 act as 3,000 (R105, R123). -/
def State.wearWarn (s : State) : Nat := min 3000 (fld (s.hubWord rArrayCfg) 27 16)

/-- Only a stack with a deck due has a refresh to serve. -/
def State.serveRefreshIf (s : State) (core st : Nat) : State :=
  if ((s.core core).nextRefresh st).isSome then s.serveRefresh core st else s

/-- The end of an erase: its token, the wear warning, and a refresh that waits for the deck. -/
def State.eraseEnd (s : State) (core k : Nat) : State :=
  let d := (s.core core).deck k
  let s := s.modCore core fun c => c.setDeck k d.erased
  let s := match d.eraseToken with
    | some (t, n) => s.modTask core t fun tk => tk.incToken n
    | none => s
  let s := if d.wear + 1 = s.wearWarn then s.faultEvent 17 (216 * core + k) 0 else s
  s.serveRefreshIf core (k / 9)

/-- Append an erase record: the deck and its count before the erase (R100). -/
def State.eraseRecord (s : State) (core k e : Nat) : State :=
  let c := s.core core
  let d := c.deck k
  let i := 216 * core + k
  let s := s.setCore core ((c.hold (k / 9) e).setDeck k { d with recorded := true })
  { s with config := ({ s.config with erases := (s.config.erases.filter fun x => x.1 != i) ++ [(i, d.wear)] } : Config).put (.erase i d.wear) }

/-- One pulse, until cycle e of the run. -/
def State.erasePulseDone (s : State) (core k e : Nat) : State :=
  let c := s.core core
  let d := c.deck k
  let s := s.setCore core ((c.hold (k / 9) e).setDeck k { d with pulses := d.pulses - 1 })
  if d.pulses ≤ 1 then s.eraseEnd core k else s

/-- ERASE_PULSE (R100): before the first of the 400 the erase record takes one page time; where the run has no room left after it, only
the pulse waits. -/
def erasePulse (i : Nat) (s : State) : State :=
  let core := i / 216
  let k := i % 216
  let c := s.core core
  let d := c.deck k
  if s.coreUp core = false ∨ s.power.dip.isSome ∨ d.state ≠ .erasing ∨ d.holdsGrant = false then s else
  match (s.region (regionOf core)).run with
  | none => s
  | some run =>
    if s.eraseRun i run = false then s else
    match d.recorded, s.pumpEnd core (k / 9) pageNs, s.pumpEnd core (k / 9) (if d.recorded then pulseNs else pageNs + pulseNs) with
    | false, none, _ => s
    | false, some e, none => s.eraseRecord core k e
    | false, some _, some e => (s.eraseRecord core k e).erasePulseDone core k e
    | true, _, none => s
    | true, _, some e => s.erasePulseDone core k e

/-! ## Pump grants (R101) -/

/-- Order of a request: its beat, then the device deck number; a spare comes after its stack's decks. -/
def State.grantKey (s : State) (i : Nat) (d : Deck) : Nat :=
  2 ^ 16 * d.queuedAt.getD 0 + 216 * (i / 216) + 9 * (i % 216 / 9) + ((s.core (i / 216)).logicalAt (i % 216)).getD 8

/-- Decks that hold a grant, by physical index. -/
def State.grants (s : State) : List Nat :=
  s.cores.flatMap fun e => (e.2.decks.filter fun d => d.2.holdsGrant).map fun d => 216 * e.1 + d.1

/-- Decks that wait for one. -/
def State.grantQueue (s : State) : List (Nat × Deck) :=
  s.cores.flatMap fun e => (e.2.decks.filter fun d => d.2.queuedAt.isSome && !d.2.holdsGrant).map fun d => (216 * e.1 + d.1, d.2)

/-- The earliest request whose stack holds no grant. -/
def State.nextGrant (s : State) : Option Nat :=
  let busy := s.grants.map fun i => i / 9
  let free := s.grantQueue.filter fun e => !(busy.contains (e.1 / 9))
  (free.foldl (fun (best : Option (Nat × Nat)) e =>
    let key := s.grantKey e.1 e.2
    match best with
    | some (b, i) => if key < b then some (key, e.1) else some (b, i)
    | none => some (key, e.1)) none).map (·.2)

/-- PUMP_GRANT (R101): at most 1,024 device-wide and one per stack. -/
def pumpGrant (s : State) : State :=
  if s.serving = false ∨ 1024 ≤ s.grants.length then s else
  match s.nextGrant with
  | none => s
  | some i => s.setDeck i { s.deck i with holdsGrant := true, queuedAt := none }

/-! ## Wear snapshot (R106) -/

/-- The wear counts of every deck, by physical index. -/
def State.wearCounts (s : State) : SMap Nat :=
  s.cores.flatMap fun e => (e.2.decks.filter fun d => d.2.wear != 0).map fun d => (216 * e.1 + d.1, d.2.wear)

/-- The counts of a region as a record. -/
def State.wearRecord (s : State) (r : Nat) : CfgData := .wear r (s.wearCounts.filter fun e => e.1 / 13824 == r)

def State.snapWear (s : State) : State :=
  { s with config := (List.range s.nRegions).foldl (fun (c : Config) r => c.put (s.wearRecord r)) { s.config with wear := s.wearCounts } }

/-- WEAR_SNAPSHOT (R106): in a beat whose number is a multiple of 2^20; hibernate entry takes its own. -/
def wearSnapshot (s : State) : State := if s.serving ∧ s.beat % 2 ^ 20 = 0 then s.snapWear else s

/-! ## Read-verify, patches (R113, R117, R118) -/

/-- The read-verify period in beats, 2^RV_PERIOD for 16-26; other values act as 22 (R113, R123). -/
def State.verifyPeriod (s : State) : Nat :=
  let n := fld (s.hubWord rArrayCfg) 12 8
  2 ^ (if 16 ≤ n ∧ n ≤ 26 then n else 22)

/-- The read-verify of a deck is due: never since power-up, or a period ago. -/
def State.verifyDue (s : State) (d : Deck) : Bool := match d.verifiedAt with
  | none => true
  | some b => decide (b + s.verifyPeriod ≤ s.beat)

/-- The column trims that a read-verify sets from 16 CR operations at AVG 4, where COLTRIM_EN is set (R152): their residuals are free values,
named by the free counter (log entry 111). -/
def State.trimColumns (s : State) (i : Nat) : State :=
  let core := i / 216
  let c := s.core core
  if bitAt (c.reg cAfeCtrl) 2 = false then s else
  let x := c.stack (i % 216 / 9)
  (s.setCore core ((c.inc64 cCrOps 16).setStack (i % 216 / 9) { x with colTrims := sins x.colTrims (i % 9) s.freeCtr })).tookFree

/-- READ_VERIFY (R113): one deck whose read-verify is due, in a maintenance run of its region. Of a spare that holds no weights only the
drift is measured; it waits behind the first pass over the READY decks (R116). -/
def readVerify (i : Nat) (rv : VerifyFind) (s : State) : State :=
  let core := i / 216
  let d := s.deck i
  let spare := (s.core core).logicalAt (i % 216) == none && decide (d.state ≠ .ready)
  if s.coreUp core = false ∨ s.inMaintenance (regionOf core) = false ∨ s.verifyDue d = false
      ∨ (d.state ≠ .ready ∧ (spare = false ∨ s.firstPass (regionOf core) = true)) then s else
  let s := s.setDeck i { d with drift := min 63 rv.drift, verifiedAt := some s.beat }
  if spare then s else
  let s := (s.hubInc rBchCorrected rv.corrected).trimColumns i
  let s := if rv.uncorrectable then (s.hubInc rUncorrectable 1).faultEvent 15 i 1 else s
  let logical := ((s.core core).logicalAt (i % 216)).isSome
  let s := if logical then rv.failedLines.foldl (fun s b => s.patchLine i b) s else s
  let s := if logical ∧ rv.deckFails then s.standIn i else s
  let due := logical && (decide (s.driftWindow < min 63 rv.drift) || decide (4 < rv.worstRow))
  if (s.deck i).refreshDue then s.serveRefresh core (i % 216 / 9) else if due then s.scheduleRefresh i else s

/-! ## Refresh swap (R114) -/

/-- Replace physical position p by q in the logical decks of a stack. -/
def Stack.swap (x : Stack) (p q : Nat) : Stack :=
  { x with pos := x.pos.map (fun y => if y = p then q else if y = q then p else y),
           spare := if x.spare = q then p else if x.spare = p then q else x.spare }

/-- The filled deck is trimmed by steps 3 and 4 of R153 for that deck alone: its group baselines under the stack's trims start anew, and
its column trims are set (R114, R153; log entry 111). -/
def State.trimDeck (s : State) (core q : Nat) : State :=
  (s.modCore core fun c =>
    let x := c.stack (q / 9)
    (c.setDeck q { c.deck q with est := [] }).setStack (q / 9) { x with colTrims := sins x.colTrims (q % 9) s.freeCtr }).tookFree

/-- REFRESH_SWAP (R114): the filled deck is trimmed, and at the next beat boundary the logical deck moves, and the swap is recorded. A deck
that was stood in for is retired at its old position (R118). -/
def refreshSwap (i : Nat) (s : State) : State :=
  let core := i / 216
  let k := i % 216
  if s.coreUp core = false then s else
  match (s.core core).refreshInto k with
  | none => s
  | some q =>
    if ((s.core core).deck q).copyDone = false then s else
    let s := (s.trimDeck core q).advanceTo s.nextBoundary
    let was := s.deck i
    let s := s.modCore core fun c =>
      let c := c.setStack (k / 9) ((c.stack (k / 9)).swap (k % 9) (q % 9))
      let c := c.setDeck q { c.deck q with copyDone := false, job := none }
      let c := c.setDeck k { c.deck k with refreshDue := false, standIn := false }
      if was.standIn then { c with standInDeck := none } else c
    let s := (s.hubInc rRefreshCount 1).setHub rRefreshPending (s.hubWord rRefreshPending - 1)
    let s := s.putSwaps (regionOf core)
    let s := if was.standIn then s.retireDeck i else s
    s.serveRefreshIf core (k / 9)

/-- The records that are live: an erase record is dead once the deck's own count exceeds the one it holds (R104). -/
def State.liveErases (s : State) : Config :=
  let open_ := fun (e : Nat × Nat) => decide ((s.deck e.1).wear ≤ e.2)
  let dead := s.config.erases.filter fun e => !(open_ e)
  { s.config with erases := s.config.erases.filter open_,
                  cfgStacks := s.config.cfgStacks.map fun x => { x with records := dead.foldl (fun m e => sdel m (32 + e.1)) x.records } }

/-- CONFIG_STACK_COMPACTION (R122): in a maintenance run, with a pump grant free, the live records of a data deck move to the stack's spare, which
takes its place, and the old deck is erased. -/
def configStackCompaction (r : Nat) (s : State) : State :=
  if s.serving = false ∨ s.maintains r = false ∨ 1024 ≤ s.grants.length then s else
  { s with config := s.liveErases.compact r }

/-! ## Full re-trim (R150) -/

/-- Cycles of a full re-trim: 64 CR at AVG 4, 64 PW and 64 PWT on each of 9 decks (R150). -/
def retrimCycles : Nat := 787968

/-- A re-trim at the region's point is due: 4,096 beats since the last, or more than 10 degrees away from it (R54, R150). -/
def State.retrimDue (s : State) (core st : Nat) : Bool :=
  let t := ((s.core core).stack st).trim (s.region (regionOf core)).point
  t.seed.isNone || decide (t.beat + 4096 ≤ s.beat) || decide (10 < (s.stackTemp core st - t.temp).natAbs)

/-- Cycles that the re-trim of a stack still needs, where it may go on or begin: RETRIM_EN set, nothing programmed or erased on the stack,
and no stack of the other tier of the slice re-trimming (R150). A re-trim begun at another point starts anew. -/
def State.retrimLeft (s : State) (core st : Nat) : Option Nat :=
  let c := s.core core
  let v := (s.region (regionOf core)).point
  if bitAt (c.reg cAfeCtrl) 1 = false ∨ ((List.range 9).any fun p => (c.deck (9 * st + p)).holdsGrant)
      ∨ (c.stk.any fun e => e.2.retrim.isSome && decide (e.1 / 12 ≠ st / 12)) then none
  else match (c.stack st).retrim with
    | some (p, n) => some (if p = v then n else retrimCycles)
    | none => if s.retrimDue core st then some retrimCycles else none

/-- The end of a re-trim: the trims of the region's point are new, and what it found is handled. A failed converter bank is source 20
(R155, R396). -/
def State.retrimEnd (s : State) (core st : Nat) (rt : RetrimFind) : State :=
  let v := (s.region (regionOf core)).point
  let t : Trim := { beat := s.beat, temp := s.stackTemp core st, resid := 0, seed := some s.freeCtr }
  let s := (s.modCore core fun c =>
    (((c.inc64 cCrOps 576).inc64 cPwOps 576).inc64 cPwtOps 576).setStack st { (c.stack st).setTrim v t with retrim := none }).tookFree
  let s := rt.failedLines.foldl (fun s e => if e.1 < 9 then s.patchLine (216 * core + 9 * st + e.1) e.2 else s) s
  if rt.bankFails then s.faultEvent 20 (24 * core + st) 2 else s

/-- FULL_RETRIM (R150): what the maintenance run in progress has left is worked on the stack's re-trim; the run that holds its last
cycle ends it. -/
def fullRetrim (core st : Nat) (rt : RetrimFind) (s : State) : State :=
  let r := regionOf core
  if s.coreUp core = false ∨ s.maintains r = false then s else
  match s.retrimLeft core st, (s.region r).run with
  | some n, some run =>
    let from_ := max (s.runElapsed r run) (sget 0 (s.core core).busy st)
    let k := min n (run.budget - from_)
    if k = 0 then s
    else
      let s := s.modCore core fun c => (c.hold st (from_ + k)).setStack st { c.stack st with retrim := some ((s.region r).point, n - k) }
      if k = n then s.retrimEnd core st rt else s
  | _, _ => s

/-! ## The end of a rebuild (R187) -/

/-- The contents of a rebuilt DCM, from its group, with the target's own contents, a reserve's, out of its group's parity: they are
zeros where no command has written (R187, R188). -/
def Core.restoreDcm (c : Core) (l r : Nat) : Core :=
  let data := if l < 512 then c.rebuilt l else c.groupParity (l - 512)
  let c := if l = r then c else c.dcmStore (c.dcmView.clear (dcmAddr r 0) 0x40000)
  if l < 512 then { c with dcm := data.foldl (fun m e => m.put e.1 e.2) c.dcm }
  else { c with parity := data.foldl (fun m e => m.put e.1 e.2) c.parity }

/-- REBUILD_COMPLETE: the reserve's position takes the lost number, the reserve's number is gone, and the next lost DCM follows. -/
def rebuildComplete (core : Nat) (s : State) : State :=
  let c := s.core core
  match c.rebuild with
  | none => s
  | some b =>
    if s.coreUp core = false then s else
    let l := b.lost
    let r := b.target
    let failed := c.dcmPos l
    let old := c.dcmInfo l
    let c' := c.restoreDcm l r
    let c' := c'.setDcmInfo l { c.dcmInfo r with lost := false, queued := false, gone := false, position := some (c.dcmPos r), deadFrom := old.deadFrom }
    let c' := if l = r then c' else c'.setDcmInfo r { Dcm.init with gone := true }
    let c' := { c' with reserves := c'.reserves.set (dcmTier l) none, consumed := c'.consumed ++ [r], rebuild := none,
                        retired := sins c'.retired (144 * dcmTier l + failed) (old.spareColumns, old.transient) }
    let c' := match c'.nextLost with
      | some n => c'.startRebuild n
      | none => c'
    let s := (s.setCore core c').addRepair (regionOf core)
      (repairRecord 3 (regionOf core) (core % 64) (dcmTier l) failed 0 r 14 s.beat)
    s.severeEnd 14 (576 * core + l)

/-! ## Ownership (R96, R97) -/

/-- DECK_OWNER_WRITE: a sideband write; the entry changes at a beat boundary. -/
def deckOwnerWrite (n : Nat) (v : Word) (s : State) : State :=
  if s.manageable = false ∨ 192 * s.nCores ≤ n then s
  else { s with ownerPending := sins s.ownerPending n (BitVec.ofNat 8 v.toNat) }

/-- The partitions that could read under the new value and not under the old one (R97). -/
def newReader (old new : Byte) : Bool := (List.range 4).any fun p => ownerReads new p && !(ownerReads old p)

/-- A command of the previous users is in flight on a deck: word-lines accepted and not closed, an erase they asked for, or a host
command that names it. -/
def State.deckInFlight (s : State) (i n : Nat) : Bool :=
  let d := s.deck i
  (match d.job with
   | some j => j.task.isSome && j.data != []
   | none => false)
  || (decide (d.state = .erasing) && (d.eraseCmd.isSome || d.eraseTask.isSome))
  || s.cmds.any fun c => c.decks.contains n

/-- DECK_OWNER_CHANGE (R97): at the next beat boundary with no such command in flight. An open program is abandoned; a deck that a new
reader would reach is erased first, and the change waits, while the previous users have no rights left. -/
def deckOwnerChange (n : Nat) (s : State) : State :=
  match mget s.ownerPending n with
  | none => s
  | some v =>
    let core := n / 192
    let k := (s.core core).deckPos (n % 192)
    let i := 216 * core + k
    if s.serving = false ∨ s.deckInFlight i n = true then s else
    let s := s.advanceTo s.nextBoundary
    let d := s.deck i
    let d := if d.state = .programming then d.stopProgram else d
    let old := s.owner n
    if newReader old v ∧ (d.state = .ready ∨ d.state = .incomplete ∨ d.state = .erasing) then
      let d' := if d.state = .erasing then d else d.startErase s.beat
      (s.setDeck i { d' with handover := true }).abandonRefresh i
    else
      let s := s.setDeck i { d with installed := none, handover := false }
      { s with deckOwner := sput 0 s.deckOwner n v, ownerPending := sdel s.ownerPending n }.putOwners (n / 12288)

/-- ERASE_ALL (R426): every deck that is not RETIRED is to be erased, in maintenance runs. -/
def eraseAll (s : State) : State :=
  if s.manageable = false then s else
  let go := fun (d : Deck) => if d.state = .ready ∨ d.state = .incomplete ∨ d.state = .programming then d.startErase s.beat else d
  (s.mapCores fun _ c => { c with decks := c.decks.map fun e => (e.1, go e.2) }).answer ccSuccess []

/-! ## Meanings -/

/-- PAGE_PROGRAM (R99). -/
def execPageProgram (deck : Nat) (ok : Bool) (s : State) : Host.Outcome State Fault Refusal := .next (pageProgram deck ok s)
/-- ERASE_PULSE (R100). -/
def execErasePulse (deck : Nat) (s : State) : Host.Outcome State Fault Refusal := .next (erasePulse deck s)
/-- PUMP_GRANT (R101). -/
def execPumpGrant (s : State) : Host.Outcome State Fault Refusal := .next (pumpGrant s)
/-- WEAR_SNAPSHOT (R106). -/
def execWearSnapshot (s : State) : Host.Outcome State Fault Refusal := .next (wearSnapshot s)
/-- READ_VERIFY (R113). -/
def execReadVerify (deck : Nat) (rv : VerifyFind) (s : State) : Host.Outcome State Fault Refusal := .next (readVerify deck rv s)
/-- REFRESH_SWAP (R114). -/
def execRefreshSwap (deck : Nat) (s : State) : Host.Outcome State Fault Refusal := .next (refreshSwap deck s)
/-- CONFIG_STACK_COMPACTION (R122). -/
def execConfigStackCompaction (r : Fin 4) (s : State) : Host.Outcome State Fault Refusal := .next (configStackCompaction r.val s)
/-- FULL_RETRIM (R150). -/
def execFullRetrim (core : Fin 256) (stack : Fin 24) (rt : RetrimFind) (s : State) : Host.Outcome State Fault Refusal :=
  .next (fullRetrim core.val stack.val rt s)
/-- REBUILD_COMPLETE (R187). -/
def execRebuildComplete (core : Fin 256) (s : State) : Host.Outcome State Fault Refusal := .next (rebuildComplete core.val s)
/-- DECK_OWNER_WRITE (R97). -/
def execDeckOwnerWrite (deck : Nat) (v : Word) (s : State) : Host.Outcome State Fault Refusal := .next (deckOwnerWrite deck v s)
/-- DECK_OWNER_CHANGE (R97). -/
def execDeckOwnerChange (deck : Nat) (s : State) : Host.Outcome State Fault Refusal := .next (deckOwnerChange deck s)
/-- ERASE_ALL (R426). -/
def execEraseAll (s : State) : Host.Outcome State Fault Refusal := .next (eraseAll s)

end Sys2Proof.Machine
end

