-- ==== Sys2Proof/Machine/Faults.lean ====
section
/-!
DEFINITION. Sys2Proof/Machine/Faults.lean: escalation and acknowledgement (R400), replay (R402), retirement and adoption of cores (R20,
R403), link retries, FLT_ALIVE (R407), injection controls (R406), self-test and the Scree walker (R408-R412).
-/
namespace Sys2Proof.Machine

/-! ## Escalation and acknowledgement (R400) -/

/-- FLT_CFG.ACK_TIMER; 0 acts as 128 (R413). -/
def State.ackTimer (s : State) : Nat :=
  let v := fld (s.hubWord rFltCfg) 15 0
  if v = 0 then 128 else v

/-- ESCALATION: a pending L1 event whose timer has expired becomes L2. -/
def escalation (src inst : Nat) (s : State) : State :=
  match (s.faultInst src inst).pending with
  | none => s
  | some b =>
    if s.dead ∨ s.beat < b + 1 + s.ackTimer then s
    else ((s.hubInc rEscalateCount 1).severeReport src inst).handleSevere src inst

/-- ATTENTION_ACK: a port's write of 1 to EVENT_STATUS.ATTENTION acknowledges every event pending for its partition. -/
def attentionAck (p : Nat) (s : State) : State :=
  if s.dead then s else
  let x := s.port p
  let s := s.setPort p { x with eventStatus := setFld x.eventStatus 1 1 0 }
  match s.portPart p with
  | none => s
  | some q => s.ackEvents fun f => f.parts.contains q

/-- FLT_ACK: a sideband write of 1 to bit n acknowledges every pending event of source n. -/
def fltAck (v : Word) (s : State) : State := if s.manageable = false then s else s.ackEvents fun f => bitAt v f.source

/-! ## Replay (R402) -/

/-- A task at the start of its unit: what the snapshot holds comes back; its counters and phase stay. -/
def Task.restore (t snap : Task) : Task :=
  { snap with queue := [], barriers := [], mcycle := t.mcycle, minstret := t.minstret, phaseTag := t.phaseTag, phaseNext := t.phaseNext }

/-- The handling has ended on every core of a plan: each is bound, none waits for adoption, every region is in service. -/
def State.handled (s : State) (image : List Byte) : Bool :=
  (planCores image).all fun c =>
    (s.physOf c).isSome && !(s.adoptions.any fun a => a.1 == c) && decide ((s.region (regionOf c)).service = .inService)

/-- REPLAY: the snapshot is restored on every core and the unit runs again; a step at the next step start. -/
def replay (n : Nat) (s : State) : State :=
  match s.plan? n, s.run? n with
  | some p, some r =>
    if s.serving = false ∨ r.broken = false ∨ r.fail.isSome ∨ s.handled p.image = false then s else
    let tk := planTask p.image
    let s := (planCores p.image).foldl (fun s c => s.modTask c tk fun t => t.restore (sget Task.init s.snaps (4 * c + tk))) s
    let stepped := planStepped p.image
    let s := s.setRun n { r with broken := false, replayed := true, events := r.events ||| evReplayed,
                                 inStep := if stepped then false else r.inStep, step := if stepped then r.step - 1 else r.step }
    s.hubInc rReplayCount 1
  | _, _ => s

/-! ## Retirement and adoption (R20, R403) -/

/-- At the next beat boundary no unit of a run that uses the core is under way: a stepped plan between steps, or in the last beat of its
step; no unstepped run. -/
def State.unitStart (s : State) (core : Nat) : Bool :=
  (s.plansOn core).all fun n => match s.plan? n, s.run? n with
    | some p, some r => planStepped p.image && (!r.inStep || decide (r.firstBeat + r.beats ≤ s.beat + 1))
    | _, _ => true

/-- CORE_RETIREMENT: a core due for retirement, in the last beat before the next unit start of its tasks. -/
def coreRetirement (core : Nat) (s : State) : State :=
  match mget s.retireDue core with
  | none => s
  | some src => if s.serving ∧ s.unitStart core = true then s.retireCore core src else s

/-- The record mirror of a train-class task (R336) as side memory: 64 KiB from row 0 of DCM_HI. -/
def Core.mirror (c : Core) (t : Task) : Mem :=
  (c.dcmView.filter fun e => decide (dcmAddr t.dcmHi 0 ≤ e.1 ∧ e.1 < 65536 + dcmAddr t.dcmHi 0)).map fun e => (e.1 - dcmAddr t.dcmHi 0, e.2)

/-- Bytes of sequencer code of a task, read from the CODE section of its plan in staging (R15, R236). -/
def State.codeOf (s : State) (core : Nat) (t : Task) : List Byte :=
  match s.plan? t.plan with
  | some p => if t.valid then s.staging.read (p.stagedCode core).1 (p.stagedCode core).2 else []
  | none => []

/-- Instruction memory of a core from the plans of its tasks. -/
def State.imemOf (s : State) (core : Nat) (c : Core) : Mem :=
  c.tasks.foldl (fun m t => if t.valid then m.write (1024 * t.imemBase) (s.codeOf core t) else m) []

/-- SPARE_CORE_ADOPTION: the binding changes at the next beat boundary; the retired core's scratchpad, side memory and queue are lost,
the instruction memory is loaded, records come from the mirror, and the repair map records the binding. Work in progress is replayed. -/
def spareCoreAdoption (core : Nat) (s : State) : State :=
  match s.adoptions.find? fun a => a.1 == core with
  | none => s
  | some (_, q, src) =>
    if s.serving = false then s else
    let s := s.advanceTo s.nextBoundary
    let busy := (s.plansOn core).filter fun n => match s.run? n with
      | some r => r.inStep && !r.broken
      | none => false
    let s := (busy.foldl (fun s n => s.breakUnit n) s).restartBatches core
    let s := { s with adoptions := s.adoptions.filter fun a => a.1 != core, coreMap := sput none s.coreMap core (some (some q)) }
    let s := s.modCore core fun c =>
      let c := c.settled
      { c with scratch := [], imem := s.imemOf core c, tasks := c.tasks.map fun t => { t with queue := [], arr := [] },
               side := match c.tasks.find? fun t => t.valid && t.klass == 4 with
                 | some t => c.mirror t
                 | none => [] }
    s.addRepair (regionOf core) (repairRecord 1 (regionOf core) (q % 68) 0 0 0 (core % 64) src s.beat)

/-- COMMAND_COMPLETION_WATCHDOG: no command has completed for 2^20 cycles: the Severe event of CORE_LOGIC (R396). -/
def commandCompletionWatchdog (core : Nat) (s : State) : State :=
  if s.serving ∧ (s.physOf core).isSome then s.faultEvent 8 (s.physInst core) 2 else s

/-- The hops of the ring: five, or on the SZT-320 the two of its chain; the other links are powered off (R12, R14). -/
def State.hopPresent (s : State) (hop : Nat) : Bool := decide (hop < if s.grade = .szt640 then 5 else 2)

/-- LINK_FLIT_RETRY: a die-to-die flit retried (L0), or its retry exhausted (L3) (R396). -/
def linkFlitRetry (hop : Nat) (exhausted : Bool) (s : State) : State :=
  if s.dead ∨ !(s.hopPresent hop) then s else s.reportOnly 21 hop (if exhausted then 3 else 0)

/-! ## FLT_ALIVE (R407) -/

/-- The next instant at which FLT_ALIVE toggles: a beat boundary of a number that is a multiple of 8, after the last edge. -/
def State.nextAlive (s : State) : Nat :=
  let t := match s.latches.aliveAt with
    | some a => max s.time.now (a + 1)
    | none => s.time.now
  ceilDiv (ceilDiv t s.beatNs) 8 * 8 * s.beatNs

def fltAlive (s : State) : State :=
  if s.serving = false then s else
  let s := s.advanceTo s.nextAlive
  let level := !s.latches.fltAlive
  { s with latches := { s.latches with fltAlive := level, aliveAt := some s.time.now } }.emit (.pin "FLT_ALIVE" level)

/-! ## Injection controls (R406) -/

/-- INJ_CTRL_ARM: a write of INJ_CTRL, ignored once injection is locked. ARM with a COUNT arms that many accesses. -/
def injCtrlArm (v : Word) (s : State) : State :=
  if s.manageable = false ∨ bitAt (s.hubWord rInjLock) 0 then s else
  let n := fld v 15 0
  let arm := bitAt v 31 && n != 0
  (s.setHub rInjCtrl (setFld v 31 31 (b2n arm))).setHub rInjStatus (BitVec.ofNat 32 (if arm then n else 0))

/-- INJ_LOCK: once set it stays until power-on. -/
def injLock (v : Word) (s : State) : State := if s.manageable ∧ bitAt v 0 then s.setHub rInjLock 1 else s

/-! ## Self-test (R408, R409) -/

/-- Slices per target of a kind. -/
def selftestSlices : Nat → Nat
  | 0 => 128
  | 1 => 32
  | 2 => 40
  | 3 => 10
  | 4 => 4
  | _ => 64

/-- Units that SELFTEST_CTRL can name for a kind (R413). -/
def selftestUnits : Nat → Nat
  | 0 => 68
  | 1 => 68
  | 2 => 4
  | 3 => 24
  | 4 => 128
  | _ => 0

/-- The block that SELFTEST_CTRL names is out of service: a spare or retired physical core, a region out of service, or a tier or stack
with a retired DCM or deck position, which is then what the test runs on (R409; log entry 71, DEDUCED). The hub is never out of service. -/
def State.selftestFree (s : State) (v : Word) : Bool :=
  let r := fld v 27 26
  let unit := fld v 25 19
  let kind := fld v 30 28
  let c := s.core (64 * r + fld v 18 13)
  decide (r < s.nRegions) && decide (unit < selftestUnits kind) &&
  (decide ((s.region r).service = .outOfService)
   || (decide (kind ≤ 1) && (s.serves (68 * r + unit)).isNone && !(s.adoptions.any fun a => a.2.1 == 68 * r + unit))
   || (decide (kind = 2) && (c.retired.any fun e => e.1 / 144 == unit))
   || (decide (kind = 3) && (List.range 9).any fun p => decide ((c.deck (9 * unit + p)).state = .retired)))

def stBusyBit : Word := 0x80000000

/-- SELFTEST_GO: a write of SELFTEST_CTRL. With GO the test starts, or is refused; while a test runs a write changes nothing. -/
def selftestGo (v : Word) (s : State) : State :=
  if s.manageable = false ∨ bitAt (s.hubWord rSelftestStatus) 31 then s else
  let w := v &&& hubRw rSelftestCtrl
  let starved := s.hubWord rSelftestStatus &&& 0x08000000
  if bitAt v 31 = false then s.setHub rSelftestCtrl w
  else if s.selftestFree v then
    (((s.setHub rSelftestCtrl w).setHub rSelftestStatus (stBusyBit ||| starved)).setHub64 rSelftestFailDa 0).setHub rSelftestFailBit 0
  else (s.setHub rSelftestCtrl (setFld w 31 31 0)).setHub rSelftestStatus (setFld (s.hubWord rSelftestStatus) 28 28 1)

/-- The data DCM that an address of class 0x1 names (R165). -/
def dcmOfDa (da : BitVec 48) : Nat := bitsOf da.toNat 26 18

/-- A failing block is marked unusable in the repair map (R409, R410): a core; the DCM at the failing address of a region that is not
serving (a retired position is marked already); a converter bank; with a link, its region. No record names the hub (log entry 71,
DESIGN CHOICE). -/
def State.selftestFail (s : State) (r kind unit slice : Nat) (da : BitVec 48) : State :=
  let core := 64 * r + slice
  let c := s.core core
  if kind ≤ 1 then
    let p := 68 * r + unit
    let s := s.setPhys p { s.physCore p with state := .unusable }
    s.addRepair r (repairRecord 2 r unit 0 0 0 0 8 s.beat)
  else if kind = 2 then
    let l := dcmOfDa da
    if dcmTier l ≠ unit ∨ (c.dcmInfo l).gone ∨ (c.dcmInfo l).lost ∨ (s.serving ∧ (s.region r).service ≠ .outOfService) then s
    else (s.setCore core (c.failDcm l)).addRepair r (repairRecord 3 r slice unit (c.dcmPos l) 0 0 13 s.beat)
  else if kind = 3 then
    if (c.stack unit).borrow then s else
    let c' := c.loseBank unit
    (s.setCore core c').addRepair r (repairRecord 8 r slice unit 0 0 (if (c'.stack unit).borrow then unit ^^^ 1 else 0xFFFF) 20 s.beat)
  else if kind = 4 then s.addRepair r (repairRecord 9 r 0 unit 0 0 0 21 s.beat)
  else s

/-- The slice that a run on demand tests next is this one. -/
def State.onDemand (s : State) (r unit kind : Nat) : Bool :=
  let v := s.hubWord rSelftestCtrl
  bitAt (s.hubWord rSelftestStatus) 31 && fld v 27 26 == r && fld v 25 19 == unit && fld v 30 28 == kind

/-- The first failing address and bit. -/
def State.recordFail (s : State) (f : SelfFail) : State := (s.setHub64 rSelftestFailDa f.da.toNat).setHub rSelftestFailBit f.bit

/-- A slice fits the maintenance run in progress: 14,000 cycles at VF0, 7,369 ns (R408). -/
def State.sliceFits (s : State) (r : Nat) : Bool :=
  match (s.region r).run with
  | some run => run.klass == 7 && decide (14000 + s.runElapsed r run ≤ run.budget)
  | none => false

/-- No maintenance run of the frame could hold a slice at the point and beat in force (R409). -/
def State.sliceStarved (s : State) (r : Nat) : Bool :=
  (List.range s.frame.len).all fun b => (List.range 8).all fun k =>
    slotClass (s.slotByte (s.frame.origin + b) k r) != 7 || decide ((s.runAt (s.frame.origin + b) k r).budget < 14000)

/-- A spare runs the slices of kinds 0 and 1 once in a period of 2^20 beats (R409). -/
def State.sliceDue (s : State) (p kind : Nat) : Bool :=
  let x := s.physCore p
  x.period != s.beat / 2 ^ 20 || decide ((if kind = 0 then x.logicSlices else x.memSlices) < selftestSlices kind)

/-- Count a slice of the field test of a spare. -/
def State.countSlice (s : State) (p kind : Nat) : State :=
  let x := s.physCore p
  let x := if x.period = s.beat / 2 ^ 20 then x else { x with period := s.beat / 2 ^ 20, logicSlices := 0, memSlices := 0 }
  s.setPhys p (if kind = 0 then { x with logicSlices := x.logicSlices + 1 } else { x with memSlices := x.memSlices + 1 })

/-- A test of memory is destructive: in a region out of service, the tier, or the memories of the core that the physical core serves,
read as after a power-on (R408; log entry 41). -/
def State.destroyTarget (s : State) (r kind unit slice : Nat) : State :=
  if kind = 1 ∧ (s.region r).service = .outOfService then
    match s.serves (68 * r + unit) with
    | some core => s.modCore core fun c => { c with scratch := [], side := [], imem := [] }
    | none => s
  else if kind = 2 ∧ (s.region r).service = .outOfService then
    s.modCore (64 * r + slice) fun c =>
      { c with dcm := c.dcm.clear (0x2000000 * unit) 0x2000000, parity := c.parity.clear (0x400000 * unit) 0x400000 }
  else s

/-- SELFTEST_SLICE: a slice of the test on demand, or of the field test of a spare physical core in a maintenance run. -/
def selftestSlice (r unit kind : Nat) (f : Option SelfFail) (s : State) : State :=
  if s.serving = false then s
  else if s.onDemand r unit kind then
    let s := s.destroyTarget r kind unit (fld (s.hubWord rSelftestCtrl) 18 13)
    let st := s.hubWord rSelftestStatus
    let n := fld st 15 0 + 1
    let failed := bitAt st 29 || f.isSome
    let ended := selftestSlices kind ≤ n
    let s := match f with
      | some x => if bitAt st 29 then s else (s.recordFail x).selftestFail r kind unit (fld (s.hubWord rSelftestCtrl) 18 13) x.da
      | none => s
    let st := setFld (setFld st 15 0 n) 29 29 (b2n failed)
    let st := if ended then setFld (setFld st 31 31 0) 30 30 (b2n (!failed)) else st
    let s := s.setHub rSelftestStatus st
    if ended then s.setHub rSelftestCtrl (setFld (s.hubWord rSelftestCtrl) 31 31 0) else s
  else if kind ≤ 1 ∧ (s.serves (68 * r + unit)).isNone ∧ (s.physCore (68 * r + unit)).state = .good then
    if s.sliceStarved r then s.setHub rSelftestStatus (setFld (s.hubWord rSelftestStatus) 27 27 1)
    else if s.sliceFits r ∧ s.sliceDue (68 * r + unit) kind = true then
      let s := s.countSlice (68 * r + unit) kind
      match f with
      | some x => (s.recordFail x).selftestFail r kind unit 0 x.da
      | none => s
    else s
  else s

/-! ## The Scree walker (R411, R412) -/

/-- Ranges of a walker: DCMs in logical order, then scratchpad, then side memory; a spare core has its own memories only. -/
def screeRanges (bound : Bool) : Nat := if bound then 74016 else 288

/-- What a range covers: a DCM, a scratchpad range, or a side-memory range. -/
def screeTarget (bound : Bool) (n : Nat) : Nat ⊕ Nat :=
  let m := if bound then n - 73728 else n
  if bound ∧ n < 73728 then .inl (n / 128) else .inr m

/-- Passes that every bound core of the device has completed. -/
def State.screePassed (s : State) : Nat :=
  let l := (List.range s.nCores).filterMap fun c => (s.physOf c).map fun p => (s.physCore p).passes
  match l with
  | [] => 0
  | a :: l => l.foldl min a

/-- A march mismatch in a scratchpad row is remapped while its bank has one of 4 spare rows; the fifth retires the core (R410). -/
def State.remapRow (s : State) (p range row : Nat) : State :=
  let n := 8 * range + row
  let x := s.physCore p
  let used := sget 0 x.spareRows (n % 16)
  if 2048 ≤ n ∨ 4 ≤ used then s.retireLater p 7
  else (s.setPhys p { x with spareRows := sput 0 x.spareRows (n % 16) (used + 1) }).addRepair (p / 68)
    (repairRecord 5 (p / 68) (p % 68) (n % 16) (n / 16) n used 7 s.beat)

/-- A mismatch in a range, handled in the order of R412. -/
def State.screeFail (s : State) (p n : Nat) (find : ScreeFind) : State :=
  let core := s.serves p
  let s := s.hubInc rScreeFail 1
  match screeTarget core.isSome n, core with
  | .inl l, some c =>
    let s := s.faultEvent 13 (576 * c + l) 1
    match find with
    | .column col => s.softRepair c l col 13
    | _ => s.loseDcm c l
  | .inl _, none => s
  | .inr m, _ =>
    let s := s.faultEvent 7 p 1
    match find with
    | .row r => s.remapRow p m r
    | _ => s.retireLater p 7

/-- The walker skips a lost DCM and a rebuild target. -/
def State.screeSkips (s : State) (p n : Nat) : Bool :=
  match screeTarget (s.serves p).isSome n, s.serves p with
  | .inl l, some c => ((s.core c).dcmInfo l).lost || ((s.core c).dcmInfo l).gone || (s.core c).rebuild.any fun b => b.target == l
  | _, _ => false

/-- A scratchpad range waits while a command is in flight on the core (R411). -/
def State.screeWaits (s : State) (p n : Nat) : Bool :=
  match s.serves p, screeTarget (s.serves p).isSome n with
  | some core, .inr m => decide (m < 256) && (s.core core).inFlight (s.cycleNow (p / 68))
  | _, _ => false

/-- SCREE_RANGE: the walker of a physical core tests its next range, for 2,000 cycles of a maintenance run that has them left. -/
def screeRange (r unit : Nat) (find : ScreeFind) (s : State) : State :=
  let p := 68 * r + unit
  let fits := match (s.region r).run with
    | some run => run.klass == 7 && decide (s.runElapsed r run + 2000 ≤ run.budget)
    | none => false
  if s.serving = false ∨ bitAt (s.hubWord rScreeCtrl) 0 = false ∨ fits = false ∨ (s.physCore p).state ≠ .good ∨ s.time.now < (s.physCore p).walkUntil then s else
  let x := s.physCore p
  let total := screeRanges (s.serves p).isSome
  let n := x.range % total
  if s.screeWaits p n then s else
  let before := s.screePassed
  let wrap := n + 1 = total
  let till := s.time.now + ceilDiv 20000 (vfMhz100 (s.region r).point)
  let s' := s.setPhys p { x with range := if wrap then 0 else n + 1, walkUntil := till, passes := if wrap then x.passes + 1 else x.passes }
  let s' := if s.screeSkips p n then s' else
    match find with
    | .pass => s'
    | f => s'.screeFail p n f
  s'.hubInc rScreePasses (s'.screePassed - before)

/-! ## Meanings -/

/-- ESCALATION (R400). -/
def execEscalation (source : Fin 32) (inst : Nat) (s : State) : Host.Outcome State Fault Refusal := .next (escalation source.val inst s)
/-- REPLAY (R402). -/
def execReplay (plan : Nat) (s : State) : Host.Outcome State Fault Refusal := .next (replay plan s)
/-- CORE_RETIREMENT (R403). -/
def execCoreRetirement (core : Fin 256) (s : State) : Host.Outcome State Fault Refusal := .next (coreRetirement core.val s)
/-- SPARE_CORE_ADOPTION (R20). -/
def execSpareCoreAdoption (core : Fin 256) (s : State) : Host.Outcome State Fault Refusal := .next (spareCoreAdoption core.val s)
/-- LINK_FLIT_RETRY (R396). -/
def execLinkFlitRetry (hop : Nat) (exhausted : Bool) (s : State) : Host.Outcome State Fault Refusal := .next (linkFlitRetry hop exhausted s)
/-- FLT_ALIVE (R407). -/
def execFltAlive (s : State) : Host.Outcome State Fault Refusal := .next (fltAlive s)
/-- ATTENTION_ACK (R400). -/
def execAttentionAck (p : Fin 4) (s : State) : Host.Outcome State Fault Refusal := .next (attentionAck p.val s)
/-- FLT_ACK (R400). -/
def execFltAck (v : Word) (s : State) : Host.Outcome State Fault Refusal := .next (fltAck v s)
/-- INJ_CTRL_ARM (R406). -/
def execInjCtrlArm (v : Word) (s : State) : Host.Outcome State Fault Refusal := .next (injCtrlArm v s)
/-- INJ_LOCK (R406). -/
def execInjLock (v : Word) (s : State) : Host.Outcome State Fault Refusal := .next (injLock v s)
/-- SELFTEST_GO (R409). -/
def execSelftestGo (v : Word) (s : State) : Host.Outcome State Fault Refusal := .next (selftestGo v s)
/-- SELFTEST_SLICE (R409). -/
def execSelftestSlice (r : Fin 4) (phys kind : Nat) (fail : Option SelfFail) (s : State) : Host.Outcome State Fault Refusal :=
  .next (selftestSlice r.val phys kind fail s)
/-- SCREE_RANGE (R411). -/
def execScreeRange (r : Fin 4) (phys : Nat) (find : ScreeFind) (s : State) : Host.Outcome State Fault Refusal :=
  .next (screeRange r.val phys find s)
/-- COMMAND_COMPLETION_WATCHDOG (R396). -/
def execCommandCompletionWatchdog (core : Fin 256) (s : State) : Host.Outcome State Fault Refusal :=
  .next (commandCompletionWatchdog core.val s)

end Sys2Proof.Machine
end

