-- ==== Sys2Proof/Machine/Power.lean ====
section
/-!
DEFINITION. Sys2Proof/Machine/Power.lean: Cirque's budgets and estimates, V/F points and rate levels, droop and dip, thermal control,
brake and trip (R376-R395).
-/
namespace Sys2Proof.Machine

/-! ## Settings (R395) -/

def State.pwrField (s : State) (hi lo : Nat) : Nat := fld (s.hubWord rPwrCfg) hi lo
/-- CAP_W, 120-420; other values act as 350. -/
def State.capW (s : State) : Nat :=
  let v := s.pwrField 8 0
  if 120 ≤ v ∧ v ≤ 420 then v else 350
/-- BURST_W: above 420 acts as 420, below CAP_W as CAP_W. -/
def State.burstW (s : State) : Nat := max s.capW (min 420 (s.pwrField 17 9))
/-- WINDOW_S, 1-30; other values act as 10. -/
def State.windowS (s : State) : Nat :=
  let v := s.pwrField 22 18
  if 1 ≤ v ∧ v ≤ 30 then v else 10
def State.vfHold (s : State) : Nat := s.pwrField 26 24
def State.burstOn (s : State) : Bool := bitAt (s.hubWord rPwrCfg) 31
/-- THROTTLE_C, 85-100; other values act as 95. -/
def State.throttleC (s : State) : Int :=
  let v := fld (s.hubWord rThermCfg) 6 0
  if 85 ≤ v ∧ v ≤ 100 then v else 95
/-- DROOP_MV, 10-60; other values act as 30. -/
def State.droopMv (s : State) : Nat :=
  let v := fld (s.hubWord rDroopCfg) 5 0
  if 10 ≤ v ∧ v ≤ 60 then v else 30

/-! ## Active regions, limiters (R384, R393) -/

def State.active (s : State) (r : Nat) : Bool := decide (r < s.nRegions) && decide ((s.region r).service = .inService)
def State.activeCount (s : State) : Nat := ((List.range 4).filter s.active).length
/-- Rate mode: 3 or 4 active regions. -/
def State.rateMode (s : State) : Bool := decide (3 ≤ s.activeCount)
/-- The brake settings of R391 hold: the pin, or a thermal Severe event (R390). -/
def State.braked (s : State) : Bool := s.power.brake || s.power.severe

/-- Rate levels below 16 apply: rate mode, with every active region at VF_HOLD (R384). A dip and the brake do not wait for it (log entry
126, DEDUCED). -/
def State.rateLimits (s : State) : Bool := s.rateMode && (List.range 4).all fun r => !(s.active r) || (s.region r).point == s.vfHold

/-- The rate level of partition p in region r: the lowest of those that apply. -/
def State.limitLevel (s : State) (r p : Nat) : Nat :=
  let x := s.region r
  let l := if s.rateLimits then min (x.cirque.getD p 16) (max 4 (16 - x.ceiling)) else 16
  let l := if s.rateLimits ∧ x.conservative.isSome then min l 8 else l
  let l := if s.power.dip.isSome then min l 4 else l
  if s.braked then min l 1 else l

/-- The point that region r is to run at: VF_HOLD in rate mode, else the lowest of the points that apply. -/
def State.limitPoint (s : State) (r : Nat) : Nat :=
  let x := s.region r
  if s.rateMode then s.vfHold
  else
    let v := max x.want (min 7 x.ceiling)
    let v := if x.conservative.isSome then max v 4 else v
    if s.braked then 7 else v

/-- The fused voltages of a point in mV, within the ranges of their rails (R376, R378). -/
def vfCoreMv (v : Nat) : Nat := min 750 (max 500 (Config.vfCore v).toNat)
def vfSramMv (v : Nat) : Nat := min 800 (max 600 (Config.vfSram v).toNat)

/-- Command the voltages of a point over PMBus (R379). -/
def State.command (s : State) (r v : Nat) : State := s.emit (.pmbus r (vfCoreMv v) (vfSramMv v))

/-- Begin the change of a region to a point (R379): a raise commands its voltages at once, a lowering waits for a boundary. -/
def State.seekPoint (s : State) (r v : Nat) : State :=
  let x := s.region r
  if v = x.point then s.setRegion r { x with lower := none }
  else if x.point < v then s.setRegion r { x with lower := some v }
  else if x.raise.isSome then s
  else (s.setRegion r { x with raise := some (v, some s.beat), lower := none }).command r v

/-- Recompute the levels of every active region and seek their points (R393). -/
def State.setLevels (s : State) : State :=
  ((List.range 4).filter s.active).foldl (fun s r =>
    let s := s.setRegion r { s.region r with levels := tabulate 4 fun p => s.limitLevel r p }
    s.seekPoint r (s.limitPoint r)) s

/-! ## Estimates (R381) -/

/-- Class defaults, microjoules per region per beat at VF0 and full rate. -/
def classDefault : Nat → Nat
  | 1 => 5200
  | 2 => 5200
  | 3 => 3000
  | 4 => 5800
  | 5 => 1600
  | 6 => 5800
  | _ => 2000

def maintenanceKey : Nat := 4096

/-- Task number and phase tag of the task of a class and partition in a region: of the lowest-numbered core that holds one (log
entry 75). -/
def State.runTask (s : State) (r klass part : Nat) : Option (Nat × Task) :=
  ((List.range 64).findSome? fun c =>
    (List.range 4).findSome? fun t =>
      let k := (s.core (64 * r + c)).task t
      if k.valid && k.klass == klass && k.part == part then some (t, k) else none)

/-- The key of a run, and its starting value: the plan's PHASES entry, else the class default. -/
def State.runKey (s : State) (r klass part : Nat) : Nat × Nat :=
  if klass = 7 then (maintenanceKey, classDefault 7) else
  match s.runTask r klass part with
  | some (t, k) =>
    (1024 * part + 256 * t + k.phaseTag,
     (((s.plan? k.plan).bind fun p => phaseEstimate p.image k.phaseTag)).getD (classDefault klass))
  | none => (1024 * part, classDefault klass)

/-- The estimate of a key, where the table holds one. -/
def Region.estimate (x : Region) (key : Nat) : Option Nat := (x.estimates.find? fun e => e.key == key).map (·.uj)

/-- Enter or replace an estimate; a full table of 128 gives up its least recently used key. -/
def Region.putEstimate (x : Region) (key uj beat : Nat) : Region :=
  let e : Estimate := { key := key, used := beat, uj := uj }
  if x.estimates.any fun f => f.key == key then { x with estimates := x.estimates.map fun f => if f.key = key then e else f }
  else if x.estimates.length < 128 then { x with estimates := x.estimates ++ [e] }
  else
    let old := x.estimates.foldl (fun m f => min m f.used) ((x.estimates.map (·.used)).headD 0)
    let victim := (x.estimates.find? fun f => f.used == old).map (·.key)
    { x with estimates := (x.estimates.filter fun f => some f.key != victim) ++ [e] }

/-- Numerator and denominator of (V/V_VF0)^2 x (f/f_VF0). -/
def vfFactor (v : Nat) : Nat × Nat :=
  (vfCoreMv v ^ 2 * vfMhz100 v, vfCoreMv 0 ^ 2 * vfMhz100 0)

/-- CIRQUE_ESTIMATE_UPDATE (R381): the measured energy of the slot in progress. An idle slot teaches the static energy, by a rule that
the manual does not state: a free value. -/
def cirqueEstimateUpdate (r uj : Nat) (s : State) : State :=
  if s.dead ∨ s.active r = false then s else
  match (s.region r).run with
  | none => s
  | some run =>
    let x := s.region r
    if run.klass = 0 then (s.setRegion r { x with staticUj := (s.free 0).toNat }).tookFree
    else
      let (key, start) := s.runKey r run.klass run.part
      let est := (x.estimate key).getD start
      let (n, d) := vfFactor x.point
      let level := max 1 (s.runLevel r run.klass run.part)
      let e := (uj - x.staticUj) * 16 * d / (level * n)
      let new : Int := (est : Int) + (8 * (e : Int) - (est : Int)) / 16
      s.setRegion r (x.putEstimate key new.toNat s.beat)

/-! ## Prediction and shares (R383) -/

/-- Full-rate VF0 prediction of a partition in a region for a beat, in eighths of a microjoule. -/
def State.predict (s : State) (b r p : Nat) : Nat :=
  ((List.range 8).map fun k =>
    let e := s.slotByte b k r
    if slotClass e != 0 && slotClass e != 7 && slotPart e == p then
      let (key, start) := s.runKey r (slotClass e) p
      ((s.region r).estimate key).getD start
    else 0).sum

/-- Predicted maintenance energy of a region for a beat, in eighths of a microjoule. -/
def State.predictMaint (s : State) (b r : Nat) : Nat :=
  ((List.range 8).map fun k =>
    if slotClass (s.slotByte b k r) = 7 then ((s.region r).estimate maintenanceKey).getD (classDefault 7) else 0).sum

/-- Shares of an amount by weight, none above its need; what is unused passes on by weight. The fuel is the number of sharers. -/
def shareOut : Nat → Nat → List (Nat × Nat × Nat) → List (Nat × Nat)
  | 0, _, l => l.map fun e => (e.1, 0)
  | fuel + 1, rest, l =>
    let w := (l.map fun e => e.2.1).sum
    let full := l.filter fun e => decide (e.2.2 * w ≤ rest * e.2.1)
    if full = [] then l.map fun e => (e.1, if w = 0 then 0 else rest * e.2.1 / w)
    else
      (full.map fun e => (e.1, e.2.2)) ++
        shareOut fuel (rest - (full.map fun e => e.2.2).sum) (l.filter fun e => !(decide (e.2.2 * w ≤ rest * e.2.1)))

/-- Full-rate prediction of a partition over the active regions at VF0, or at the held point in rate mode. -/
def State.partNeed (s : State) (b p : Nat) : Nat :=
  let f := (((List.range 4).filter s.active).map fun r => s.predict b r p).sum
  if s.rateMode then
    let (n, d) := vfFactor s.vfHold
    f * n / d
  else f

/-- Shares of the allowance for beat b, in eighths of a microjoule, by partition (R383). -/
def State.shares (s : State) (b : Nat) (allowance : Int) : List (Nat × Nat) :=
  let act := (List.range 4).filter s.active
  let fixed := s.power.hubUj + (act.map fun r => 8 * (s.region r).staticUj).sum
  let maint := (act.map fun r => s.predictMaint b r).sum
  let rest := (8 * (allowance - (fixed : Int)) - (maint : Int)).toNat
  shareOut 4 rest ((((List.range 4).filter fun p => (s.part p).valid).map fun p => (p, (s.part p).power, s.partNeed b p)).filter
    fun e => e.2.2 != 0)

/-- The highest rate level whose prediction fits a share. -/
def bestLevel (need share : Nat) : Nat := (((List.range 17).filter fun n => decide (1 ≤ n ∧ need * n ≤ 16 * share)).foldl max 1)

/-- The fastest point whose prediction fits a share. -/
def bestPoint (need share : Nat) : Nat :=
  ((List.range 8).find? fun v => decide (need * (vfFactor v).1 ≤ share * (vfFactor v).2)).getD 7

/-- Cirque's choice for the next beat (R383, R384). -/
def State.choose (s : State) (b : Nat) (allowance : Int) : State :=
  let sh := s.shares b allowance
  let get := fun p => (sh.find? fun e => e.1 == p).map (·.2)
  ((List.range 4).filter s.active).foldl (fun s r =>
    let x := s.region r
    if s.rateMode then
      s.setRegion r { x with cirque := tabulate 4 fun p => match get p with
        | some a => bestLevel (s.partNeed b p) a
        | none => 16 }
    else
      let pts := ((List.range 4).filter fun p => s.predict b r p != 0).filterMap fun p => (get p).map fun a => bestPoint (s.partNeed b p) a
      s.setRegion r { x with want := pts.foldl max 0 }) s

/-- Predicted energy of a region for a beat under the levels and point in force, microjoules. -/
def State.predictRegion (s : State) (b r : Nat) : Nat :=
  let x := s.region r
  let (n, d) := vfFactor x.point
  let work := ((List.range 4).map fun p => s.predict b r p * x.levels.getD p 16 / 16).sum
  x.staticUj * 8 + (work * n / d + s.predictMaint b r) / 8

/-! ## The budget of a beat (R382, R386) -/

/-- Window in beats. -/
def State.windowBeats (s : State) : Nat := second * s.windowS / s.beatNs

/-- W over a beat, in microjoules. -/
def State.beatUj (s : State) (w : Nat) : Nat := w * s.beatNs / 1000

/-- The allowance for the next beat from the measured history, newest first. -/
def State.computeAllowance (s : State) : Int :=
  let n := s.windowBeats
  let last := (s.power.history.take n).sum
  let leaving := s.power.history.getD (n - 1) 0
  let h : Int := (s.beatUj s.capW : Int) * n - last
  min (s.beatUj (if s.burstOn then s.burstW else s.capW) : Int) (h + leaving)

/-- A region whose prediction and measurement differ by more than 20 % for 8 beats goes to conservative mode (R386). -/
def State.disagree (s : State) (r measured : Nat) : State :=
  let x := s.region r
  let diff := ((x.predicted : Int) - measured).natAbs
  if diff * 5 ≤ measured then s.setRegion r { x with offBeats := 0 }
  else if x.offBeats + 1 < 8 then s.setRegion r { x with offBeats := x.offBeats + 1 }
  else
    let keys := (List.range 8).filterMap fun k =>
      let e := s.slotByte s.beat k r
      if slotClass e = 0 then none else
        let (key, start) := s.runKey r (slotClass e) (slotPart e)
        some (key, start, (x.estimate key).getD start)
    let total := fun k => ((keys.filter fun e => e.1 == k).map fun e => e.2.2).sum
    let top := keys.foldl (fun (m : Option (Nat × Nat × Nat)) e => match m with
      | some y => if total y.1 < total e.1 then some e else some y
      | none => some e) none
    let x := match top with
      | some (key, start, _) => x.putEstimate key start s.beat
      | none => x
    let s := s.setRegion r { x with offBeats := 0, conservative := some (s.beat + 64) }
    ((s.hubOr rPwrEvents 2).hubInc rDisagreeCount 1).faultEvent 2 r 1

/-- Beats of history that the longest window needs: 30 s of the shortest beats. -/
def historyCap : Nat := 30 * second / beatNsOf 3

/-- The measured history and the hub's last energy. -/
def State.remember (s : State) (history : List Nat) (hubUj : Nat) : State :=
  { s with power := { s.power with history := history, hubUj := hubUj } }

/-- CIRQUE_BUDGET_EPOCH (R382): the measured energy of the beat, per region and of the hub. -/
def cirqueBudgetEpoch (regionUj : List Nat) (hubUj : Nat) (s : State) : State :=
  if s.dead then s else
  let total := regionUj.sum + hubUj
  let s := ((List.range 4).filter s.active).foldl (fun s r => s.disagree r (regionUj.getD r 0)) s
  let s := s.remember ((total :: s.power.history).take historyCap) hubUj
  let s := s.setHub64 rWindowEnergy ((s.power.history.take s.windowBeats).sum)
  let s := s.setHub rAvgPower (BitVec.ofNat 32 ((s.power.history.take s.windowBeats).sum / (1000 * s.windowS)))
  let s := s.setHub rLastBeatPower (BitVec.ofNat 32 (1000000 * total / s.beatNs))
  s.choose (s.beat + 1) s.computeAllowance

/-- CONSERVATIVE_END (R386): after 64 beats. -/
def conservativeEnd (r : Nat) (s : State) : State :=
  match (s.region r).conservative with
  | some b => if s.dead ∨ s.beat < b then s else s.setRegion r { s.region r with conservative := none }
  | none => s

/-- A write of PWR_CFG waits for the beat boundary (R382). -/
def pwrCfgWrite (v : Word) (s : State) : State :=
  if s.manageable = false then s else { s with power := { s.power with cfgPending := some v } }

/-- Apply a waiting write of PWR_CFG, and keep it as the stored setting. -/
def State.applyPwrCfg (s : State) : State :=
  match s.power.cfgPending with
  | none => s
  | some v =>
    let w := v &&& hubRw rPwrCfg
    { (s.setHub rPwrCfg w) with power := { s.power with cfgPending := none }, config := ({ s.config with pwrCfg := some w } : Config).putSettings }

/-! ## Changes of point (R379) -/

/-- No step of a stepped plan of the region is under way at the next boundary: one begins there, or none runs (R379). -/
def State.stepEdge (s : State) (r : Nat) : Bool :=
  s.runs.all fun e => match s.plan? e.1 with
    | some p => !(planStepped p.image) || !(Nat.testBit (planRegions p.image) r) || !e.2.inStep
        || decide (e.2.firstBeat + e.2.beats ≤ s.beat + 1)
    | none => true

/-- VF_RAISE: the sensed voltages are within 5 mV of the new point's, within 4 beats; the frequency rises at the next beat boundary, or at the
first at which a stepped plan of the region lets it. -/
def vfRaise (r coreMv sramMv : Nat) (s : State) : State :=
  match (s.region r).raise with
  | none => s
  | some (v, b) =>
    let near := fun (x y : Nat) => decide (((x : Int) - y).natAbs ≤ 5)
    let reached := match b with
      | some b => decide (s.beat ≤ b + 4) && near coreMv (vfCoreMv v) && near sramMv (vfSramMv v)
      | none => true
    if s.dead ∨ reached = false then s
    else if s.stepEdge r = false then s.setRegion r { s.region r with raise := some (v, none) }
    else
      let s := s.advanceTo s.nextBoundary
      s.setRegion r { s.region r with point := v, raise := none }

/-- VF_ABANDON: not reached within 4 beats. -/
def vfAbandon (r : Nat) (s : State) : State :=
  match (s.region r).raise.bind (·.2) with
  | none => s
  | some b =>
    if s.dead ∨ s.beat < b + 4 then s else
    let s := (s.setRegion r { s.region r with raise := none }).command r (s.region r).point
    (s.hubInc rVfAbandon 1).hubOr rPwrEvents 0x20

/-- VF_LOWER: the frequency falls at a beat boundary, and the voltages after it. -/
def vfLower (r : Nat) (s : State) : State :=
  match (s.region r).lower with
  | none => s
  | some v =>
    if s.dead ∨ s.stepEdge r = false then s else
    let s := s.advanceTo s.nextBoundary
    (s.setRegion r { s.region r with point := v, lower := none, raise := none }).command r v

/-! ## Droop, dip, regulators (R380, R388, R389) -/

/-- DROOP: more than DROOP_MV below the set point stops matrix issue in the region. -/
def droop (r depth : Nat) (s : State) : State :=
  if s.dead ∨ depth ≤ s.droopMv then s else
  (s.setRegion r { s.region r with droop := some ((s.region r).droop.getD s.time.now) }).hubInc (rDroopCount + 4 * r) 1

/-- DROOP_RECOVERY: the droop lasted `ns`; issue resumes 256 cycles after it. -/
def droopRecovery (r ns : Nat) (s : State) : State :=
  match (s.region r).droop with
  | none => s
  | some t =>
    if s.dead then s else
    let s := s.advanceTo (t + ns + ceilDiv 2560 (vfMhz100 (s.region r).point))
    let s := s.setRegion r { s.region r with droop := none }
    if s.beatNs < ns then s.faultEvent 3 0 0 else s

/-- SUPPLY_DIP: a rail below its warning threshold. -/
def supplyDip (_rail : Rail) (s : State) : State :=
  if s.dead then s else
  let s := { s with power := { s.power with dip := some s.beat } }
  (((s.hubOr rPwrEvents 1).hubInc rDipCount 1).faultEvent 3 0 0).setLevels

/-- DIP_RECOVERY: after 4 clean beats the levels return at the next boundary. -/
def dipRecovery (s : State) : State :=
  match s.power.dip with
  | none => s
  | some b =>
    if s.dead ∨ s.beat < b + 4 then s else
    let s := s.advanceTo ((s.beat + 1) * s.beatNs)
    { s with power := { s.power with dip := none } }.setLevels

/-- PMB_ALERT: the regulator's STATUS_WORD is read, and a regulator fault counted. -/
def pmbAlert (_rail : Rail) (_statusWord : BitVec 16) (s : State) : State :=
  if s.dead then s else (s.hubOr rPwrEvents 0x10).faultEvent 4 0 1

/-- PMBUS_TELEMETRY, every 16 beats: the readings correct the gain of each on-die sensor; a regulator that does not answer leaves its sensor
alone. -/
def pmbusTelemetry (readings : List Telemetry) (s : State) : State :=
  let due := match s.power.readAt with
    | some b => decide (b + 16 ≤ s.beat) || decide (s.beat < b)
    | none => true
  if s.dead ∨ due = false then s else
  let new := readings.filter fun t => t.reading.isSome
  { s with power := { s.power with readAt := some s.beat, readings := (s.power.readings.filter fun t => !(new.any fun u => u.rail == t.rail)) ++ new } }

/-! ## Thermal control (R390, R392) -/

def listMax (l : List Int) : Int := l.foldl max (l.headD 0)

/-- Throttle entry, throttled and cool beats of a region. -/
def State.thermRegion (s : State) (r : Nat) (temps : List Int) : State :=
  let hot := listMax temps
  let x := { s.region r with temp := hot, ctTemp := [temps.getD 6 0, temps.getD 7 0] }
  let s := s.setHub (rTempMax + 4 * r) (BitVec.ofNat 32 (unsigned 8 hot))
  let th := s.throttleC
  if th ≤ hot then
    let entry := !x.throttled
    let s := s.setRegion r { x with throttled := true, throttleBeats := x.throttleBeats + 1, coolBeats := 0 }
    let s := s.hubInc rThrottleBeats 1
    if entry then s.faultEvent 5 r 0 else s
  else
    let cool : Nat := if hot < th - 3 then x.coolBeats + 1 else 0
    let out := x.throttled && x.ceiling == 0 && decide (64 ≤ cool)
    let s := s.setRegion r { x with coolBeats := cool, throttled := x.throttled && !out }
    if x.throttled && !out then s.hubInc rThrottleBeats 1 else s

/-- THERM_TRIP: any sensor at 120 °C stops every clock until power is removed. -/
def thermTrip (celsius : Int) (s : State) : State :=
  if s.latches.tripped ∨ celsius < 120 then s
  else { s with latches := { s.latches with tripped := true } }.emit (.pin "THERM_TRIP_N" false)

/-- TEMPERATURE_READ: every sensor of the regions, 8 each, and the 2 of the hub; one at 120 °C trips (R390). -/
def temperatureRead (sensors hub : List Int) (s : State) : State :=
  if s.dead then s else
  if (sensors ++ hub).any fun c => decide (120 ≤ c) then thermTrip 120 s else
  let of := fun r => (sensors.drop (8 * r)).take 8
  let s := (List.range s.nRegions).foldl (fun s r => s.thermRegion r (of r)) s
  let h := listMax hub
  let s := { s with power := { s.power with hubTemp := h } }.setHub (rTempMax + 16) (BitVec.ofNat 32 (unsigned 8 h))
  let hot := (List.range s.nRegions).filter fun r => decide (110 ≤ listMax (of r))
  let anyHot := decide (110 ≤ h) || !hot.isEmpty
  let s := if anyHot && !s.power.severe then
      ((if hot = [] then [0] else hot).foldl (fun s r => s.faultEvent 5 r 2) (s.hubOr rPwrEvents 4)).setLevels
    else s
  let below := decide (h < 100) && (List.range s.nRegions).all fun r => decide (listMax (of r) < 100)
  if s.power.severe then
    let n := if below then s.power.coolBeats + 1 else 0
    if 1024 ≤ n then
      let s := { s with power := { s.power with severe := false, coolBeats := 0 } }
      ((List.range 4).foldl (fun s r => s.severeEnd 5 r) s).setLevels
    else { s with power := { s.power with coolBeats := n } }
  else s

/-- THROTTLE_STEP: the ceiling falls after 16 throttled beats at or above the threshold, and rises after 64 cool ones. -/
def throttleStep (r : Nat) (s : State) : State :=
  let x := s.region r
  if s.dead then s
  else if 16 ≤ x.throttleBeats then s.setRegion r { x with throttleBeats := 0, ceiling := min (if s.rateMode then 12 else 7) (x.ceiling + 1) }
  else if 64 ≤ x.coolBeats ∧ 0 < x.ceiling then s.setRegion r { x with coolBeats := 0, ceiling := x.ceiling - 1 }
  else s

/-! ## Brake (R391) -/

/-- PWR_BRAKE: a low pulse of at least 1 us holds the device at minimum power. -/
def pwrBrake (lowNs : Nat) (s : State) : State :=
  if s.dead ∨ lowNs < 1000 then s
  else ({ s with power := { s.power with brake := true, brakeAt := s.time.now + lowNs } }.hubOr rPwrEvents 8).setLevels

/-- BRAKE_RELEASE: the pin has been high for 16 beats at this beat boundary. -/
def brakeRelease (s : State) : State :=
  if s.dead ∨ s.power.brake = false then s else
  let s' := s.advanceTo s.nextBoundary
  if s'.time.now < s.power.brakeAt + 16 * s.beatNs then s
  else { s' with power := { s'.power with brake := false } }.setLevels

/-! ## Meanings -/

/-- CIRQUE_BUDGET_EPOCH (R382). -/
def execCirqueBudgetEpoch (regionUj : List Nat) (hubUj : Nat) (s : State) : Host.Outcome State Fault Refusal :=
  if regionUj.length = 4 then .next (cirqueBudgetEpoch regionUj hubUj s) else .fault .illFormed
/-- CIRQUE_ESTIMATE_UPDATE (R381). -/
def execCirqueEstimateUpdate (r : Fin 4) (uj : Nat) (s : State) : Host.Outcome State Fault Refusal := .next (cirqueEstimateUpdate r.val uj s)
/-- CONSERVATIVE_END (R386). -/
def execConservativeEnd (r : Fin 4) (s : State) : Host.Outcome State Fault Refusal := .next (conservativeEnd r.val s)
/-- PWR_CFG_WRITE (R382). -/
def execPwrCfgWrite (v : Word) (s : State) : Host.Outcome State Fault Refusal := .next (pwrCfgWrite v s)
/-- VF_RAISE (R379). -/
def execVfRaise (r : Fin 4) (coreMv sramMv : Nat) (s : State) : Host.Outcome State Fault Refusal := .next (vfRaise r.val coreMv sramMv s)
/-- VF_ABANDON (R379). -/
def execVfAbandon (r : Fin 4) (s : State) : Host.Outcome State Fault Refusal := .next (vfAbandon r.val s)
/-- VF_LOWER (R379). -/
def execVfLower (r : Fin 4) (s : State) : Host.Outcome State Fault Refusal := .next (vfLower r.val s)
/-- DROOP (R388). -/
def execDroop (r : Fin 4) (depth : Nat) (s : State) : Host.Outcome State Fault Refusal := .next (droop r.val depth s)
/-- DROOP_RECOVERY (R388). -/
def execDroopRecovery (r : Fin 4) (ns : Nat) (s : State) : Host.Outcome State Fault Refusal := .next (droopRecovery r.val ns s)
/-- SUPPLY_DIP (R389). -/
def execSupplyDip (rail : Rail) (s : State) : Host.Outcome State Fault Refusal := .next (supplyDip rail s)
/-- DIP_RECOVERY (R389). -/
def execDipRecovery (s : State) : Host.Outcome State Fault Refusal := .next (dipRecovery s)
/-- PMB_ALERT (R380). -/
def execPmbAlert (rail : Rail) (statusWord : BitVec 16) (s : State) : Host.Outcome State Fault Refusal := .next (pmbAlert rail statusWord s)
/-- PMBUS_TELEMETRY (R380). -/
def execPmbusTelemetry (readings : List Telemetry) (s : State) : Host.Outcome State Fault Refusal := .next (pmbusTelemetry readings s)
/-- TEMPERATURE_READ (R390). -/
def execTemperatureRead (sensors hub : List Int) (s : State) : Host.Outcome State Fault Refusal :=
  if sensors.length = 32 ∧ hub.length = 2 then .next (temperatureRead sensors hub s) else .fault .illFormed
/-- THROTTLE_STEP (R390). -/
def execThrottleStep (r : Fin 4) (s : State) : Host.Outcome State Fault Refusal := .next (throttleStep r.val s)
/-- THERM_TRIP (R392). -/
def execThermTrip (celsius : Int) (s : State) : Host.Outcome State Fault Refusal := .next (thermTrip celsius s)
/-- PWR_BRAKE (R391). -/
def execPwrBrake (lowNs : Nat) (s : State) : Host.Outcome State Fault Refusal := .next (pwrBrake lowNs s)
/-- BRAKE_RELEASE (R391). -/
def execBrakeRelease (s : State) : Host.Outcome State Fault Refusal := .next (brakeRelease s)

end Sys2Proof.Machine
end

