-- ==== Sys2Proof/Machine/Rings.lean ====
section
/-!
DEFINITION. Sys2Proof/Machine/Rings.lean: descriptors (R362, R363), completions and head words (R360, R361, R364), the deadline test
(R53, R373), admission (R317), order (R372), posted writes that waited (R343, R439) and ring service at a poll (R351, R357-R359).
-/
namespace Sys2Proof.Machine

/-! ## The descriptor (R362) -/

def Cmd.op (c : Cmd) : Nat := imgNum c.desc 0 1
def Cmd.flags (c : Cmd) : Nat := imgNum c.desc 1 1
def Cmd.named (c : Cmd) : Nat := imgNum c.desc 2 2
def Cmd.tag (c : Cmd) : Nat := imgNum c.desc 4 4
def Cmd.notBefore (c : Cmd) : Nat := imgNum c.desc 8 8
def Cmd.deadline (c : Cmd) : Nat := imgNum c.desc 0x10 8
/-- A parameter of n bytes. -/
def Cmd.par (c : Cmd) (off n : Nat) : Nat := imgNum c.desc off n
def Cmd.flag (c : Cmd) (i : Nat) : Bool := Nat.testBit c.flags i

/-- Parameter bytes that a command lists, as (offset, length) (R367-R370, R374). -/
def parBytes : Nat → List (Nat × Nat)
  | 0x01 => [(0x18, 1), (0x1A, 4), (0x20, 4), (0x28, 16)]
  | 0x02 => [(0x18, 12)]
  | 0x03 => [(0x18, 12), (0x28, 16)]
  | 0x10 => [(0x18, 21), (0x2E, 16)]
  | 0x11 => [(0x18, 26)]
  | 0x20 => [(0x18, 40)]
  | 0x21 => [(0x18, 12)]
  | 0x22 => [(0x18, 28)]
  | 0x30 => [(0x18, 12)]
  | 0x31 => [(0x18, 16)]
  | 0x32 => [(0x18, 24)]
  | 0x40 => [(0x18, 10), (0x24, 8)]
  | 0x41 => [(0x18, 10), (0x24, 8)]
  | 0x52 => [(0x18, 8)]
  | _ => []

/-- FLAGS bits that a command lists. -/
def flagMask : Nat → Nat
  | 0x04 => 1
  | 0x10 => 1
  | 0x20 => 7
  | 0x21 => 1
  | 0x22 => 3
  | 0x32 => 1
  | 0x50 => 1
  | 0x52 => 1
  | _ => 0

def hostOps : List Nat :=
  [0x01, 0x02, 0x03, 0x04, 0x10, 0x11, 0x20, 0x21, 0x22, 0x30, 0x31, 0x32, 0x40, 0x41, 0x50, 0x51, 0x52]

/-- The command names a stream (R366). -/
def Cmd.names (c : Cmd) : Bool :=
  [0x02, 0x03, 0x04, 0x10, 0x11, 0x31, 0x32, 0x51, 0x52].contains c.op || (c.op == 0x50 && !(c.flag 0))

/-- Byte k of the descriptor may be other than zero. -/
def Cmd.listed (c : Cmd) (k : Nat) : Bool := (parBytes c.op).any fun e => decide (e.1 ≤ k) && decide (k < e.1 + e.2)

/-- Parameters in their ranges, and the host addresses that the command needs not zero (R363, R367-R370). `corpus`: the partition has one,
so that the window parameters are not read. -/
def Cmd.paramsOk (c : Cmd) (corpus : Bool) : Bool :=
  let a := fun o => c.par o 8 != 0
  let within := fun (x lo hi : Nat) => decide (lo ≤ x) && decide (x ≤ hi)
  match c.op with
  | 0x01 =>
    let k := c.par 0x18 1
    let lim := c.par 0x20 4
    (k == 0 && lim % 64 == 0 && c.par 0x28 8 == 0)
    || (k == 1 && c.par 0x1A 2 == 0xFFFF && c.par 0x1C 2 == 0xFFFF && lim == 0 && c.par 0x28 8 == 0 && c.par 0x30 8 == 0)
    || (k == 2 && c.par 0x1C 2 == 0xFFFF && lim == 0 && c.par 0x30 8 == 0)
  | 0x02 => a 0x18 && within (c.par 0x20 4) 1 65536
  | 0x03 => a 0x18 && within (c.par 0x20 4) 1 65536
  | 0x10 => a 0x18 && a 0x20 && within (c.par 0x28 2) 1 1024 && decide (c.par 0x2A 2 ≤ min (c.par 0x28 2) 256) && decide (c.par 0x2C 1 ≤ 8)
  | 0x11 => a 0x18 && a 0x20 && a 0x28 && within (c.par 0x30 2) 1 256
  | 0x20 =>
    let m := c.flags % 4
    m != 3 && (m == 0 || !(c.flag 2)) && a 0x18 && (m == 1 || a 0x20) && (if m = 2 then c.par 0x28 8 == 0 else a 0x28)
    && within (c.par 0x30 4) 1 (if m = 2 then 24576 else 65536) && (corpus || c.par 0x3C 4 % 256 == 0)
  | 0x21 => a 0x18 && within (c.par 0x20 4) 1 65536
  | 0x22 => a 0x18 && a 0x20 && within (c.par 0x30 4) 1 49152
  | 0x30 => a 0x18
  | 0x32 => c.par 0x28 4 == 0 || a 0x20
  | 0x40 => a 0x18 && within (c.par 0x28 4) 1 0x4000000
  | 0x41 => a 0x18 && within (c.par 0x28 4) 1 0x4000000
  | 0x52 => a 0x18
  | _ => true

/-- Malformed (R363). -/
def Cmd.malformed (c : Cmd) (corpus : Bool) : Bool :=
  !(hostOps.contains c.op) || c.flags &&& flagMask c.op != c.flags || decide (8192 ≤ c.named)
  || ((List.range 40).any fun k => !(c.listed (0x18 + k)) && imgNum c.desc (0x18 + k) 1 != 0)
  || (!c.names && c.named != 0) || !(c.paramsOk corpus)

/-- The stream whose commands it joins: the one it names, or for a copy the plan's plan stream (R372). -/
def Cmd.stream? (c : Cmd) : Option Nat :=
  if c.op = 0x52 then none
  else if c.names then some (c.named % 8192)
  else if c.op = 0x40 ∨ c.op = 0x41 then some (c.par 0x20 2)
  else none

/-! ## Completions (R360, R361, R364) -/

/-- What a completion entry says beyond its ring and tag. -/
structure Result where
  status : Nat
  klass : Nat
  events : Nat
  reason : Nat
  stream : Nat
  r0 : Nat
  r1 : Nat
  deriving DecidableEq, Repr

/-- A completion without class, events or results (R364). -/
def Result.plain (status stream : Nat) : Result :=
  { status := status, klass := 0, events := 0, reason := 0, stream := stream, r0 := 0, r1 := 0 }

/-- The 32 B entry at count `n` of a ring of `size` entries (R360, R364). -/
def Result.entry (r : Result) (tag sq time n size : Nat) : List Byte :=
  toLe 4 tag ++ toLe 2 r.status ++ toLe 1 (128 * (1 - n / size % 2) + 32 * r.klass + r.reason) ++ toLe 1 sq ++ toLe 2 r.events
  ++ toLe 2 r.stream ++ toLe 4 r.r0 ++ toLe 8 time ++ toLe 8 r.r1

/-- An entry to write: port, submission and completion ring, tag. -/
structure Entry where
  port : Nat
  sq : Nat
  cq : Nat
  tag : Nat
  result : Result
  deriving DecidableEq, Repr

def CplRing.size (c : CplRing) : Nat := 2 ^ fld c.cfg 4 0
def SubRing.size (q : SubRing) : Nat := 2 ^ fld q.cfg 4 0

/-- Write one entry at the ring's completion count; its place is no longer reserved (R359, R360). -/
def State.writeEntry (s : State) (e : Entry) : State :=
  let c := (s.port e.port).cq e.cq
  let n := c.count.toNat
  let s := s.hostWrite e.port (c.base.toNat + 32 * (n % c.size)) (e.result.entry e.tag e.sq s.time.now n c.size)
  s.setPort e.port ((s.port e.port).setCq e.cq { c with count := c.count + 1, reserved := c.reserved - 1 })

/-- The head word of a ring (R361). -/
def SubRing.word (q : SubRing) (beat : Nat) : Nat :=
  q.head.toNat + 2 ^ 32 * b2n q.held + 2 ^ 33 * b2n q.dbErr + 2 ^ 40 * (beat % 2 ^ 24)

def State.headWord (s : State) (p n : Nat) : State :=
  let q := (s.port p).sq n
  let s := s.hostWrite p q.headword.toNat (toLe 8 (q.word s.beat))
  s.setPort p ((s.port p).setSq n { q with dbErr := false, headDirty := false })

/-- k more entries are unsignalled; the message goes out under CQ_COAL (R350, R361). -/
def State.signal (s : State) (p n k : Nat) : State :=
  let x := s.port p
  let c := x.cq n
  let u := c.unsignalled + k
  let oldest := if c.unsignalled = 0 then s.beat else c.oldestBeat
  if bitAt c.coal 31 && u != 0 && (fld c.coal 7 0 == 0 || decide (max 1 (fld c.coal 23 8) ≤ u)) then
    (s.setPort p (x.setCq n { c with unsignalled := 0 })).sendMsix p (fld c.coal 29 24)
  else s.setPort p (x.setCq n { c with unsignalled := u, oldestBeat := oldest })

/-- Entries written in one beat: then the head words of their rings, then the messages (R343, R361). -/
def State.writeEntries (s : State) (l : List Entry) : State :=
  let s := l.foldl (fun s e => s.writeEntry e) s
  let rings := (l.map fun e => (e.port, e.sq)).eraseDups
  let s := rings.foldl (fun s r => s.headWord r.1 r.2) s
  (l.map fun e => (e.port, e.cq)).eraseDups.foldl
    (fun s c => s.signal c.1 c.2 (l.filter fun e => (e.port, e.cq) == c).length) s

/-- Counters of a partition that a completion moves (R319). -/
def State.countCompletion (s : State) (part op status : Nat) : State :=
  let s := if status = stDeadline then s.hubInc (rService + 0x40 * part + 0x14) 1 else s
  if op = 0x10 ∨ op = 0x11 then
    let o := rService + 0x40 * part + 0x20
    s.setHub64 o (s.hub64 o + 1)
  else s

/-- The stream's record of a completion (R289, R290). -/
def Stream.ended (x : Stream) (r : Result) (now : Nat) : Stream :=
  if x.state = .free then x else
  { x with inflight := x.inflight - 1, lastTime := now, commands := x.commands + 1, classMax := max x.classMax r.klass,
           events := x.events ||| r.events, state := if x.state = .active ∧ x.inflight ≤ 1 then .idle else x.state }

/-- The books of a completion: counters, stream, and the command leaves. -/
def State.bookOut (s : State) (c : Cmd) (r : Result) : State :=
  let s := s.countCompletion c.part c.op r.status
  let s := match c.stream? with
    | some n => s.setStream n ((s.stream n).ended r s.time.now)
    | none => s
  { s with cmds := s.cmds.filter fun x => x.id != c.id }

def Cmd.entryOf (c : Cmd) (r : Result) : Entry := { port := c.port, sq := c.sq, cq := c.cq, tag := c.tag, result := r }

/-- Admitted commands complete together: their entries are written in this order, but for those that a port reset discards (R437). -/
def State.completeAll (s : State) (l : List (Cmd × Result)) : State :=
  let s := l.foldl (fun s e => s.bookOut e.1 e.2) s
  s.writeEntries ((l.filter fun e => !e.1.discard).map fun e => e.1.entryOf e.2)

def State.complete (s : State) (c : Cmd) (r : Result) : State := s.completeAll [(c, r)]

/-- The result of a command with the class and events it gathered. -/
def Cmd.result (c : Cmd) (status r0 r1 : Nat) : Result :=
  { status := status, klass := c.klass, events := c.events, reason := 0, stream := c.named, r0 := r0, r1 := r1 }

/-! ## Beats of work (R52, R53, R373) -/

/-- The beat in which the sum of g from beat `from_` on reaches `need`, where g repeats with the frame; none where it never does. -/
def beatsFor (len : Nat) (g : Nat → Nat) (from_ need : Nat) : Option Nat :=
  if need = 0 then some from_ else
  let tot := ((List.range len).map fun i => g (from_ + i)).sum
  if tot = 0 then none else
  let q := (need - 1) / tot
  let rem := need - q * tot
  let upTo := fun i => ((List.range (i + 1)).map fun j => g (from_ + j)).sum
  ((List.range len).find? fun i => decide (rem ≤ upTo i)).map fun i => from_ + q * len + i

/-- Regions that a plan uses. -/
def planUses (b : List Byte) : List Nat := (List.range 4).filter fun r => Nat.testBit (planRegions b) r

/-- The partition owns runs of the plan's class in every region that the plan uses (R52). -/
def State.ownsRuns (s : State) (b : List Byte) (part : Nat) : Bool :=
  (planUses b).all fun r => s.ownsClass r (planClass b) part

/-- W of a region at the point and beat length in force (R232). -/
def State.workOf (s : State) (b : List Byte) (r : Nat) : Nat := slotReq b r (s.region r).point s.beatCode

/-- Every region is at a point with a finite W (R232). -/
def State.finiteWork (s : State) (b : List Byte) : Bool := (planUses b).all fun r => s.workOf b r != 0xFFFFFFFF

/-- The first beat from `from_` on that holds an owned run of the class in a region of the list (R52, R239). -/
def State.firstOwned (s : State) (rs : List Nat) (klass part from_ : Nat) : Option Nat :=
  ((List.range s.frame.len).find? fun i => rs.any fun r => s.classBudget (from_ + i) r klass part != 0).map (from_ + ·)

/-- The last beat of a step that begins at beat b (R52). -/
def State.stepLast (s : State) (image : List Byte) (part b : Nat) : Option Nat :=
  (planUses image).foldl (fun acc r =>
    match acc, beatsFor s.frame.len (fun k => s.classBudget k r (planClass image) part) b (s.workOf image r) with
    | some a, some l => some (max a l)
    | _, _ => none) (if s.finiteWork image then some b else none)

/-- The last beat of n steps, the first of which begins at the first owned beat from `from_` on. -/
def State.stepsLast (s : State) (image : List Byte) (part : Nat) : Nat → Nat → Option Nat
  | 0, from_ => some from_
  | n + 1, from_ =>
    match (s.firstOwned (planUses image) (planClass image) part from_).bind fun b => s.stepLast image part b with
    | some l => if n = 0 then some l else s.stepsLast image part n (l + 1)
    | none => none

/-- The work of a plan's whole run (R232, R373). -/
def State.runLast (s : State) (image : List Byte) (part from_ : Nat) : Option Nat := s.stepsLast image part 1 from_

/-- Pages or pulses of `ns` that program-class runs of a partition give in a beat of a region (R99, R100). -/
def State.pumpBeat (s : State) (part ns r b : Nat) : Nat :=
  let mine := fun k => slotClass (s.slotByte b k r) == 5 && slotPart (s.slotByte b k r) == part
  let starts := (List.range 8).filter fun k => mine k && (k == 0 || !(sameRun (s.slotByte b (k - 1) r) (s.slotByte b k r)))
  (starts.map fun k => (s.runAt b k r).budget / s.cyclesOf r ns).sum

/-- The largest work on one stack of a region, for decks by device number: a stack holds one grant at a time (R101). -/
def perStack (work : Nat → Nat) (decks : List Nat) (r : Nat) : Nat :=
  let mine := decks.filter fun d => d / 12288 == r
  ((mine.map (· / 8)).eraseDups.map fun st => ((mine.filter fun d => d / 8 == st).map work).sum).foldl max 0

/-- The physical deck that serves a device deck number. -/
def State.deckOf (s : State) (d : Nat) : Deck :=
  let c := s.core (d / 192)
  c.deck (c.deckPos (d % 192))

/-- Pages left of a deck to be programmed, and pulses of one to be erased. -/
def State.pagesLeft (s : State) (d : Nat) : Nat := if (s.deckOf d).state = .ready then 0 else 17408 - (s.deckOf d).pages
def State.pulsesLeft (s : State) (d : Nat) : Nat :=
  match (s.deckOf d).state with
  | .erased => 0
  | .erasing => (s.deckOf d).pulses
  | _ => 400

/-- The last beat of program work on decks (R99, R100, R373). -/
def State.pumpLast (s : State) (part ns : Nat) (work : Nat → Nat) (decks : List Nat) (from_ : Nat) : Option Nat :=
  (List.range 4).foldl (fun acc r =>
    match acc, beatsFor s.frame.len (s.pumpBeat part ns r) from_ (perStack work decks r) with
    | some a, some l => some (max a l)
    | _, _ => none) (some from_)

/-! ### Queries (R308) -/

/-- The stack of a device deck, a borrowing pair counting as one (R404). -/
def State.scanStack (s : State) (d : Nat) : Nat :=
  let x := (s.core (d / 192)).stack (d % 192 / 8)
  if x.borrow || x.lending then d / 16 * 2 else d / 8

/-- Corpus decks on the stack that holds most: d of R308. -/
def State.corpusDepth (s : State) (c : Corpus) : Nat :=
  let l := c.decks.map fun d => s.scanStack d.1
  (l.eraseDups.map fun st => (l.filter (· == st)).length).foldl max 0

/-- T of R308. -/
def batchCycles (n d m : Nat) : Nat := 228 * n * d + 400 * n + 506 * m + 4000

/-- Regions that hold corpus decks. -/
def Corpus.regions (c : Corpus) : List Nat := (c.decks.map fun d => d.1 / 12288).eraseDups

/-- The last beat of a batch of T cycles that starts at beat b; a region without scan runs of the partition is served by fill and sets no
bound (R309; log entry 78, DESIGN CHOICE). -/
def State.scanLast (s : State) (part : Nat) (c : Corpus) (t b : Nat) : Option Nat :=
  c.regions.foldl (fun acc r =>
    if s.ownsClass r 3 part then
      match acc, beatsFor s.frame.len (fun k => s.classBudget k r 3 part) b t with
      | some a, some l => some (max a l)
      | _, _ => none
    else acc) (some b)

def Cmd.isQuery (c : Cmd) : Bool := c.op == 0x10 || c.op == 0x11

/-- Queries of a partition that wait for a batch. -/
def State.waitingQueries (s : State) (part : Nat) : List Cmd :=
  s.cmds.filter fun c => c.isQuery && c.part == part && decide (c.phase = .waiting)

/-- The last beat of the batch in flight, which needs T cycles from its start (R308), and not before now. -/
def State.batchLast (s : State) (part : Nat) : Option Nat :=
  match s.corpus? part, mget s.batches part with
  | some k, some b =>
    let qs := b.cmds.filterMap s.cmd?
    let n := max 1 (k.decks.map (·.1 / 8)).eraseDups.length
    let r := (qs.map fun q => if q.op = 0x10 then q.par 0x2A 2 else q.par 0x30 2).sum
    (s.scanLast part k (batchCycles qs.length (s.corpusDepth k) (ceilDiv r n)) b.start).map (max s.beat)
  | _, _ => some s.beat

/-- The least last beat of a query: the batch of its admission's boundary has begun already, a batch in flight ends first, and older queries
fill the batches before its own (R308). -/
def State.queryLast (s : State) (c : Cmd) (from_ : Nat) : Option Nat :=
  match s.corpus? c.part with
  | none => none
  | some k =>
    let nStk := (k.decks.map (·.1 / 8)).eraseDups.length
    let r := if c.op = 0x10 then c.par 0x2A 2 else c.par 0x30 2
    let ahead := ((s.waitingQueries c.part).filter fun w => decide (w.id < c.id)).length / max 1 (s.part c.part).queryBatch
    let first := max from_ (c.admitBeat + 1)
    let first := if (mget s.batches c.part).isSome then max first ((s.batchLast c.part).getD s.beat + 1) else first
    s.scanLast c.part k (batchCycles 1 (s.corpusDepth k) (ceilDiv r (max 1 nStk))) (first + ahead)

/-! ### The test -/

/-- The plan of a stream. -/
def State.planOf (s : State) (stream : Nat) : Option Plan := s.plan? (s.stream stream).plan

/-- The prefill plan that serves the appends of a stream: it names one and the partition owns its runs (R301). -/
def State.prefillOf (s : State) (n : Nat) : Option (Nat × Plan) :=
  let x := s.stream n
  match s.plan? x.prefill with
  | some p => if x.prefill ≠ 0xFFFF ∧ s.ownsRuns p.image p.part = true then some (x.prefill, p) else none
  | none => none

/-- The least last beat of k further steps of a plan, of which `joined` says that the step in progress is the first (R52, R53). -/
def State.stepsFrom (s : State) (n : Nat) (p : Plan) (k : Nat) (joined : Bool) (from_ : Nat) : Option Nat :=
  match s.run? n with
  | some r =>
    let last := max (r.firstBeat + r.beats - 1) s.beat
    if !r.inStep then s.stepsLast p.image p.part k from_
    else if !joined then s.stepsLast p.image p.part k (max from_ (last + 1))
    else if k ≤ 1 then some last else s.stepsLast p.image p.part (k - 1) (max from_ (last + 1))
  | none => s.stepsLast p.image p.part k from_

/-- The beat from which a command's work may begin: its not-before beat, or the next boundary (R53, R373). -/
def State.workFrom (s : State) (c : Cmd) : Nat := max c.notBefore (s.nextBoundary / s.beatNs)

/-- The plan that a PLAN_RUN or TRAIN_STEP runs. -/
def State.runPlan (s : State) (c : Cmd) : Nat := if c.op = 0x31 then c.named else (s.stream c.named).plan

/-- The run that executes a command. -/
def State.runOf (s : State) (c : Cmd) : Option (Nat × Plan × Run) :=
  let n := s.runPlan c
  match s.plan? n, s.run? n with
  | some p, some r => if r.cmd = some c.id then some (n, p, r) else none
  | _, _ => none

/-- The least last beat of the run of a PLAN_RUN or TRAIN_STEP: of the step in progress, of the work begun, or of a run that begins at
`from_` at the earliest (R52, R232). How many steps a run of steps takes is not known before its end: one at least. -/
def State.runEnd (s : State) (c : Cmd) (p : Plan) (from_ : Nat) : Option Nat :=
  match s.runOf c with
  | some (n, p, r) =>
    if planStepped p.image then s.stepsFrom n p 1 r.inStep from_ else (s.runLast p.image p.part r.firstBeat).map (max s.beat)
  | none => s.runLast p.image p.part from_

/-- The beat from which a run can begin: a plan has one run at a time, so after those of the commands admitted before (R239). -/
def State.afterRuns (s : State) (c : Cmd) (p : Plan) (b : Nat) : Nat :=
  (s.cmds.filter fun e => (e.op == 0x31 || e.op == 0x32) && s.runPlan e == s.runPlan c && decide (e.id < c.id)).foldl (fun b e =>
    match s.runEnd e p (max b e.notBefore) with
    | some l => max b (l + b2n (planStepped p.image))
    | none => b) b

/-- The earliest beat in which the rest of a command's work can complete (R52, R53, R373). -/
def State.earliest (s : State) (c : Cmd) : Option Nat :=
  let b := s.workFrom c
  match c.op with
  | 0x02 =>
    let left := c.par 0x20 4 - c.done
    match s.prefillOf c.named with
    | some (n, p) => s.stepsFrom n p (b2n (c.joined != 0) + ceilDiv (left - c.joined) 64) (c.joined != 0) b
    | none => match s.planOf c.named with
      | some p => s.stepsFrom (s.stream c.named).plan p left (c.joined != 0) (if c.joined ≠ 0 then b else max b (c.admitBeat + 2))
      | none => none
  | 0x03 =>
    let x := s.stream c.named
    match s.planOf c.named with
    | some p => s.stepsFrom x.plan p (min (c.par 0x20 4 - c.done) (x.limit - x.length)) (c.joined != 0)
        (if c.joined ≠ 0 then b else max b (c.admitBeat + 2))
    | none => none
  | 0x10 => if c.phase = .running then s.batchLast c.part else s.queryLast c b
  | 0x11 => if c.phase = .running then s.batchLast c.part else s.queryLast c b
  | 0x20 =>
    if c.flags % 4 = 2 then some b else s.pumpLast c.part pageNs s.pagesLeft c.decks b
  | 0x21 => if c.flag 0 then s.pumpLast c.part pulseNs s.pulsesLeft c.decks b else some b
  | 0x22 => s.pumpLast c.part pageNs s.pagesLeft c.decks b
  | 0x30 => some (b + 8)
  | 0x31 => match s.plan? c.named with
    | some p => s.runEnd c p (s.afterRuns c p b)
    | none => none
  | 0x32 => match s.planOf c.named with
    | some p => s.runEnd c p (s.afterRuns c p b)
    | none => none
  | _ => some b

/-- The deadline cannot be met (R53). -/
def State.late (s : State) (c : Cmd) : Bool :=
  c.deadline != 0 && (decide (c.deadline < c.notBefore) || match s.earliest c with
    | some l => decide (c.deadline < l)
    | none => true)

/-! ## Order (R291, R292, R372, R374) -/

/-- The plan whose plan order a command is held in (R372). -/
def State.orderPlan (s : State) (c : Cmd) : Option Nat :=
  if c.op = 0x31 then some c.named
  else if c.op = 0x32 then some (s.stream c.named).plan
  else if c.op = 0x40 ∨ c.op = 0x41 then some (c.par 0x20 2)
  else none

/-- An earlier admitted command that a command must wait for. -/
def State.blocks (s : State) (e c : Cmd) : Bool :=
  let sameStream := e.names && c.names && e.named == c.named && e.op != 0x52 && c.op != 0x52
  let retrieval := (s.stream c.named).kind == 1
  let queue := e.isQuery && c.isQuery
  (sameStream && !(retrieval && queue))
  || (match s.orderPlan e, s.orderPlan c with
      | some a, some b => a == b
      | _, _ => false)
  || (e.port == c.port && e.sq == c.sq && ((e.op == 0x50 && e.flag 0) || (c.op == 0x50 && c.flag 0)))

/-- Nothing admitted before it holds the command back, and its not-before beat has come (R53, R372). -/
def State.mayStart (s : State) (c : Cmd) : Bool :=
  decide (c.notBefore ≤ s.beat) && s.cmds.all fun e => decide (c.id ≤ e.id) || !(s.blocks e c)

/-! ## Quotas in use (R316, R319) -/

def State.slotsBound (s : State) (q : Nat) : Nat :=
  (s.streams.filter fun e => decide (e.2.state ≠ .free) && e.2.part == q && e.2.slot.isSome).length

def State.pagesReserved (s : State) (q : Nat) : Nat :=
  ((s.streams.filter fun e => decide (e.2.state ≠ .free) && e.2.part == q).map fun e => e.2.pages).sum

def State.queriesInFlight (s : State) (q : Nat) : Nat := (s.cmds.filter fun c => c.isQuery && c.part == q).length

/-- Streams open or about to be opened by an admitted command. -/
def State.streamsCharged (s : State) (q : Nat) : Nat :=
  s.openStreams q + (s.cmds.filter fun c => (c.op == 0x01 || c.op == 0x30) && c.part == q).length

/-- The lowest free entry of the stream table (R287). -/
def State.freeStream (s : State) : Option Nat := (List.range s.nStreams).find? fun n => decide ((s.stream n).state = .free)

/-- The lowest free generation slot (R293). -/
def State.freeSlot (s : State) : Option Nat := (List.range s.nSlots).find? fun n => (mget s.slots n).isNone

/-- The least LENGTH, and whether a token is pending, once a command has been served: a STREAM_GENERATE caches one token or more
(R294; log entry 79, DESIGN CHOICE). -/
def projStep (limit : Nat) (acc : Nat × Bool) (c : Cmd) : Nat × Bool :=
  let n := c.par 0x20 4
  if c.op = 0x02 then
    (acc.1 + (if 0 < c.done then n - c.done else if acc.2 then n else n - 1), true)
  else if c.op = 0x03 then (min limit (acc.1 + 1), acc.2)
  else acc

/-- LENGTH and pending as the stream's admitted commands will leave them (R294, R295; log entry 79, DESIGN CHOICE). -/
def State.projected (s : State) (n : Nat) : Nat × Bool :=
  let x := s.stream n
  (s.cmds.filter fun c => c.names && c.named == n).foldl (projStep x.limit) (x.length, x.pending.isSome)

/-- Slot pages that a command's admission reserves: for the LENGTH it would reach (R296). -/
def State.pagesFor (s : State) (c : Cmd) : Nat :=
  let x := s.stream c.named
  let l := if c.op = 0x03 then (s.projected c.named).1 + c.par 0x20 4 else (projStep x.limit (s.projected c.named) c).1
  max x.pages (ceilDiv (min x.limit l) 64)

/-! ## Decks of a command (R311, R312, R369) -/

/-- n 4 B values that the host's memory holds at an address, as the port has read them. -/
def State.hostWords (s : State) (p addr n : Nat) : List Nat := (List.range n).map fun i => (s.port p).host.num (addr + 4 * i) 4

/-- Decks that admitted commands have taken. -/
def State.takenDecks (s : State) : List Nat := s.cmds.flatMap fun c => if c.op = 0x20 ∨ c.op = 0x22 then c.decks else []

/-- In a DECKMAP of a loaded task. -/
def State.mapped (s : State) (d : Nat) : Bool :=
  (s.core (d / 192)).tasks.any fun t => t.valid && t.deckMap.any fun e => fld e 23 16 == d % 192

def State.deckStateOf (s : State) (d : Nat) : DeckState := (s.deckOf d).state

/-- A deck that a corpus program may take: ERASED, privately owned, in no corpus and no DECKMAP (R311). -/
def State.deckFree (s : State) (part d : Nat) : Bool :=
  ownerWrites (s.rights d) part && decide (s.deckStateOf d = .erased) && !(s.mapped d)
  && !(s.corpora.any fun e => e.2.decks.any fun k => k.1 == d)

/-- The index of the least value, the lowest where several are least. -/
def argMin (l : List (Nat × Nat)) : Option Nat :=
  (l.foldl (fun (m : Option (Nat × Nat)) e => match m with
    | some b => if e.2 < b.2 then some e else some b
    | none => some e) none).map (·.1)

/-- The next deck of R311: the slice with the fewest corpus decks, then the stack, then the lowest deck. -/
def nextDeck (free corpus : List Nat) : Option Nat :=
  let slices := (free.map (· / 192)).eraseDups.map fun c => (c, (corpus.filter fun d => d / 192 == c).length)
  (argMin slices).bind fun c =>
    let mine := free.filter fun d => d / 192 == c
    let loads := (mine.map (· / 8)).eraseDups.map fun st => (st, (corpus.filter fun d => d / 8 == st).length)
    (argMin loads).bind fun st => (mine.filter fun d => d / 8 == st).head?

/-- Choose n decks one after the other; none where too few are free. -/
def chooseDecks : Nat → List Nat → List Nat → List Nat → Option (List Nat)
  | 0, _, _, acc => some acc
  | n + 1, free, corpus, acc =>
    match nextDeck free corpus with
    | some d => chooseDecks n (free.filter (· != d)) (d :: corpus) (acc ++ [d])
    | none => none

/-- Device decks that a partition owns privately, rising. -/
def State.ownedDecks (s : State) (part : Nat) : List Nat := (s.deckOwner.filter fun e => ownerWrites e.2 part).map (·.1)

def State.chosenDecks (s : State) (c : Cmd) : Option (List Nat) :=
  let taken := s.takenDecks
  let free := (s.ownedDecks c.part).filter fun d => s.deckFree c.part d && !(taken.contains d)
  let corpus := (match s.corpus? c.part with
    | some k => k.decks.map (·.1)
    | none => []) ++ taken
  chooseDecks (ceilDiv (c.par 0x30 4) 1024) free corpus []

/-- The decks that a command names or takes at its admission. -/
def State.decksOf (s : State) (c : Cmd) : List Nat :=
  match c.op with
  | 0x20 => if c.flags % 4 = 2 then s.hostWords c.port (c.par 0x18 8) (c.par 0x30 4) else (s.chosenDecks c).getD []
  | 0x21 => if c.flag 0 then s.hostWords c.port (c.par 0x18 8) (c.par 0x20 4) else []
  | 0x22 => s.hostWords c.port (c.par 0x20 8) (c.par 0x30 4)
  | _ => []

/-! ## Admission (R317) -/

/-- What admission does with the head of a ring. -/
inductive Verdict where
  /-- Consumed, and completed with a status. -/
  | consume (status : Nat)
  | hold
  | take
  deriving DecidableEq, Repr

/-- Kinds and the commands they accept (R288). -/
def kindAccepts (kind op : Nat) : Bool :=
  op == 0x04 || op == 0x50 || op == 0x51 || op == 0x52
  || (kind == 0 && (op == 0x02 || op == 0x03)) || (kind == 1 && (op == 0x10 || op == 0x11))
  || (kind == 2 && op == 0x32) || (kind == 3 && op == 0x31)

/-- A loaded plan of the partition with a class. -/
def State.planIs (s : State) (n part klass : Nat) : Bool :=
  match s.plan? n with
  | some p => p.part == part && planClass p.image == klass
  | none => false

/-- An open generation or training stream names the plan (R292, R366). -/
def State.planNamed (s : State) (n : Nat) : Bool :=
  s.streams.any fun e => decide (e.2.state ≠ .free) && (e.2.kind == 0 || e.2.kind == 2) && (e.2.plan == n || e.2.prefill == n)

/-- The stream tests of R287, R288 and R290. A stream that is being closed takes no command but an ABORT close (R292; log entry 85). -/
def State.streamTest (s : State) (c : Cmd) : Option Nat :=
  if c.names = false then none else
  let x := s.stream c.named
  let abort := c.op == 0x04 && c.flag 0
  let closes := s.cmds.filter fun e => e.op == 0x04 && e.named == c.named
  if s.nStreams ≤ c.named ∨ x.state = .free then some stBadStream
  else if x.part ≠ c.part then some stAccessDenied
  else if closes ≠ [] ∧ (abort = false ∨ closes.any (·.flag 0) = true) then some stBadStream
  else if x.state = .failed ∧ c.op ≠ 0x04 then some stStreamFailed
  else if kindAccepts x.kind c.op = false then some stBadStream
  else none

/-- A run of the plan can be served (R52, R232). -/
def State.slotTest (s : State) (p : Plan) : Option Nat :=
  if s.ownsRuns p.image p.part && s.finiteWork p.image then none else some stNoSlot

/-- The plan and the range of a copy (R370). -/
def State.copyTest (s : State) (c : Cmd) : Option Nat :=
  match s.plan? (c.par 0x20 2) with
  | none => some stBadStream
  | some p =>
    if p.part ≠ c.part then some stAccessDenied
    else if planStageLen p.image < c.par 0x24 4 + c.par 0x28 4 then some stBoundFault
    else none

/-- The other tests that complete a command at admission without a quota (R292, R294, R311, R340, R366-R370). -/
def State.commandTest (s : State) (c : Cmd) : Option Nat :=
  match c.op with
  | 0x01 =>
    let k := c.par 0x18 1
    let pre := c.par 0x1C 2
    if k = 1 ∨ (k = 0 ∧ s.planIs (c.par 0x1A 2) c.part 1 = true ∧ (pre = 0xFFFF ∨ s.planIs pre c.part 2 = true))
      ∨ (k = 2 ∧ s.planIs (c.par 0x1A 2) c.part 4 = true) then none else some stBadStream
  | 0x03 => if (s.projected c.named).2 then none else some stNoInput
  | 0x04 => if (s.stream c.named).kind = 3 ∧ s.planNamed c.named = true then some stPlanBusy else none
  | 0x10 => if (s.corpus? c.part).isSome then none else some stAccessDenied
  | 0x11 => if (s.corpus? c.part).isSome then none else some stAccessDenied
  | 0x20 => if c.flags % 4 ≠ 2 ∧ (s.chosenDecks c).isNone then some stCorpusFull else none
  | 0x22 =>
    let ds := s.decksOf c
    let taken := s.takenDecks
    if ds.any fun d => decide (s.deckStateOf d ≠ .erased) || taken.contains d then some stDeckState
    else if ds.any fun d => !(ownerWrites (s.rights d) c.part) then some stAccessDenied
    else none
  | 0x31 =>
    if s.planNamed c.named then some stPlanBusy else
    match s.plan? c.named with
    | some p => s.slotTest p
    | none => some stBadStream
  | 0x32 =>
    match s.planOf c.named with
    | some p => if planStageLen p.image < c.par 0x28 4 + 256 then some stBadDescriptor else s.slotTest p
    | none => some stBadStream
  | 0x40 => s.copyTest c
  | 0x41 => s.copyTest c
  | _ => none

/-- A request that exceeds a quota itself (R317 test 2). -/
def State.quotaTest (s : State) (c : Cmd) : Option Nat :=
  let q := s.part c.part
  let x := s.stream c.named
  match c.op with
  | 0x01 => if q.streams = 0 ∨ (c.par 0x18 1 = 0 ∧ q.maxContext < c.par 0x20 4) then some stQuotaExceeded else none
  | 0x30 => if q.streams = 0 then some stQuotaExceeded else none
  | 0x02 =>
    if x.limit < (projStep x.limit (s.projected c.named) c).1 then some stContextExceeded
    else if (x.slot.isNone ∧ q.genSlots = 0) ∨ q.cachePages < s.pagesFor c then some stQuotaExceeded
    else none
  | 0x03 =>
    if x.limit ≤ (s.projected c.named).1 then some stContextExceeded
    else if q.cachePages < s.pagesFor c then some stQuotaExceeded
    else none
  | 0x10 => if q.queryInflight = 0 then some stQuotaExceeded else none
  | 0x11 => if q.queryInflight = 0 then some stQuotaExceeded else none
  | _ => none

/-- Commands of a stream that are admitted, copies of its plan among them (R291, R372). -/
def State.streamLoad (s : State) (n : Nat) : Nat :=
  (s.cmds.filter fun e => e.stream? == some n && ((s.stream n).kind != 1 || e.isQuery)).length

/-- A dormant or hibernate entry has been accepted, or the block hibernates: descriptors wait at ring heads (R439, R440). -/
def State.sleepy (s : State) : Bool := fld (s.hubWord rHibStatus) 1 0 != 0 || s.regions.any fun x => decide (x.service = .entering)

/-- A stream limit, or a quota that is full for now (R317 test 4). -/
def State.mustWait (s : State) (c : Cmd) : Bool :=
  let q := s.part c.part
  let x := s.stream c.named
  let abort := c.op == 0x04 && c.flag 0
  let full := match c.stream? with
    | some n => !abort && (if (s.stream n).kind = 1 then c.isQuery && decide (64 ≤ s.streamLoad n) else decide (2 ≤ s.streamLoad n))
    | none => false
  full || s.sleepy
  || (match c.op with
      | 0x01 => decide (q.streams ≤ s.streamsCharged c.part) || s.freeStream.isNone
      | 0x30 => decide (q.streams ≤ s.streamsCharged c.part) || s.freeStream.isNone
      | 0x02 => (x.slot.isNone && (decide (q.genSlots ≤ s.slotsBound c.part) || s.freeSlot.isNone))
          || decide (q.cachePages + x.pages < s.pagesReserved c.part + s.pagesFor c)
      | 0x03 => decide (q.cachePages + x.pages < s.pagesReserved c.part + s.pagesFor c)
      | 0x10 => decide (q.queryInflight ≤ s.queriesInFlight c.part)
      | 0x11 => decide (q.queryInflight ≤ s.queriesInFlight c.part)
      | _ => false)

/-- The first of a list of tests that gives a status. -/
def firstStatus : List (Option Nat) → Option Nat
  | [] => none
  | some a :: _ => some a
  | none :: l => firstStatus l

/-- The tests of R317, in order. `owned`: the port belongs to a partition (R340). -/
def State.verdict (s : State) (c : Cmd) (owned : Bool) : Verdict :=
  if owned = false then .consume stAccessDenied
  else if c.malformed (s.corpus? c.part).isSome then .consume stBadDescriptor
  else match firstStatus [s.streamTest c, s.commandTest c, s.quotaTest c, if s.late c then some stDeadline else none] with
    | some st => .consume st
    | none => if s.mustWait c then .hold else .take

/-- Rows of the frame f of a kind in its DCM, the bytes of each row, and their offset (R191-R193). -/
def frameRows (kind f : Nat) : Nat × Nat × Nat × Nat :=
  if kind = 0 then (512 * (f % 2), 512, 32, 32 * (f / 2 % 8)) else if kind = 1 then (64 * (f % 16), 64, 256, 0) else (8 * (f % 128), 8, 256, 0)

/-- Fill a frame with zeros by row writes (R190, R297). -/
def Core.zeroFrame (c : Core) (dcm kind f : Nat) : Core :=
  let (row, n, len, off) := frameRows kind f
  let c := c.dcmStore ((List.range n).foldl (fun m i => m.clear (dcmAddr dcm (row + i) + off) len) c.dcmView)
  if len = 256 then c.rowsWritten dcm row n else c

/-- Frames of a slot page, in the DCM ranges of the plan's cores (R201, R297; log entry 81). -/
def pageOf (image : List Byte) (slot page : Nat) : List (Nat × Nat × Nat) :=
  (Config.pageFrames image slot page).filter fun f =>
    Nat.testBit (planMask image) f.1 && decide (planDcmLo image ≤ f.2.1) && decide (f.2.1 ≤ planDcmHi image)

/-- Allocate the next page of a slot: its frames are zeroed (R190, R297). -/
def State.allocPage (s : State) (slot : Nat) : State :=
  match mget s.slots slot with
  | none => s
  | some x =>
    let s := { s with slots := sins s.slots slot { x with allocated := x.allocated + 1 } }
    match s.planOf x.stream with
    | none => s
    | some p => (pageOf p.image slot x.allocated).foldl (fun s f =>
        s.modCore f.1 fun c => c.zeroFrame f.2.1 (Config.pageKind p.image f.1 f.2.1 % 3) f.2.2) s

/-- Bind a slot, whose page 0 is allocated with it, and reserve pages (R293, R296, R297); a STREAM_CLOSE puts its stream in CLOSING, with
ABORT it aborts what is admitted (R290, R292). A FAILED stream stays FAILED until it is FREE. -/
def State.admitStream (s : State) (c : Cmd) : State :=
  match c.stream? with
  | none => s
  | some n =>
    let pages := if c.op = 0x02 ∨ c.op = 0x03 then s.pagesFor c else (s.stream n).pages
    let s := match decide (c.op = 0x02) && (s.stream n).slot.isNone, s.freeSlot with
      | true, some k => ({ s with slots := sins s.slots k { stream := n, allocated := 0 } }.allocPage k).setStream n { s.stream n with slot := some k }
      | _, _ => s
    let x := s.stream n
    let abort := c.op == 0x04 && c.flag 0
    let s := s.setStream n { x with
      inflight := x.inflight + 1, pages := pages, abort := x.abort || abort,
      state := if x.state = .failed then .failed else if c.op = 0x04 then .closing else if x.state = .idle then .active else x.state }
    if abort then { s with cmds := s.cmds.map fun e => if e.stream? = some n then { e with abort := true } else e } else s

/-- The command enters the list of admitted commands. -/
def State.admitCmd (s : State) (c : Cmd) : State :=
  let c := { c with decks := s.decksOf c, done := 0, phase := .waiting, admitBeat := s.beat }
  let s := s.admitStream c
  { s with cmds := s.cmds ++ [c], nextCmd := s.nextCmd + 1 }

/-! ## STATS (R289, R319, R374) -/

def streamStateCode : StreamState → Nat
  | .free => 0
  | .idle => 1
  | .active => 2
  | .closing => 3
  | .failed => 4

/-- The first 128 B of a stream-table entry (R289). -/
def Stream.entry (x : Stream) : List Byte :=
  toLe 1 (streamStateCode x.state) ++ toLe 1 x.kind ++ toLe 1 x.part
  ++ toLe 1 (b2n x.slot.isSome + 2 * b2n x.pending.isSome + 4 * b2n x.abort)
  ++ toLe 2 x.plan ++ toLe 2 x.prefill ++ toLe 2 (x.slot.getD 0xFFFF) ++ toLe 2 x.inflight ++ toLe 4 x.length ++ toLe 4 x.limit
  ++ toLe 4 x.pages ++ toLe 4 (x.pending.getD 0).toNat ++ toLe 1 x.classMax ++ toLe 1 0 ++ toLe 2 x.events
  ++ (x.sampling ++ List.replicate (32 - x.sampling.length) 0)
  ++ toLe 8 x.openBeat ++ toLe 8 x.lastTime ++ toLe 8 x.commands ++ toLe 8 x.units
  ++ (tabulate 4 fun i => x.stop.getD i 0).flatMap (fun w => toLe 4 w.toNat) ++ List.replicate 16 0

/-- Byte i of a FREE entry: STATE and the RsvdZ fields read 0, the rest is open (log entry 80, DESIGN CHOICE). -/
def freeEntryByte (b : Byte) (i : Nat) : Byte :=
  if i = 0 ∨ i = 0x1D ∨ (0x70 ≤ i ∧ i < 0x80) then 0 else if i = 2 then b &&& 3 else if i = 3 then b &&& 7 else b

/-- The 256 B entry of a stream number (R289); its INTERNAL bytes are free values (log entry 80, DESIGN CHOICE). -/
def State.streamEntry (s : State) (n : Nat) : List Byte :=
  let x := s.stream n
  let any := fun i => BitVec.ofInt 8 (s.free (4000 + 256 * n + i))
  if x.state = .free then tabulate 256 fun i => freeEntryByte (any i) i
  else x.entry ++ tabulate 128 fun i => any (128 + i)

/-- Corpus vectors without a tombstone (R319). -/
def State.corpusLive (s : State) (k : Corpus) : Nat :=
  (k.decks.map fun d =>
    let a := dcmAddr k.tagDcm (960 + d.2 % 120 / 2) + 128 * (d.2 % 2) + 0x40000 * (d.2 / 120)
    1024 - (((s.core (d.1 / 192)).dcmView.read a 128).map fun b => ((List.range 8).filter fun i => bitAt b i).length).sum).sum

/-- A word of the stream-service block of a partition (R319). -/
def State.serviceWord (s : State) (q off : Nat) : Word :=
  let w := fun (n : Nat) => BitVec.ofNat 32 n
  match off with
  | 0x00 => w (s.openStreams q)
  | 0x04 => w (s.slotsBound q)
  | 0x08 => w (s.pagesReserved q)
  | 0x0C => w (s.queriesInFlight q)
  | 0x28 => ((s.corpus? q).map (·.epoch)).getD 0
  | 0x2C => w (((s.corpus? q).map s.corpusLive).getD 0)
  | 0x30 => w (((s.corpus? q).map fun k => k.decks.length).getD 0)
  | _ => s.hubWord (rService + 0x40 * q + off)

/-- The 64 B block. -/
def State.serviceBlock (s : State) (q : Nat) : List Byte := (List.range 16).flatMap fun i => toLe 4 (s.serviceWord q (4 * i)).toNat

/-- The step length in beats of the stream's running plan, or 0 (R374). -/
def State.stepLength (s : State) (n : Nat) : Nat :=
  match s.run? (s.stream n).plan with
  | some r => r.beats
  | none => 0

/-! ## One descriptor at the head of a ring -/

/-- A reserved completion place exists (R359). -/
def CplRing.hasPlace (c : CplRing) : Bool := decide ((c.count - c.cqHead).toNat + c.reserved < c.size)

/-- The descriptor at a count of a ring, as the port has read it (R355; log entry 8, DESIGN CHOICE). -/
def State.descAt (s : State) (p n : Nat) : List Byte :=
  let q := (s.port p).sq n
  (s.port p).host.read (q.base.toNat + 64 * (q.head.toNat % q.size)) 64

/-- A descriptor as a command with the next number. -/
def State.cmdOf (s : State) (p n part : Nat) (d : List Byte) : Cmd :=
  let c : Cmd := { id := s.nextCmd, port := p, sq := n, cq := fld ((s.port p).sq n).cfg 21 16, desc := d, part := part, admitBeat := s.beat,
                   phase := .waiting, done := 0, klass := 0, events := 0, joined := 0, fail := none, abort := false,
                   discard := false, decks := [], keySlot := none, content := [] }
  let c := { c with decks := s.decksOf c }
  if (c.op = 0x22 ∧ c.flag 0 = true) ∨ (c.op = 0x20 ∧ c.flag 2 = true) then
    { c with keySlot := some ((s.port p).host.num (c.par 0x18 8 + 6) 1) }
  else c

/-- The ring waits: its head stays (R317 test 4). Each beat of a partition counts once in OVERLOAD_BEATS (R318). -/
def State.holdRing (s : State) (p n : Nat) (part : Option Nat) : State :=
  let x := s.port p
  let q := x.sq n
  let s := s.setPort p (x.setSq n { q with held := true, headDirty := q.headDirty || !q.held })
  match part with
  | none => s
  | some a =>
    if sget 0 s.overloadBeat a = s.beat + 1 then s
    else { s with overloadBeat := sput 0 s.overloadBeat a (s.beat + 1) }.hubInc (rService + 0x40 * a + 0x10) 1

/-- The head moves past its descriptor. -/
def State.passHead (s : State) (p n : Nat) : State :=
  let x := s.port p
  let q := x.sq n
  s.setPort p (x.setSq n { q with head := q.head + 1, held := false, headDirty := true })

def State.reserve (s : State) (p cq : Nat) : State :=
  let x := s.port p
  let c := x.cq cq
  s.setPort p (x.setCq cq { c with reserved := c.reserved + 1, full := false })

/-- STATS (R374). -/
def State.doStats (s : State) (c : Cmd) : State × Result :=
  let data := s.streamEntry c.named ++ (if c.flag 0 then s.serviceBlock c.part else [])
  let x := s.stream c.named
  let s := (s.setStream c.named { x with lastTime := s.time.now, commands := x.commands + 1 }).tookFree
  (s.hostWrite c.port (c.par 0x18 8) data, { Result.plain stSuccess c.named with r0 := s.stepLength c.named })

/-- Examine the descriptor at the head of a ring: the flag says that it was admitted or consumed, the entry that it completed. -/
def State.examine (s : State) (p n : Nat) : State × Bool × Option Entry :=
  let q := (s.port p).sq n
  let cq := fld q.cfg 21 16
  let part := s.portPart p
  if ((s.port p).cq cq).hasPlace = false then
    let s := s.holdRing p n part
    let x := s.port p
    (s.setPort p (x.setCq cq { x.cq cq with full := true }), false, none)
  else
    let c := s.cmdOf p n (part.getD 4) (s.descAt p n)
    match s.verdict c part.isSome with
    | .hold => (s.holdRing p n part, false, none)
    | .consume st =>
      let s := (s.reserve p cq).passHead p n
      (if st = stDeadline then s.hubInc (rService + 0x40 * c.part + 0x14) 1 else s, true, some (c.entryOf (Result.plain st c.named)))
    | .take =>
      (((s.reserve p cq).passHead p n).admitCmd c, true, none)

/-! ## A poll (R351, R357, R358) -/

def SubRing.unexamined (q : SubRing) : Bool := q.inEffect && q.tail != q.head

/-- Up to w descriptors of one ring. -/
def State.serveRing (p n : Nat) : Nat → State × Nat × List Entry → State × Nat × List Entry
  | 0, a => a
  | w + 1, (s, left, es) =>
    if left = 0 ∨ ((s.port p).sq n).unexamined = false then (s, left, es)
    else match s.examine p n with
      | (s, true, e) => State.serveRing p n w (s, left - 1, es ++ e.toList)
      | (s, false, _) => (s, left, es)

/-- One round over the rings in an order: each up to its weight. -/
def State.serveRound (p : Nat) (order : List Nat) (a : State × Nat × List Entry) : State × Nat × List Entry :=
  order.foldl (fun a n => State.serveRing p n (max 1 (fld ((a.1.port p).sq n).cfg 27 24)) a) a

/-- Rounds until none examines a descriptor or the limit is reached. Only the first starts elsewhere than at ring 0. -/
def State.serveRounds (p : Nat) : Nat → List Nat → State × Nat × List Entry → State × Nat × List Entry
  | 0, _, a => a
  | fuel + 1, order, a =>
    let b := State.serveRound p order a
    if b.2.1 = a.2.1 ∨ b.2.1 = 0 then b else State.serveRounds p fuel (List.range 64) b

/-- Enables and disables of the port's rings take effect (R351). -/
def Port.takeEnables (x : Port) : Port :=
  { x with
    sqs := x.sqs.map fun e => (e.1, let on := bitAt e.2.cfg 31
                                    if on && !e.2.inEffect then { e.2 with inEffect := true, head := 0, tail := 0, held := false, dbErr := false, headDirty := false }
                                    else { e.2 with inEffect := on }),
    cqs := x.cqs.map fun e => (e.1, let on := bitAt e.2.cfg 31
                                    if on && !e.2.inEffect then { e.2 with inEffect := true, count := 0, cqHead := 0, reserved := 0, full := false, unsignalled := 0 }
                                    else { e.2 with inEffect := on }) }

/-- An invalid field of doorbell word n is ignored and reported in the head words of its ring, or of the rings that name the completion
ring; else it is accepted (R357). -/
def Port.takeDoorbell (x : Port) (n : Nat) : Port :=
  let w := x.host.num (x.doorbellBase.toNat + 8 * n) 8
  let tail : Word := BitVec.ofNat 32 w
  let cqh : Word := BitVec.ofNat 32 (w / 2 ^ 32)
  let q := x.sq n
  let x := if q.inEffect then
      if q.size < (tail - q.head).toNat then x.setSq n { q with dbErr := true, headDirty := true } else x.setSq n { q with tail := tail }
    else x
  let c := x.cq n
  if c.inEffect then
    if c.size < (c.count - cqh).toNat then
      { x with sqs := x.sqs.map fun e => (e.1, if e.2.inEffect ∧ fld e.2.cfg 21 16 = n then { e.2 with dbErr := true, headDirty := true } else e.2) }
    else
      let c := { c with cqHead := cqh }
      x.setCq n { c with full := c.full && !c.hasPlace }
  else x

/-- At an instant a port has polled, or one whose turn comes after it: the order starts at port (beat number mod 4) and rises (R357). -/
def State.polledPast (s : State) (p t : Nat) : Bool :=
  let turn := fun q => (q + 4 - t / s.beatNs % 4) % 4
  (List.range 4).any fun q => decide ((s.port q).polledAt = some t ∧ turn p ≤ turn q)

/-- The instant of a port's next poll k: at or after now, and not past already (R54). -/
def State.pollInstant (s : State) (p k : Nat) : Nat :=
  let t := s.beat * s.beatNs + k * s.beatNs / (s.port p).cadence
  if s.time.now ≤ t ∧ s.polledPast p t = false then t else t + s.beatNs

/-- The ring at which a poll's first round starts (R358). -/
def Port.startRing (x : Port) : Option Nat :=
  (((List.range 64).map fun i => (x.lastFirst + 1 + i) % 64).find? fun n => (x.sq n).unexamined)

/-- Ring service of a port at a poll. -/
def State.serveRings (s : State) (p : Nat) : State :=
  let x := s.port p
  let x := if x.lastFirstBeat = some s.beat then x else { x with lastFirst := x.thisFirst }
  match x.startRing with
  | none => s
  | some st =>
    let x := if x.lastFirstBeat = some s.beat then x else { x with thisFirst := st, lastFirstBeat := some s.beat }
    let limit := ceilDiv 256 x.cadence
    let first := (List.range 64).map fun i => (st + i) % 64
    let (s, _, es) := State.serveRounds p (limit + 1) first (s.setPort p x, limit, [])
    s.writeEntries es

/-- What a port does at a poll instant: enables, the doorbell block, ring service and head words. -/
def State.poll (s : State) (p : Nat) : State :=
  let x := { (s.port p).takeEnables with l1 := false }
  let x := if x.doorbellBase.toNat = 0 then x else (List.range 64).foldl Port.takeDoorbell x
  let s := (s.setPort p x).serveRings p
  ((List.range 64).filter fun n => ((s.port p).sq n).headDirty).foldl (fun s n => s.headWord p n) s

/-! ## Posted writes that waited (R343) -/

/-- Send one. -/
def State.send (s : State) (p : Nat) : HostWrite → State
  | .bytes a bs => s.hostWrite p a bs
  | .msix v => s.sendMsix p v

/-- Posted writes that waited go out in order, once the port may issue requests. -/
def State.flushPort (s : State) (p : Nat) : State :=
  let x := s.port p
  if x.dmaOn = false then s else x.queued.foldl (fun s w => s.send p w) (s.setPort p { x with queued := [] })

/-- A port's work resumes after D3hot (R439). -/
def State.resumePort (s : State) (p : Nat) : State :=
  if (s.port p).resuming then (s.setPort p { s.port p with resuming := false }).flushPort p else s

/-- DOORBELL_POLL (R357): poll k of a beat. -/
def doorbellPoll (p k : Nat) (s : State) : State :=
  if s.serving = false ∨ (s.port p).cadence ≤ k then s else
  let s := (s.advanceTo (s.pollInstant p k)).resumePort p
  if (s.port p).dmaOn then (s.setPort p { s.port p with polledAt := some s.time.now }).poll p else s

/-- MSIX_COALESCE_TIMEOUT (R350): the first beat boundary at least BEATS beats after the oldest unsignalled entry. -/
def msixCoalesceTimeout (p n : Nat) (s : State) : State :=
  let x := s.port p
  let c := x.cq n
  if s.dead ∨ c.unsignalled = 0 ∨ bitAt c.coal 31 = false then s else
  let s := s.advanceTo (ceilDiv (max s.time.now ((c.oldestBeat + fld c.coal 7 0) * s.beatNs)) s.beatNs * s.beatNs)
  (s.setPort p ((s.port p).setCq n { c with unsignalled := 0 })).sendMsix p (fld c.coal 29 24)

/-! ## Enable and disable writes (R351) -/

/-- A setup write is refused (R351). -/
def State.setupError (s : State) (p code off : Nat) : State :=
  let x := s.port p
  (s.setPort p { x with setupErr := BitVec.ofNat 32 (code * 0x10000 + off) }).portEvent p 3

/-- The port accepts writes: its state is not HALTED (R347), and its link is up. -/
def State.portWritable (s : State) (p : Nat) : Bool :=
  !s.latches.tripped && !s.latches.l3 && (s.port p).present && (s.port p).linkUp && (s.port p).ready
  && (match s.boot.phase with
      | .failed _ => false
      | _ => true)

/-- Bits of SQ_CFG and CQ_CFG that a write sets. -/
def sqCfgBits : Word := 0x8F3F001F
def cqCfgBits : Word := 0x8000001F

/-- A write of SQ_CFG (R350, R351). -/
def State.writeSqCfg (s : State) (p n : Nat) (v : Word) : State :=
  let x := s.port p
  let q := x.sq n
  let off := 0x1000 + 0x40 * n + 8
  let w := v &&& sqCfgBits
  let active := s.sqActive p n
  if active ∧ (w ^^^ q.cfg) &&& 0x7FFFFFFF ≠ 0 then s.setupError p 1 off
  else if bitAt w 31 then
    if active ∧ bitAt q.cfg 31 = false then s.setupError p 5 off
    else if bitAt (x.cq (fld w 21 16)).cfg 31 = false ∨ fld w 4 0 < 6 ∨ 16 < fld w 4 0 ∨ q.base = 0 ∨ q.headword = 0 then s.setupError p 2 off
    else if x.doorbellBase = 0 then s.setupError p 3 off
    else s.setPort p (x.setSq n { q with cfg := w })
  else s.setPort p (x.setSq n { q with cfg := w })

/-- A write of CQ_CFG (R350, R351). -/
def State.writeCqCfg (s : State) (p n : Nat) (v : Word) : State :=
  let x := s.port p
  let c := x.cq n
  let off := 0x2000 + 0x40 * n + 8
  let w := v &&& cqCfgBits
  if bitAt c.cfg 31 ∧ (w ^^^ c.cfg) &&& 0x7FFFFFFF ≠ 0 then s.setupError p 1 off
  else if bitAt w 31 then
    if fld w 4 0 < 6 ∨ 16 < fld w 4 0 ∨ c.base = 0 then s.setupError p 6 off
    else s.setPort p (x.setCq n { c with cfg := w })
  else if (List.range 64).any fun k => s.sqActive p k && fld (x.sq k).cfg 21 16 == n then s.setupError p 4 off
  else s.setPort p (x.setCq n { c with cfg := w, inEffect := false })

/-- SQ_ENABLE: the write of SQ_CFG with ENABLE = 1. -/
def sqEnable (p n : Nat) (v : Word) (s : State) : State :=
  if s.portWritable p = false then s else s.writeSqCfg p n (v ||| 0x80000000)
/-- SQ_DISABLE: the write of SQ_CFG with ENABLE = 0. -/
def sqDisable (p n : Nat) (v : Word) (s : State) : State :=
  if s.portWritable p = false then s else s.writeSqCfg p n (v &&& 0x7FFFFFFF)
/-- CQ_ENABLE: the write of CQ_CFG with ENABLE = 1. -/
def cqEnable (p n : Nat) (v : Word) (s : State) : State :=
  if s.portWritable p = false then s else s.writeCqCfg p n (v ||| 0x80000000)
/-- CQ_DISABLE: the write of CQ_CFG with ENABLE = 0. -/
def cqDisable (p n : Nat) (v : Word) (s : State) : State :=
  if s.portWritable p = false then s else s.writeCqCfg p n (v &&& 0x7FFFFFFF)

/-! ## Host reads (R224, R343) -/

/-- HOST_READ_COMPLETION (R224): data of a read arrives; the port holds what it has read of host memory. -/
def hostReadCompletion (p : Nat) (addr : DWord) (data : List Byte) (s : State) : State :=
  let x := s.port p
  if s.serving = false ∨ x.dmaOn = false then s else s.setPort p { x with host := x.host.write addr.toNat data, l1 := false }

/-! ## Meanings -/

/-- DOORBELL_POLL (R357). -/
def execDoorbellPoll (p : Fin 4) (k : Nat) (s : State) : Host.Outcome State Fault Refusal := .next (doorbellPoll p.val k s)
/-- MSIX_COALESCE_TIMEOUT (R350). -/
def execMsixCoalesceTimeout (p : Fin 4) (cq : Fin 64) (s : State) : Host.Outcome State Fault Refusal :=
  .next (msixCoalesceTimeout p.val cq.val s)
/-- SQ_ENABLE (R351). -/
def execSqEnable (p : Fin 4) (ring : Fin 64) (v : Word) (s : State) : Host.Outcome State Fault Refusal := .next (sqEnable p.val ring.val v s)
/-- SQ_DISABLE (R351). -/
def execSqDisable (p : Fin 4) (ring : Fin 64) (v : Word) (s : State) : Host.Outcome State Fault Refusal := .next (sqDisable p.val ring.val v s)
/-- CQ_ENABLE (R351). -/
def execCqEnable (p : Fin 4) (ring : Fin 64) (v : Word) (s : State) : Host.Outcome State Fault Refusal := .next (cqEnable p.val ring.val v s)
/-- CQ_DISABLE (R351). -/
def execCqDisable (p : Fin 4) (ring : Fin 64) (v : Word) (s : State) : Host.Outcome State Fault Refusal := .next (cqDisable p.val ring.val v s)
/-- HOST_READ_COMPLETION (R224). -/
def execHostReadCompletion (p : Fin 4) (addr : DWord) (data : List Byte) (s : State) : Host.Outcome State Fault Refusal :=
  .next (hostReadCompletion p.val addr data s)

end Sys2Proof.Machine
end

