-- ==== Sys2Proof/Machine/Streams.lean ====
section
/-!
DEFINITION. Sys2Proof/Machine/Streams.lean: streams in service (R287-R302): open, append, generate, close, fences, host copies; runs and
steps of plans (R239-R242, R298-R302, R320-R323, R371).
-/
namespace Sys2Proof.Machine

/-! ## Advancing an admitted command -/

/-- The admitted command with a number, where it has this opcode and the block serves. -/
def State.admitted (s : State) (id op : Nat) : Option Cmd :=
  if s.serving then (s.cmd? id).filter fun c => c.op == op else none

/-- A hub command's start: the first beat boundary at or after its not-before beat, when nothing before it holds it back (R373). -/
def State.hubStart (s : State) (c : Cmd) : Option State :=
  let s' := s.advanceTo s.nextBoundary
  if s'.mayStart c then some s' else none

/-- STREAM_CLOSE of a stream, where one is admitted. -/
def State.closeOf (s : State) (n : Nat) : Option Cmd := s.cmds.find? fun c => c.op == 0x04 && c.stream? == some n

/-- A command that an abort ends (R292): the closing command counts it. -/
def State.endAborted (s : State) (c : Cmd) (r0 r1 : Nat) : State :=
  let s := s.complete c (c.result stAborted r0 r1)
  match c.stream?.bind s.closeOf with
  | some k => s.setCmd { k with done := k.done + 1 }
  | none => s

/-! ## Generation state -/

/-- Reserved pages after a completion: what LENGTH and the admitted commands still need (R296). -/
def State.trimPages (s : State) (n : Nat) : State :=
  let x := s.stream n
  let mine := s.cmds.filter fun c => c.names && c.named == n && (c.op == 0x02 || c.op == 0x03)
  let need := if mine = [] then 0 else ceilDiv (min x.limit
    ((mine.map fun c => if c.op = 0x03 then c.par 0x20 4 - c.done else c.par 0x20 4).sum + x.length)) 64
  s.setStream n { x with pages := min x.pages (max need (ceilDiv (x.length + 1) 64)) }

/-- Token i of a STREAM_APPEND (R367). -/
def State.appendToken (s : State) (c : Cmd) (i : Nat) : Word :=
  BitVec.ofNat 32 ((s.port c.port).host.num (c.par 0x18 8 + 4 * i) 4 % 2 ^ 24)

/-- The results of a generation command (R367): reason 3 is an end by status. -/
def State.genResult (s : State) (c : Cmd) (status reason : Nat) : Result :=
  let l := (s.stream c.named).length
  if c.op = 0x03 then c.result status c.done (2 ^ 32 * l + reason) else c.result status l 0

/-- A generation command ends (R300, R302). -/
def State.endGen (s : State) (c : Cmd) (status reason : Nat) : State :=
  (s.complete c (s.genResult c status reason)).trimPages c.named

/-- The reason that a completion carries of the failed command's record (R364, R371). -/
def failReason (e : Nat × Nat × Nat × Word) : Nat := if e.1 = stFormatError then fld e.2.2.2 31 28 else 0

/-- A generation command ends with the status of a failed run (R302). -/
def State.failGen (s : State) (c : Cmd) (e : Nat × Nat × Nat × Word) : State :=
  (s.complete c { s.genResult c e.1 3 with reason := failReason e }).trimPages c.named

/-- Release a stream's slot (R292, R293). -/
def State.freeSlotOf (s : State) (n : Nat) : State :=
  match (s.stream n).slot with
  | some k => { s with slots := sdel s.slots k }.setStream n { s.stream n with slot := none, pages := 0 }
  | none => s

/-- A stream whose state is lost is FAILED, and its admitted commands complete (R290, R302). -/
def State.failStream (s : State) (n : Nat) : State :=
  let s := s.freeSlotOf n
  let s := s.setStream n { s.stream n with state := if (s.stream n).state = .closing then .closing else .failed }
  (s.cmds.filter fun c => c.stream? == some n && c.op != 0x04).foldl (fun s c => s.complete c (c.result stStreamFailed c.done 0)) s

/-- A command served by a run's steps: of a stream on this plan, or a dedicated append on this prefill plan (R299, R301). -/
def State.servedBy (s : State) (n : Nat) (c : Cmd) : Bool :=
  let x := s.stream c.named
  match c.op with
  | 0x03 => x.plan == n
  | 0x02 => match s.prefillOf c.named with
    | some (m, _) => m == n
    | none => x.plan == n
  | _ => false

/-- Executing generation commands of a plan. -/
def State.executing (s : State) (n : Nat) : List Cmd := s.cmds.filter fun c => decide (c.phase = .running) && s.servedBy n c

/-! ## STREAM_OPEN (R287, R367) -/

/-- The new stream's entry. -/
def State.openEntry (s : State) (c : Cmd) : Stream :=
  let k := c.par 0x18 1
  let lim := c.par 0x20 4
  let seed := c.par 0x30 8
  { Stream.init with
    state := .idle, kind := k, part := c.part, plan := c.par 0x1A 2, prefill := c.par 0x1C 2,
    limit := if k = 0 then (if lim = 0 then (s.part c.part).maxContext else lim) else 0,
    sampling := List.replicate 16 0 ++ toLe 8 seed ++ List.replicate 8 0,
    openBeat := s.beat, stop := List.replicate 4 0xFFFFFFFF, trainStep := c.par 0x28 8 }

def streamOpen (id : Nat) (s : State) : State :=
  match s.admitted id 0x01 with
  | none => s
  | some c =>
    match s.hubStart c with
    | none => s
    | some s =>
      match s.commandTest c, s.freeStream with
      | some st, _ => s.complete c (c.result st 0 0)
      | none, none => s
      | none, some n => (s.setStream n (s.openEntry c)).complete c { c.result stSuccess n 0 with stream := n }

/-! ## STREAM_APPEND and STREAM_GENERATE: the start of their work (R294, R300) -/

/-- Pages for the LENGTH that the command would reach, as the stream now stands (R296). -/
def State.pagesNow (s : State) (c : Cmd) : Nat :=
  let x := s.stream c.named
  let n := c.par 0x20 4
  ceilDiv (min x.limit (x.length + (if c.op = 0x03 ∨ x.pending.isSome then n else n - 1))) 64

/-- Raise the reservation to what the command needs, where the partition's pages cover it. -/
def State.reservePages (s : State) (c : Cmd) : Option State :=
  let x := s.stream c.named
  let need := max x.pages (s.pagesNow c)
  if s.pagesReserved c.part + need ≤ (s.part c.part).cachePages + x.pages then some (s.setStream c.named { x with pages := need }) else none

/-- A command's work begins. -/
def State.begin_ (s : State) (c : Cmd) : State := s.setCmd { c with phase := .running }

def streamAppend (id : Nat) (s : State) : State :=
  match s.admitted id 0x02 with
  | none => s
  | some c =>
    if c.phase ≠ .waiting ∨ s.mayStart c = false then s else
    let x := s.stream c.named
    if x.limit < x.length + c.par 0x20 4 - b2n x.pending.isNone then s.endGen c stContextExceeded 3
    else match s.reservePages c with
    | none => s
    | some s =>
      if x.pending.isSome then s.begin_ c
      else
        let s := s.setStream c.named { s.stream c.named with pending := some (s.appendToken c 0) }
        let c := { c with done := 1 }
        if c.par 0x20 4 = 1 then s.endGen c stSuccess 0 else s.begin_ c

/-- Replace SAMPLING but for STEP, and STOP_TOKENS, from the 48 B at an address; 0 keeps them (R367). -/
def State.takeParams (s : State) (c : Cmd) : State :=
  let a := c.par 0x28 8
  if a = 0 then s else
  let h := (s.port c.port).host
  let x := s.stream c.named
  s.setStream c.named { x with sampling := h.read a 24 ++ (x.sampling ++ List.replicate 32 0).drop 24 |>.take 32,
                               stop := tabulate 4 fun i => BitVec.ofNat 32 (h.num (a + 32 + 4 * i) 4) }

def streamGenerate (id : Nat) (s : State) : State :=
  match s.admitted id 0x03 with
  | none => s
  | some c =>
    if c.phase ≠ .waiting ∨ s.mayStart c = false then s else
    let x := s.stream c.named
    let stepped := match s.planOf c.named with
      | some p => planStepped p.image
      | none => false
    if x.pending.isNone then s.endGen c stNoInput 3
    else if x.limit ≤ x.length then s.endGen c stContextExceeded 3
    else if stepped = false then s.endGen c stNoSlot 3
    else match s.reservePages c with
      | some s => (s.takeParams c).begin_ c
      | none => s

/-! ## STREAM_CLOSE (R236, R237, R292) -/

/-- A layer entry that returns to VALID = 0, on one core (R237). -/
def Core.dropLayers (c : Core) (task : Nat) : Core :=
  (List.range 16).foldl (fun c e =>
    let o := cLayerTbl + 8 * e
    if bitAt (c.reg o) 0 ∧ fld (c.reg o) 2 1 = task then c.setReg o (setFld (c.reg o) 0 0 0) else c) c

/-- Side-memory record n belongs to a task: KIND is not 0 and OWNER names it (R274). -/
def Core.ownsRecord (c : Core) (task part n : Nat) : Bool :=
  let o := c.side.byte (64 * n + 1)
  c.side.byte (64 * n) != 0 && fld o 1 0 == part && fld o 3 2 == task

/-- The side-memory records of a task become free (R275). -/
def Core.dropRecords (c : Core) (task part : Nat) : Core :=
  { c with side := c.side.filter fun e => !(c.ownsRecord task part (e.1 / 64)) }

/-- A task leaves a core: its layer entries and side-memory records become free, and with the last task the reserves and the stand-in
area are released (R237, R238, R275). -/
def Core.unload (c : Core) (task : Nat) : Core :=
  let c := ((c.dropLayers task).dropRecords task (c.task task).part).setTask task Task.init
  if c.tasks.any (·.valid) then c
  else { c with reserves := [none, none, none, none], standIn := none, standInDeck := none, rebuild := none, consumed := c.consumed }

/-- Unload a plan (R236). -/
def State.unloadPlan (s : State) (n : Nat) : State :=
  match s.plan? n with
  | none => s
  | some p =>
    let s := (planCores p.image).foldl (fun s k => s.modCore k fun c => c.unload (planTask p.image)) s
    { s with plans := sdel s.plans n, runs := sdel s.runs n }

/-- The stream's entry, slot, pages and charges are released (R292). -/
def State.release (s : State) (n : Nat) : State :=
  let s := s.freeSlotOf n
  let s := if (s.stream n).kind = 3 then s.unloadPlan n else s
  s.setStream n Stream.init

/-! ## FENCE, TIME_WAIT, STATS (R374) -/

/-- A fence completes once nothing admitted before it is left. -/
def fence (ring : Bool) (id : Nat) (s : State) : State :=
  match s.admitted id 0x50 with
  | none => s
  | some c =>
    if c.flag 0 ≠ ring then s else
    match s.hubStart c with
    | none => s
    | some s => s.complete c (c.result stSuccess 0 0)

/-- TIME_WAIT: with no not-before beat it completes at the next boundary after its place in stream order is reached. -/
def timeWait (id : Nat) (s : State) : State :=
  match s.admitted id 0x51 with
  | none => s
  | some c =>
    match s.hubStart c with
    | none => s
    | some s => s.complete c (c.result stSuccess 0 0)

/-- STATS: outside stream order; this command is its execution, which follows its admission at once (R374; log entry 82, DEDUCED). -/
def stats (id : Nat) (s : State) : State :=
  match s.admitted id 0x52 with
  | none => s
  | some c =>
    let (s, r) := s.doStats c
    s.complete c r

/-! ## Host copies (R224, R370) -/

/-- A copy begins in the first owned plan run, or of the named plan's class where the partition owns no plan run (R366). -/
def State.copyRun (s : State) (p : Plan) : Bool :=
  let rs := List.range s.nRegions
  let k := if rs.any fun r => s.ownsClass r 6 p.part then 6 else planClass p.image
  rs.any fun r => match (s.region r).run with
    | some run => run.klass == k && run.part == p.part
    | none => false

/-- COPY_IN: the bytes that the port has read go to staging. -/
def copyIn (id : Nat) (s : State) : State :=
  match s.admitted id 0x40 with
  | none => s
  | some c =>
    match s.plan? (c.par 0x20 2) with
    | none => s.complete c (c.result stBadStream 0 0)
    | some p =>
      if s.mayStart c = false ∨ s.copyRun p = false ∨ (s.port c.port).dmaOn = false then s else
      let n := c.par 0x28 4
      let data := (s.port c.port).host.read (c.par 0x18 8) n
      let s := { s with staging := s.staging.write (p.stageBase + c.par 0x24 4) data }
      s.complete c (c.result stSuccess n 0)

/-- COPY_OUT: staging bytes go to the host. An injected error of the hub's memory ends it (R406; log entry 74, DEDUCED). -/
def copyOut (id : Nat) (s : State) : State :=
  match s.admitted id 0x41 with
  | none => s
  | some c =>
    match s.plan? (c.par 0x20 2) with
    | none => s.complete c (c.result stBadStream 0 0)
    | some p =>
      if s.mayStart c = false ∨ s.copyRun p = false ∨ (s.port c.port).dmaOn = false then s else
      let n := c.par 0x28 4
      let s := match s.injectionHub with
        | some (_, pat) => s.consumeInjection.faultEvent 23 0 (if pat = 1 then 0 else 3)
        | none => s
      if s.latches.l3 then s else
      (s.hostWrite c.port (c.par 0x18 8) (s.staging.read (p.stageBase + c.par 0x24 4) n)).complete c (c.result stSuccess n 0)

/-! ## Runs (R239, R240) -/

/-- A task at the start of a run: the first byte of its window, x0 to x31 zero, its error record cleared (R203, R239, R242). The run that
sets MCYCLE and MINSTRET to 0 is taken as this one, of the plan, and the SR commands of R77 are counted per task from here, decode and
prefill runs of the hub included (log entry 125, DESIGN CHOICE). -/
def Task.start (t : Task) (stepped : Bool) : Task :=
  { t with queue := [], cmdLo := 0, tokSel := 0, xs := List.replicate 32 0, pc := 0, mcycle := 0, minstret := 0, seq := if stepped then .waitStep else .running,
           err := ErrRec.init, srSeq := 0, doneStep := false, doneEnd := false, doneWords := none, rowsLeft := [], cands := [],
           barriers := [], resClass := 0, resEvents := 0 }

/-- The instant, from now on, at which the next slot of an owned run of a plan begins: any used region (R239). -/
def State.nextRunSlot (s : State) (p : Plan) (notBefore : Nat) : Option Nat :=
  let mine := fun b k => (planUses p.image).any fun r =>
    let e := s.slotByte b k r
    slotClass e == planClass p.image && slotPart e == p.part
  (List.range (s.frame.len + 1)).findSome? fun i =>
    let b := max s.beat notBefore + i
    (List.range 8).findSome? fun k => if mine b k && decide (s.time.now ≤ s.slotStart b k) then some (s.slotStart b k) else none

/-- Begin a run of a plan at the instant reached. -/
def State.startRun (s : State) (n : Nat) (p : Plan) (cmd : Option Nat) (seed : Nat) : State :=
  let stepped := planStepped p.image
  let r : Run := { cmd := cmd, seed := BitVec.ofNat 64 (if seed = 0 then planSeed p.image else seed), step := 0, stepsDone := 0, inStep := false,
                   firstBeat := s.beat, beats := 0, klass := 0, events := 0, broken := false, replayed := false, fail := none }
  let s := (s.setRun n r)
  let s := (planCores p.image).foldl (fun s k => s.modTask k (planTask p.image) fun t => t.start stepped) s
  let s := { s with barriers := s.barriers.filter fun e => e.1 / 16 ≠ n }
  if stepped then s else s.snapUnit n

/-- The tasks of a plan after its run has ended. -/
def State.stopRun (s : State) (n : Nat) (p : Plan) : State :=
  ((planCores p.image).foldl (fun s k => s.modTask k (planTask p.image) fun t => { t.cut with seq := .idle, err := { t.err with discarding := false } }) s).endRun n

/-- PLAN_RUN (R239, R366): the request, in plan order. -/
def planRun (id : Nat) (s : State) : State :=
  match s.admitted id 0x31 with
  | none => s
  | some c => if c.phase = .waiting ∧ s.mayStart c = true then s.begin_ c else s

/-- TRAIN_STEP (R322): the batch is fetched and the train block written before the run. -/
def trainStep (id : Nat) (s : State) : State :=
  match s.admitted id 0x32 with
  | none => s
  | some c =>
    match s.planOf c.named with
    | none => s.complete c (c.result stBadStream 0 0)
    | some p =>
      let n := c.par 0x28 4
      if c.phase ≠ .waiting ∨ s.mayStart c = false ∨ (n ≠ 0 ∧ (s.port c.port).dmaOn = false) then s else
      let seed := if c.par 0x18 8 = 0 then planSeed p.image else c.par 0x18 8
      let blk := toLe 8 (s.stream c.named).trainStep ++ toLe 8 seed ++ toLe 4 (c.par 0x2C 4) ++ toLe 4 256 ++ toLe 1 (c.flags % 2)
        ++ List.replicate 39 0
      let m := (s.staging.write p.stageBase blk).write (p.stageBase + 256) ((s.port c.port).host.read (c.par 0x20 8) n)
      { s with staging := m }.begin_ c

/-- RUN_START (R239): the first owned run of the plan's class at or after the not-before beat. -/
def runStart (id : Nat) (s : State) : State :=
  match (s.cmd? id).filter fun c => (c.op == 0x31 || c.op == 0x32) && decide (c.phase = .running) with
  | none => s
  | some c =>
    let n := s.runPlan c
    match s.plan? n with
    | none => s
    | some p =>
      if s.serving = false ∨ (s.run? n).isSome then s else
      match s.nextRunSlot p c.notBefore with
      | none => s
      | some t => (s.advanceTo t).startRun n p (some id) (c.par 0x18 8)

/-! ## Pages (R190, R297) -/

/-- Positions of a stream that its prefill chunks will append: those of the dedicated append in progress (R297, R301). -/
def State.chunkEnd (s : State) (n : Nat) : Nat :=
  match s.cmds.find? fun c => c.op == 0x02 && c.names && c.named == n && decide (c.phase = .running) with
  | some c => if (s.prefillOf n).isSome then (s.stream n).length + (c.par 0x20 4 - c.done) else 0
  | none => 0

/-- A decode or prefill run of a partition is in progress (R297). -/
def State.pageRun (s : State) (part : Nat) : Bool :=
  (List.range s.nRegions).any fun r => match (s.region r).run with
    | some run => (run.klass == 1 || run.klass == 2) && run.part == part
    | none => false

/-- PAGE_ALLOCATION: the next page p of a slot, once LENGTH reaches 64 p - 32, or earlier where a prefill chunk will append position 64 p
(R297). No page lies beyond the stream's CONTEXT_LIMIT (R295). Its row writes issue in the partition's decode and prefill runs. -/
def pageAllocation (slot : Nat) (s : State) : State :=
  match mget s.slots slot with
  | none => s
  | some x =>
    let st := s.stream x.stream
    let at_ := 64 * x.allocated
    if s.serving = false ∨ s.pageRun st.part = false ∨ st.limit ≤ at_ ∨ (st.length + 32 < at_ ∧ s.chunkEnd x.stream ≤ at_) then s
    else s.allocPage slot

/-- The page of position p of a stream is allocated (R297). -/
def State.hasPage (s : State) (n p : Nat) : Bool :=
  match (s.stream n).slot.bind fun k => mget s.slots k with
  | some x => decide (p / 64 < x.allocated)
  | none => false

/-! ## DECODE_RUN_START and PREFILL_CHUNK (R299, R301) -/

/-- DECODE_RUN_START: the hub starts a run of a decode plan with work. -/
def decodeRunStart (n : Nat) (s : State) : State :=
  match s.plan? n with
  | none => s
  | some p =>
    if s.serving = false ∨ planClass p.image ≠ 1 ∨ (s.run? n).isSome ∨ s.executing n = [] then s else
    match s.nextRunSlot p 0 with
    | none => s
    | some t => (s.advanceTo t).startRun n p none 0

/-- PREFILL_CHUNK: the next chunk of an append goes into the ring of 16 entries of 320 B; with no run in progress one starts. -/
def prefillChunk (id : Nat) (s : State) : State :=
  match (s.admitted id 0x02).filter fun c => decide (c.phase = .running) && c.joined == 0 && !c.abort with
  | none => s
  | some c =>
    match s.prefillOf c.named, (s.stream c.named).slot with
    | some (n, p), some slot =>
      let x := s.stream c.named
      let left := c.par 0x20 4 - c.done
      let m := min 64 left
      let first := (s.executing n).find? fun e => e.joined == 0
      if left = 0 ∨ 16 ≤ ((s.executing n).filter fun e => e.joined != 0).length ∨ first.map (·.id) ≠ some id
        ∨ s.hasPage c.named (x.length + m - 1) = false then s
      else
        let toks := tabulate m fun i => if i = 0 then x.pending.getD 0 else s.appendToken c (c.done + i - 1)
        let hdr := toLe 2 slot ++ toLe 4 x.length ++ toLe 1 m ++ List.replicate 57 0
        let data := hdr ++ (toks.flatMap fun t => toLe 4 t.toNat) ++ List.replicate (4 * (64 - m)) 0
        let s := { s with staging := s.staging.write (p.stageBase + 320 * (p.chunks % 16)) data,
                          plans := sins s.plans n { p with chunks := p.chunks + 1 } }
        let s := s.setCmd { c with joined := m }
        if (s.run? n).isSome then s else
        match s.nextRunSlot p 0 with
        | some t => (s.advanceTo t).startRun n p none 0
        | none => s
    | _, _ => s

/-! ## STEP_START (R52, R298, R299) -/

/-- The 64 B slot block of a slot (R298). -/
def slotBlock (x : Stream) (mode : Nat) : List Byte :=
  (x.sampling ++ List.replicate 32 0).take 32 ++ toLe 4 x.length ++ toLe 4 (x.pending.getD 0).toNat ++ toLe 1 mode ++ List.replicate 23 0

/-- The command of a slot that joins the step: executing, admitted before the beat before the step began (R299). -/
def State.joins (s : State) (n b : Nat) (c : Cmd) : Bool :=
  s.servedBy n c && decide (c.phase = .running) && decide (c.admitBeat + 2 ≤ b) && !c.abort

/-- MODE of a slot: generate, append, and CHAIN where the plan's last step sampled the input. -/
def stepMode (r : Run) (c : Cmd) : Nat :=
  if c.op = 0x03 then 1 + (if 0 < r.stepsDone ∧ 0 < c.done then 128 else 0) else 2

/-- The slot blocks of a step, for the slots that the staging window holds. -/
def State.slotBlocks (s : State) (n : Nat) (p : Plan) (r : Run) (join : List Cmd) : Mem :=
  (List.range (min s.nSlots (planStageLen p.image / 64))).foldl (fun m k =>
    let blk := match mget s.slots k with
      | some x =>
        if (s.stream x.stream).plan = n then
          slotBlock (s.stream x.stream) (match join.find? fun c => c.named == x.stream with
            | some c => stepMode r c
            | none => 0)
        else List.replicate 64 0
      | none => List.replicate 64 0
    m.write (p.stageBase + 64 * k) blk) s.staging

/-- Every core of the plan is between steps, and no failure ends the run. -/
def State.stepReady (s : State) (p : Plan) (r : Run) : Bool :=
  !r.inStep && !r.broken && r.fail.isNone && planStepped p.image && s.finiteWork p.image
  && (planCores p.image).all fun k => let t := (s.core k).task (planTask p.image)
                                      decide (t.seq = .waitStep) || t.doneEnd || decide (t.seq = .halted)

/-- STEP_START (R52): at a beat boundary in a beat that holds an owned run, after the last step's last beat. -/
def stepStart (n : Nat) (s : State) : State :=
  match s.plan? n, s.run? n with
  | some p, some r =>
    let b := s.nextBoundary / s.beatNs
    let join := (s.cmds.filter (s.joins n b)).filter fun _ => planClass p.image == 1
    let pages := join.all fun c => s.hasPage c.named (s.stream c.named).length
    if s.serving = false ∨ s.stepReady p r = false ∨ pages = false ∨ b < r.firstBeat + r.beats
      ∨ s.firstOwned (planUses p.image) (planClass p.image) p.part b ≠ some b then s else
    match s.stepLast p.image p.part b with
    | none => s
    | some l =>
      let s := s.advanceTo (b * s.beatNs)
      let s := if r.replayed then s else s.snapUnit n
      let decode := planClass p.image == 1
      let s := if decode then { s with staging := s.slotBlocks n p r join } else s
      let s := join.foldl (fun s c => s.setCmd { c with joined := 1 }) s
      let s := (planCores p.image).foldl (fun s k => s.modTask k (planTask p.image) fun t =>
        if t.doneEnd then t else { t with doneStep := false, rowsLeft := [], seq := if t.seq = .waitStep then .running else t.seq }) s
      s.setRun n { r with inStep := true, firstBeat := b, beats := l + 1 - b, step := r.step + 1 }
  | _, _ => s

/-! ## The end of a step or run (R241, R242, R302, R371) -/

/-- A task has halted and what it had pushed has issued (R204). -/
def Task.haltedOut (t : Task) : Bool := decide (t.seq = .halted) && t.queue.isEmpty

/-- Tasks of a plan, with their cores. -/
def State.planTasks (s : State) (p : Plan) : List (Nat × Task) :=
  (planCores p.image).map fun k => (k, (s.core k).task (planTask p.image))

/-- The lowest-numbered core with a record or a halt: its status, core, failed opcode and detail (R242, R371). -/
def State.runError (s : State) (p : Plan) : Option (Nat × Nat × Nat × Word) :=
  (s.planTasks p).findSome? fun e =>
    if e.2.err.valid then some (e.2.err.status, e.1, e.2.err.opcode, e.2.err.detail)
    else if e.2.seq = .halted then some (stSeqFault, e.1, 0, 0)
    else none

/-- Class and events of a plan's work so far (R315). -/
def State.foldGrades (s : State) (p : Plan) (r : Run) : Run :=
  (s.planTasks p).foldl (fun r e => { r with klass := max r.klass e.2.resClass, events := r.events ||| e.2.resEvents }) r

/-- The failed run's completion of a PLAN_RUN or TRAIN_STEP (R371). -/
def errorResult (c : Cmd) (r : Run) (e : Nat × Nat × Nat × Word) : Result :=
  { status := e.1, klass := r.klass, events := r.events, reason := failReason e, stream := c.named,
    r0 := e.2.1 + 256 * e.2.2.1, r1 := e.2.2.2.toNat }

/-- Units of a stream that a completion adds (R289). -/
def State.addUnits (s : State) (n k : Nat) : State := s.setStream n { s.stream n with units := (s.stream n).units + k }

/-- The result words go to the host: 16 B of each core that gave any (R254, R370). -/
def State.writeWords (s : State) (c : Cmd) (p : Plan) : State :=
  let a := c.par 0x20 8
  if c.op ≠ 0x31 ∨ a = 0 ∨ c.discard then s else
  (s.planTasks p).foldl (fun s e => match e.2.doneWords with
    | some w => s.hostWrite c.port (a + 16 * e.1) w
    | none => s) s

/-- The first 8 B of result words of the lowest-numbered core that gave any. -/
def State.firstWords (s : State) (p : Plan) : Nat :=
  ((s.planTasks p).findSome? fun e => e.2.doneWords.map fun w => leNat (w.take 8)).getD 0

/-- A TRAIN_STEP's successful end: LOSS, class and events of the train block, and the commit of STEP (R322, R323). -/
def State.endTrain (s : State) (c : Cmd) (p : Plan) (r : Run) : State :=
  let blk := fun (o n : Nat) => s.staging.num (p.stageBase + o) n
  let valid := blk 0x25 1 == 1
  let x := s.stream c.named
  let step := if valid ∧ c.flag 0 = true then x.trainStep + 1 else x.trainStep
  let s := s.setStream c.named { x with trainStep := step, units := x.units + 1 }
  let k := max r.klass (min 2 (blk 0x24 1))
  s.complete c { status := stSuccess, klass := k, events := r.events ||| blk 0x26 2 % 256, reason := 0, stream := c.named, r0 := step % 2 ^ 32,
                 r1 := if valid then blk 0x20 4 else 0 }

/-- The completion of a run's command that was not ended by a failure. -/
def State.endRunCmd (s : State) (c : Cmd) (p : Plan) (r : Run) : State :=
  if c.op = 0x32 then s.endTrain c p r
  else
    let s := (s.writeWords c p).addUnits c.named 1
    s.complete c { status := stSuccess, klass := r.klass, events := r.events, reason := 0, stream := c.named, r0 := r.stepsDone, r1 := s.firstWords p }

/-- RESULT0 of a run that ends without an error record: steps completed, or the committed STEP (R370). -/
def State.runR0 (s : State) (c : Cmd) (r : Run) : Nat := if c.op = 0x32 then (s.stream c.named).trainStep % 2 ^ 32 else r.stepsDone

/-- The DCM rows that a tile command reads: logical DCM, first row and number of rows (R246-R248). -/
def cwDcmRows (w : CmdWord) : Nat × Nat × Nat :=
  match cwOpcode w with
  | 0x10 => (fld w 99 91, 64 * fld w 90 87, 64 * (fld w 86 83 + 1))
  | 0x06 => (fld w 80 72, 16 * fld w 71 66, 16)
  | _ => (fld w 99 91, fld w 90 81, max 1 (cwImm w))

/-- Row ranges meet. -/
def rowsMeet (a n b m : Nat) : Bool := decide (a < b + m) && decide (b < a + n)

/-- Allocated page frames of a bound slot: core, DCM, first row and number of rows (R190, R297). -/
def State.slotFrames (s : State) (slot : Nat) : List (Nat × Nat × Nat × Nat) :=
  match mget s.slots slot with
  | none => []
  | some x => match s.planOf x.stream with
    | none => []
    | some p => (List.range x.allocated).flatMap fun g => (pageOf p.image slot g).map fun f =>
        let r := frameRows (Config.pageKind p.image f.1 f.2.1 % 3) f.2.2
        (f.1, f.2.1, r.1, r.2.1)

/-- Streams that a double failure met by the command word w of a core takes: those with a page in the rows that it reads, or, where no page
lies there, those that the plan's weights serve (R189, R302; log entry 124, DEDUCED). -/
def State.doubleHit (s : State) (n core : Nat) (w : CmdWord) : List Nat :=
  let (l, row, k) := cwDcmRows w
  let meets := fun (e : Nat × Slot) => (s.slotFrames e.1).any fun f => f.1 == core && f.2.1 == l && rowsMeet f.2.2.1 f.2.2.2 row k
  let pages := (s.slots.filter meets).map fun e => e.2.stream
  if pages = [] then ((s.streams.filter fun e => e.2.kind == 0 && decide (e.2.state ≠ .free) && (e.2.plan == n || e.2.prefill == n)).map (·.1))
  else pages

/-- A run ends with a status: its command, or the generation commands that it was executing, complete with it, and their streams go on. A
double DCM failure fails the streams whose pages or weights it takes (R189, R302). -/
def State.failRun (s : State) (n : Nat) (p : Plan) (r : Run) (e : Nat × Nat × Nat × Word) : State :=
  let s := s.stopRun n p
  match r.cmd.bind s.cmd? with
  | some c =>
    if c.abort then s.endAborted c (s.runR0 c r) 0
    else if r.fail.isSome then s.complete c { errorResult c r e with r0 := s.runR0 c r }
    else s.complete c (errorResult c r e)
  | none =>
    let hit := if e.1 = stDcmUncorrectable then s.doubleHit n e.2.1 ((s.core e.2.1).task (planTask p.image)).err.word else []
    hit.foldl State.failStream ((s.executing n).foldl (fun s c => s.failGen { c with joined := 0 } e) s)

/-- A command that is in a step, a chunk or a batch, and ends at that boundary (R292, R437). -/
def State.inStepOrBatch (s : State) (c : Cmd) : Bool :=
  if c.op = 0x02 ∨ c.op = 0x03 then c.joined != 0
  else if c.isQuery then s.batches.any fun b => b.2.cmds.contains c.id
  else match s.runOf c with
    | some (_, p, r) => r.inStep || !(planStepped p.image)
    | none => false

/-- An aborted command that is in no step ends now, and reports what is finished (R292). -/
def State.endNow (s : State) (e : Cmd) : State :=
  if e.op = 0x02 ∨ e.op = 0x03 then (s.endAborted e (s.genResult e stAborted 3).r0 (s.genResult e stAborted 3).r1).trimPages e.named
  else match s.runOf e with
    | some (n, p, r) => s.failRun n p (s.foldGrades p r) (stAborted, 0, 0, 0)
    | none => s.endAborted e e.done 0

/-- STREAM_CLOSE (R292): in stream order or, with the abort flag, once what executes has reached its step boundary; what has not started is
aborted. -/
def streamClose (id : Nat) (s : State) : State :=
  match s.admitted id 0x04 with
  | none => s
  | some c =>
    let mine := s.cmds.filter fun e => e.stream? == some c.named && e.id != c.id
    match (if c.flag 0 then some (s.advanceTo s.nextBoundary) else s.hubStart c) with
    | none => s
    | some s' =>
      if (mine.any fun e => s.inStepOrBatch e || !(c.flag 0)) then s else
      let s := mine.foldl State.endNow s'
      let c := (s.cmd? id).getD c
      if (s.stream c.named).kind = 3 ∧ s.planNamed c.named = true then
        (s.complete c (c.result stPlanBusy c.done 0)).setStream c.named { (s.stream c.named) with state := .idle, abort := false, inflight := 0 }
      else (s.complete c (c.result stSuccess c.done 0)).release c.named

/-! ### Delivery of a step's tokens (R294, R300, R367) -/

/-- The stream after a token has been sampled for it. -/
def Stream.sampled (x : Stream) (tok : Nat) : Stream :=
  { x with length := x.length + 1, pending := some (BitVec.ofNat 32 tok), units := x.units + 1,
           sampling := (x.sampling ++ List.replicate 32 0).take 24 ++ toLe 8 (leNat ((x.sampling.drop 24).take 8) + 1) }

/-- Why a STREAM_GENERATE ends after its last token, the first condition that holds (R300). -/
def genReason (x : Stream) (c : Cmd) (tok : Nat) : Option Nat :=
  if c.par 0x20 4 ≤ c.done then some 0
  else if x.stop.contains (BitVec.ofNat 32 tok) then some 1
  else if x.limit ≤ x.length then some 2
  else none

/-- The token word and the progress word (R300, R367). -/
def State.writeToken (s : State) (c : Cmd) (tok klass : Nat) : State :=
  if c.discard then s else
  let s := s.hostWrite c.port (c.par 0x18 8 + 4 * (c.done - 1)) (toLe 4 (tok + 2 ^ 24 * klass))
  let a := c.par 0x30 8
  if a = 0 then s else s.hostWrite c.port a (toLe 8 (c.done + 2 ^ 32 * c.events + 2 ^ 48 * c.klass))

/-- One step's token of a STREAM_GENERATE. -/
def State.deliver (s : State) (c : Cmd) (p : Plan) (r : Run) : State :=
  match (s.stream c.named).slot with
  | none => s
  | some slot =>
    let blk := fun (o n : Nat) => s.staging.num (p.stageBase + 64 * slot + o) n
    if blk 0x33 1 ≠ 1 then s.setCmd { c with joined := 0 } else
    let tok := blk 0x2C 4 % 2 ^ 24
    let k := min 2 (blk 0x32 1)
    let ev := blk 0x30 2 % 256 ||| r.events
    let x := (s.stream c.named).sampled tok
    let c := { c with done := c.done + 1, klass := max c.klass k, events := c.events ||| ev, joined := 0 }
    let o := rService + 0x40 * c.part + 0x18
    let s := ((s.setStream c.named x).setHub64 o (s.hub64 o + 1)).writeToken c tok k
    match genReason x c tok with
    | some why => s.endGen c stSuccess why
    | none => s.setCmd c

/-- m positions of an append have been cached (R294, R301). -/
def State.cached (s : State) (c : Cmd) (m : Nat) : State :=
  let x := s.stream c.named
  let done := c.done + m
  let c := { c with done := done, joined := 0 }
  let s := s.setStream c.named { x with length := x.length + m, pending := some (s.appendToken c (done - 1)) }
  if c.par 0x20 4 ≤ done then s.endGen c stSuccess 0 else s.setCmd c

/-- A joined command at the end of its step or chunk; an abort ends it here (R292). -/
def State.finishJoined (s : State) (c : Cmd) (p : Plan) (r : Run) : State :=
  let s := if c.op = 0x03 then s.deliver c p r else s.cached c c.joined
  match s.cmd? c.id with
  | some c => if c.abort then (s.endAborted c (s.genResult c stAborted 3).r0 (s.genResult c stAborted 3).r1).trimPages c.named else s
  | none => s

/-- Every joined command of a plan at the end of a step. -/
def State.finishStep (s : State) (n : Nat) (p : Plan) (r : Run) : State :=
  let s := ((s.executing n).filter fun c => c.joined != 0).foldl (fun s c => s.finishJoined c p r) s
  ((s.executing n).filter fun c => c.abort).foldl (fun s c =>
    (s.endAborted c (s.genResult c stAborted 3).r0 (s.genResult c stAborted 3).r1).trimPages c.named) s

/-- Discarding ends with the step, and grades and step marks start afresh. -/
def Task.nextStep (t : Task) : Task := { t with doneStep := false, resClass := 0, resEvents := 0 }

/-- STEP_COMPLETE (R241): every core has issued its step DONE, or has ended or halted. -/
def stepComplete (n : Nat) (s : State) : State :=
  match s.plan? n, s.run? n with
  | some p, some r =>
    let ended := fun (t : Task) => t.doneStep || t.doneEnd || t.haltedOut
    if s.serving = false ∨ r.inStep = false ∨ r.broken ∨ r.fail.isSome ∨ ((s.planTasks p).all fun e => ended e.2) = false
      ∨ ((s.planTasks p).all fun e => e.2.doneEnd || e.2.haltedOut) = true then s else
    let r' := s.foldGrades p r
    match s.runError p with
    | some e => s.failRun n p r' e
    | none =>
      let aborted := match r.cmd.bind s.cmd? with
        | some c => c.abort
        | none => false
      let gen := r.cmd.isNone
      let r1 := { (if gen then r else r') with inStep := false, stepsDone := r.stepsDone + 1, replayed := false,
                                               events := if gen then 0 else r'.events }
      let s := (planCores p.image).foldl (fun s k => s.modTask k (planTask p.image) Task.nextStep) s
      let s := s.setRun n r1
      if aborted then s.failRun n p r1 (stAborted, 0, 0, 0)
      else if gen then s.finishStep n p r else s
  | _, _ => s

/-- RUN_COMPLETE (R241): every core has issued DONE with END = 1 or has halted with nothing left in its queue
(R204), or the run has lost its region (R21). -/
def runComplete (n : Nat) (s : State) : State :=
  match s.plan? n, s.run? n with
  | some p, some r =>
    if s.serving = false then s else
    match r.fail with
    | some st => s.failRun n p (s.foldGrades p r) (st, 0, 0, 0)
    | none =>
      if r.broken ∨ ((s.planTasks p).all fun e => e.2.doneEnd || e.2.haltedOut) = false then s else
      let r' := s.foldGrades p r
      match s.runError p with
      | some e => s.failRun n p r' e
      | none =>
        match r.cmd.bind s.cmd? with
        | some c =>
          if c.abort then s.failRun n p r' (stAborted, 0, 0, 0)
          else (s.endRunCmd c p { r' with stepsDone := r.stepsDone + b2n r.inStep }).stopRun n p
        | none => (s.finishStep n p r).stopRun n p
  | _, _ => s

/-! ## Meanings -/

/-- STREAM_OPEN (R287). -/
def execStreamOpen (cmd : Nat) (s : State) : Host.Outcome State Fault Refusal := .next (streamOpen cmd s)
/-- STREAM_APPEND (R294). -/
def execStreamAppend (cmd : Nat) (s : State) : Host.Outcome State Fault Refusal := .next (streamAppend cmd s)
/-- STREAM_GENERATE (R300). -/
def execStreamGenerate (cmd : Nat) (s : State) : Host.Outcome State Fault Refusal := .next (streamGenerate cmd s)
/-- STREAM_CLOSE (R292). -/
def execStreamClose (cmd : Nat) (s : State) : Host.Outcome State Fault Refusal := .next (streamClose cmd s)
/-- FENCE (R374). -/
def execFence (cmd : Nat) (s : State) : Host.Outcome State Fault Refusal := .next (fence false cmd s)
/-- FENCE_RING (R374). -/
def execFenceRing (cmd : Nat) (s : State) : Host.Outcome State Fault Refusal := .next (fence true cmd s)
/-- TIME_WAIT (R374). -/
def execTimeWait (cmd : Nat) (s : State) : Host.Outcome State Fault Refusal := .next (timeWait cmd s)
/-- STATS (R374). -/
def execStats (cmd : Nat) (s : State) : Host.Outcome State Fault Refusal := .next (stats cmd s)
/-- COPY_IN (R370). -/
def execCopyIn (cmd : Nat) (s : State) : Host.Outcome State Fault Refusal := .next (copyIn cmd s)
/-- COPY_OUT (R370). -/
def execCopyOut (cmd : Nat) (s : State) : Host.Outcome State Fault Refusal := .next (copyOut cmd s)
/-- PLAN_RUN (R239). -/
def execPlanRun (cmd : Nat) (s : State) : Host.Outcome State Fault Refusal := .next (planRun cmd s)
/-- TRAIN_STEP (R320). -/
def execTrainStep (cmd : Nat) (s : State) : Host.Outcome State Fault Refusal := .next (trainStep cmd s)
/-- RUN_START (R239). -/
def execRunStart (cmd : Nat) (s : State) : Host.Outcome State Fault Refusal := .next (runStart cmd s)
/-- STEP_START (R52). -/
def execStepStart (plan : Nat) (s : State) : Host.Outcome State Fault Refusal := .next (stepStart plan s)
/-- STEP_COMPLETE (R241). -/
def execStepComplete (plan : Nat) (s : State) : Host.Outcome State Fault Refusal := .next (stepComplete plan s)
/-- RUN_COMPLETE (R241). -/
def execRunComplete (plan : Nat) (s : State) : Host.Outcome State Fault Refusal := .next (runComplete plan s)
/-- PAGE_ALLOCATION (R297). -/
def execPageAllocation (slot : Nat) (s : State) : Host.Outcome State Fault Refusal := .next (pageAllocation slot s)
/-- DECODE_RUN_START (R299). -/
def execDecodeRunStart (plan : Nat) (s : State) : Host.Outcome State Fault Refusal := .next (decodeRunStart plan s)
/-- PREFILL_CHUNK (R301). -/
def execPrefillChunk (cmd : Nat) (s : State) : Host.Outcome State Fault Refusal := .next (prefillChunk cmd s)

end Sys2Proof.Machine
end

