-- ==== Sys2Proof/Machine/Corpus.lean ====
section
/-!
DEFINITION. Sys2Proof/Machine/Corpus.lean: the corpus of a partition, its tables, queries and batches, changes and epochs
(R303-R315), and installs (R119, R120, R369, R423, R424).
-/
namespace Sys2Proof.Machine

/-! ## The corpus record and its tables (R303) -/

/-- The device-wide physical index of a device deck number. -/
def State.deckIdx (s : State) (d : Nat) : Nat := 216 * (d / 192) + (s.core (d / 192)).deckPos (d % 192)

/-- The corpus deck index of a device deck number. -/
def Corpus.index? (k : Corpus) (d : Nat) : Option Nat := (k.decks.find? fun e => e.1 == d).map (·.2)

/-- Indices in use on a slice, by corpus decks and by decks that wait for an epoch. -/
def Corpus.used (k : Corpus) (slice : Nat) : List Nat :=
  ((k.decks ++ k.changes.flatMap (·.add) ++ k.placed).filter fun e => e.1 / 192 == slice).map (·.2)

/-- The index of the next deck added on a slice: the lowest free one. -/
def Corpus.nextIndex (k : Corpus) (slice : Nat) : Nat := ((List.range 192).find? fun j => !((k.used slice).contains j)).getD 0

/-- Indices given to decks that are about to be programmed (R303; log entry 122, DEDUCED: the order of addition is that of the programs). -/
def Corpus.place (k : Corpus) (decks : List Nat) : Corpus :=
  decks.foldl (fun k d => { k with placed := k.placed ++ [(d, k.nextIndex (d / 192))] }) k

/-- The index of a deck that joins: the one it was given, else the next. -/
def Corpus.joinIndex (k : Corpus) (d : Nat) : Nat := ((k.placed.find? fun e => e.1 == d).map (·.2)).getD (k.nextIndex (d / 192))

/-- Decks that are no longer to be programmed give their indices up. -/
def Corpus.unplace (k : Corpus) (decks : List Nat) : Corpus := { k with placed := k.placed.filter fun e => !(decks.contains e.1) }

def Corpus.tagAddr (k : Corpus) (j : Nat) : Nat := dcmAddr (k.tagDcm + j / 120) (8 * (j % 120))
def Corpus.tombAddr (k : Corpus) (j : Nat) : Nat := dcmAddr (k.tagDcm + j / 120) (960 + j % 120 / 2) + 128 * (j % 2)
def Corpus.checkAddr (k : Corpus) (j : Nat) : Nat := dcmAddr (k.checkDcm + j / 64) (16 * (j % 64))

/-- The tag and the tombstone of column c of corpus deck (d, j). -/
def State.tagOf (s : State) (k : Corpus) (e : Nat × Nat) (c : Nat) : Nat := (s.core (e.1 / 192)).dcmView.num (k.tagAddr e.2 + 2 * c) 2
def State.tombed (s : State) (k : Corpus) (e : Nat × Nat) (c : Nat) : Bool :=
  bitAt ((s.core (e.1 / 192)).dcmView.byte (k.tombAddr e.2 + c / 8)) (c % 8)

/-- Write tags, tombstones (2,176 B together, as ATTACH gives them) and the check table of a deck (R303, R311, R314). -/
def State.writeTables (s : State) (k : Corpus) (e : Nat × Nat) (block : List Byte) : State :=
  let t := (s.deckOf e.1).crcTable
  s.modCore (e.1 / 192) fun c =>
    c.dcmStore (((c.dcmView.write (k.tagAddr e.2) (block.take 2048)).write (k.tombAddr e.2) ((block.drop 2048).take 128)).write (k.checkAddr e.2) t)

/-- Set one tombstone bit. -/
def State.setTomb (s : State) (k : Corpus) (i : Nat) : State :=
  match k.index? (i / 1024) with
  | none => s
  | some j =>
    let c := i % 1024
    s.modCore (i / 1024 / 192) fun x =>
      let a := k.tombAddr j + c / 8
      x.dcmStore (x.dcmView.put a (x.dcmView.byte a ||| BitVec.ofNat 8 (2 ^ (c % 8))))

/-! ## The scan service's task (R303, R304) -/

/-- Two ranges of n and m from a and b meet. -/
def meet (a n b m : Nat) : Bool := decide (0 < n) && decide (0 < m) && decide (a < b + m) && decide (b < a + n)

/-- The DCM ranges of a corpus, as first and number: C to C + 1 and K to K + 2. -/
def Corpus.ranges (k : Corpus) : List (Nat × Nat) := [(k.tagDcm, 2), (k.checkDcm, 3)]

/-- Cores that hold decks of the corpus, or that its commands in progress will add. -/
def State.scanCores (s : State) (p : Nat) (k : Corpus) : List Nat :=
  ((k.decks.map (·.1) ++ (k.changes.flatMap (·.add)).map (·.1)
    ++ (s.cmds.filter fun c => c.op == 0x20 && c.part == p && decide (c.phase ≠ .waiting)).flatMap (·.decks)).map (· / 192)).eraseDups

/-- The scan service's task on a core. -/
def Corpus.service (k : Corpus) (p : Nat) : Task :=
  { Task.init with valid := true, plan := 0xFFFF, klass := 3, part := p, base := k.winBase, bound := k.winLen, dcmLo := k.tagDcm,
                   dcmHi := k.tagDcm + 1, tokens := List.replicate 64 0 }

/-- A task of the scan service: no plan has its number. -/
def Task.isService (t : Task) : Bool := t.valid && t.plan == 0xFFFF

/-- A window and DCM ranges meet memory of another partition on a core. -/
def State.foreign (s : State) (core p base len : Nat) (dcms : List (Nat × Nat)) : Bool :=
  ((s.core core).tasks.any fun t => t.valid && t.part != p &&
    (meet t.base t.bound base len || dcms.any fun d => meet t.dcmLo (t.dcmHi + 1 - t.dcmLo) d.1 d.2))
  || s.corpora.any fun e => e.1 != p && (s.core core).tasks.any (fun t => t.isService && t.part == e.1) &&
      (e.2.ranges.any fun r => dcms.any fun d => meet r.1 r.2 d.1 d.2)

/-- The corpus fits on a core that does not hold its task yet. -/
def State.serviceFits (s : State) (p : Nat) (k : Corpus) (core : Nat) : Bool :=
  ((s.core core).tasks.any fun t => t.isService && t.part == p)
  || (!((s.core core).task k.task).valid && !(s.foreign core p k.winBase k.winLen k.ranges)
      && (s.core core).tasks.all fun t => !(t.valid && t.part == p && t.klass == 3))

/-- The highest task number free on every core of a list (R304). -/
def State.freeTask (s : State) (cores : List Nat) : Option Nat := [3, 2, 1, 0].find? fun t => cores.all fun c => !((s.core c).task t).valid

/-- Load the service on the cores that need it and unload it from those that do not. -/
def State.fitService (s : State) (p : Nat) : State :=
  match s.corpus? p with
  | none => s
  | some k =>
    let want := s.scanCores p k
    let have_ := (s.cores.filter fun e => e.2.tasks.any fun t => t.isService && t.part == p).map (·.1)
    let s := (have_.filter fun c => !(want.contains c)).foldl (fun s c => s.modCore c fun x =>
      ((List.range 4).filter fun t => (x.task t).isService && (x.task t).part == p).foldl (fun x t => x.unload t) x) s
    (want.filter fun c => !(have_.contains c)).foldl (fun s c => s.modCore c fun x => x.setTask k.task (k.service p)) s

/-- Quarter MiB of a region that a partition's tasks and corpus use in DCMs: logical DCMs in a range of any of its tasks or of its corpus
(R190, R303, R354; log entry 91, DEDUCED). -/
def State.sramUsed (s : State) (p r : Nat) (extra : Nat → List (Nat × Nat)) : Nat :=
  let rs := match s.corpus? p with
    | some k => k.ranges
    | none => []
  ((List.range 64).map fun n =>
    let c := s.core (64 * r + n)
    let mine := (c.tasks.filter fun t => t.valid && t.part == p)
    let spans := (mine.map fun t => (t.dcmLo, t.dcmHi + 1 - t.dcmLo)) ++ (if mine.any Task.isService then rs else []) ++ extra (64 * r + n)
    ((List.range 512).filter fun l => spans.any fun e => decide (e.1 ≤ l) && decide (l < e.1 + e.2)).length).sum

/-- The SRAM quota of every region holds with extra ranges by core. -/
def State.sramFits (s : State) (p : Nat) (extra : Nat → List (Nat × Nat)) : Bool :=
  (List.range s.nRegions).all fun r => decide (s.sramUsed p r extra ≤ 4 * (s.part p).sram.getD r 0)

/-- The corpus that a command adds decks to: the partition's, or a new one that the command's parameters set (R303, R369); a status where
it conflicts. -/
def State.corpusFor (s : State) (c : Cmd) (decks : List Nat) : Nat ⊕ Corpus :=
  let cores := (decks.map (· / 192)).eraseDups
  match s.corpus? c.part with
  | some k =>
    if cores.all (s.serviceFits c.part k) then
      if s.sramFits c.part (fun n => if cores.contains n then k.ranges else []) then .inr k else .inl stQuotaExceeded
    else .inl stPlanConflict
  | none =>
    let t := c.par 0x34 2
    let h := c.par 0x36 2
    let b := c.par 0x38 4
    let n := c.par 0x3C 4
    if 511 < t + 1 ∨ 511 < h + 2 ∨ 0x80000 < b + n ∨ (s.plans.any fun e => e.2.part == c.part && planClass e.2.image == 3) then .inl stPlanConflict
    else match s.freeTask cores with
    | none => .inl stPlanConflict
    | some task =>
      let k : Corpus := { decks := [], tagDcm := t, checkDcm := h, winBase := b, winLen := n, epoch := 0, changes := [], task := task, measured := none,
                          epochBeat := none, seriesFrom := 0, lastEnd := none, placed := [] }
      if cores.all (s.serviceFits c.part k) then
        if s.sramFits c.part (fun n => if cores.contains n then k.ranges else []) then .inr k else .inl stQuotaExceeded
      else .inl stPlanConflict

/-! ## Programs of host commands (R311, R120) -/

/-- The check table of a corpus deck index, as PROG names one (R109, R303). -/
def Corpus.checkPlace (k : Corpus) (j : Nat) : Nat × Nat := (k.checkDcm + j / 64, 16 * (j % 64))

/-- Begin to program a deck for a command; a corpus deck's check table is written before it is READY (R109). -/
def State.giveProgram (s : State) (c : Cmd) (d : Nat) (fmt4 colcheck : Bool) (crc : Option (Nat × Nat)) (lines : List (List Byte)) : State :=
  let i := s.deckIdx d
  let job : ProgJob := { task := none, cmd := some c.id, nextWl := 1024, data := lines, words := [], source := none, crc := crc }
  s.setDeck i { s.deck i with state := .programming, pages := 0, fmt4 := fmt4, colcheck := colcheck, enc := false, job := some job,
                              queuedAt := some s.beat }

/-- The deck is still being programmed for the command. -/
def Deck.programs (d : Deck) (id : Nat) : Bool := match d.job with
  | some j => j.cmd == some id
  | none => false

/-- Programs of a command that has ended are abandoned. -/
def State.dropPrograms (s : State) (c : Cmd) : State :=
  c.decks.foldl (fun s d =>
    let i := s.deckIdx d
    if (s.deck i).programs c.id then s.setDeck i (s.deck i).stopProgram else s) s

/-- Erase the decks that a command programmed (R120). -/
def State.eraseDecks (s : State) (c : Cmd) (decks : List Nat) : State :=
  decks.foldl (fun s d =>
    let i := s.deckIdx d
    let x := s.deck i
    if x.state = .ready ∨ x.state = .incomplete ∨ x.state = .programming then (s.setDeck i { (x.startErase s.beat) with eraseCmd := some c.id }).abandonRefresh i
    else s) s

def State.allReady (s : State) (decks : List Nat) : Bool := decks.all fun d => decide ((s.deckOf d).state = .ready)

/-- SHAKE256 with 512 bits over the exact-read contents of decks, in order (R120, R423). -/
def State.contentsDigest (s : State) (decks : List Nat) : List Byte :=
  shake256 64 (decks.flatMap fun d => (List.range 1024).flatMap fun wl => (s.deckOf d).rowBytes wl)

/-- A command that may not take its decks now (R95, R96, R369). -/
def State.decksStatus (s : State) (c : Cmd) : Option Nat :=
  if (c.decks.any fun d => decide (s.deckStateOf d ≠ .erased)) || decide (c.decks.eraseDups.length ≠ c.decks.length) then some stDeckState
  else if c.decks.any fun d => !(ownerWrites (s.rights d) c.part) then some stAccessDenied
  else none

/-! ### Packages (R119, R120, R428) -/

/-- What the header of a package says. -/
structure Package where
  ok : Bool
  fmt4 : Bool
  colcheck : Bool
  count : Nat
  iv : List Byte
  digest : List Byte
  header : List Byte
  deriving DecidableEq, Repr

def packageOf (h : Mem) (a : Nat) : Package :=
  let hd := h.read a 256
  { ok := imgNum hd 0 4 == 0x5A544950 && imgNum hd 4 2 == 1 && decide (imgNum hd 7 1 < 4) && (hd.drop 0x58).all (· == 0),
    fmt4 := imgNum hd 7 1 % 2 == 1, colcheck := imgNum hd 7 1 / 2 % 2 == 1, count := imgNum hd 8 4, iv := (hd.drop 0xC).take 12,
    digest := (hd.drop 0x18).take 64, header := hd }

/-- The initial vector of chunk i: its low 32 bits, little-endian, increased (R9, R119). -/
def chunkIv (iv : List Byte) (i : Nat) : List Byte := toLe 4 (imgNum iv 0 4 + i) ++ iv.drop 4

/-- The plaintext of chunk i; none where its tag fails. -/
def openChunk (h : Mem) (a : Nat) (p : Package) (key : List Byte) (i : Nat) : Option (List Byte) :=
  let o := a + 256 + i * (0x100000 + 16)
  gcmOpen key (chunkIv p.iv i) (p.header ++ toLe 4 i) (h.read o 0x100000) (h.read (0x100000 + o) 16)

/-- The plaintext of every chunk, where the slot holds a key of the partition and every tag is right. -/
def State.openPackage (s : State) (c : Cmd) (p : Package) : Option (List (List Byte)) :=
  match c.keySlot.bind fun k => sget none s.verm.slots k with
  | none => none
  | some (key, owner) =>
    if owner ≠ c.part ∨ p.ok = false then none
    else (List.range p.count).mapM fun i => openChunk (s.port c.port).host (c.par 0x18 8) p key i

/-- Word-lines of 1 MiB of two's complement plaintext as cell codes (R90, R91, R119). -/
def linesOf (fmt4 : Bool) (b : List Byte) : List (List Byte) :=
  (chunks 1024 b).map fun l => l.map fun x => x ^^^ (if fmt4 then 0x88 else 0x80)

/-! ## MODEL_INSTALL (R120, R369) -/

/-- A FORMAT_ERROR with its reason (R364, R369). -/
def Cmd.formatError (c : Cmd) (reason : Nat) : Result := { c.result stFormatError 0 0 with reason := reason }

/-- Decks of an install programmed so far. -/
def State.readyCount (s : State) (c : Cmd) : Nat := (c.decks.filter fun d => decide ((s.deckOf d).state = .ready)).length

/-- The start of an install. -/
def State.startInstall (s : State) (c : Cmd) : State :=
  let h := (s.port c.port).host
  let a := c.par 0x18 8
  match s.decksStatus c with
  | some st => s.complete c (c.result st 0 0)
  | none =>
    let go := fun (s : State) (fmt4 : Bool) (l : List (List Byte)) (digest : List Byte) =>
      ((c.decks.zip l).foldl (fun s e => s.giveProgram c e.1 fmt4 false none (linesOf fmt4 e.2)) s).begin_ { c with content := digest }
    if c.flag 0 then
      let p := packageOf h a
      if p.colcheck then s.complete c (c.formatError 5)
      else if p.count ≠ c.decks.length then s.complete c (c.formatError 6)
      else match s.openPackage c p with
      | none => s.complete c (c.result stAuthFailed 0 0)
      | some l => go s p.fmt4 l p.digest
    else go s (c.flag 1) ((List.range c.decks.length).map fun i => h.read (a + 0x100000 * i) 0x100000) ([] : List Byte)

/-- The end of an install: its digest, and the record (R120, R423). -/
def State.endInstall (s : State) (c : Cmd) : State :=
  let d := s.contentsDigest c.decks
  if c.flag 0 ∧ d ≠ c.content then (s.eraseDecks c c.decks).complete c (c.result stAuthFailed 0 0)
  else
    let n := s.installs.length
    let s := c.decks.foldl (fun (s : State) k => s.setDeck (s.deckIdx k) { s.deckOf k with enc := c.flag 0, installed := some n }) s
    let s := { s with installs := s.installs ++ [({ part := c.part, decks := c.decks, digest := d } : Install)] }
    let a := c.par 0x28 8
    let s := if a = 0 ∨ c.discard then s else s.hostWrite c.port a d
    s.complete c (c.result stSuccess c.decks.length 0)

def modelInstall (id : Nat) (s : State) : State :=
  match s.admitted id 0x22 with
  | none => s
  | some c =>
    match c.phase, c.fail with
    | .waiting, _ => if s.mayStart c = false ∨ (s.port c.port).dmaOn = false then s else s.startInstall c
    | _, some st =>
      let n := s.readyCount c
      (s.dropPrograms c).complete c (c.result st n 0)
    | _, none => if s.allReady c.decks then s.endInstall c else s

/-! ## CORPUS_PROGRAM (R311, R313, R314) -/

/-- Word-lines of up to 1,024 vectors as the columns of one deck; columns left over hold zero vectors. -/
def columnLines (vs : List (List Byte)) : List (List Byte) :=
  tabulate 1024 fun i => (tabulate 1024 fun j => ((vs.getD j []).getD i 0) ^^^ 0x80)

/-- Tags and tombstones of a deck: the tags of its columns and whether each is tombstoned. -/
def tagBlock (l : List (Nat × Bool)) : List Byte :=
  let at_ := fun j => l.getD j (0, true)
  ((List.range 1024).flatMap fun j => toLe 2 (at_ j).1)
  ++ tabulate 128 fun k => BitVec.ofNat 8 ((List.range 8).foldl (fun a i => a + if (at_ (8 * k + i)).2 then 2 ^ i else 0) 0)

/-- One corpus vector by its index, read exactly, with its tag and tombstone (R109, R313). -/
def State.vectorOf (s : State) (k : Corpus) (i : Nat) : Option (List Byte × Nat × Bool) :=
  (k.index? (i / 1024)).map fun j =>
    let e := (i / 1024, j)
    let d := s.deckOf e.1
    let t := s.tombed k e (i % 1024)
    (if t then List.replicate 1024 0 else tabulate 1024 fun r => BitVec.ofInt 8 (d.weight r (i % 1024)), s.tagOf k e (i % 1024), t)

/-- The vectors, tags and tombstones of a NEW from host memory. -/
def State.newVectors (s : State) (c : Cmd) : List (List Byte × Nat × Bool) :=
  let h := (s.port c.port).host
  (List.range (c.par 0x30 4)).map fun v => (h.read (c.par 0x18 8 + 1024 * v) 1024, h.num (c.par 0x20 8 + 2 * v) 2, false)

/-- Program vectors: decks in vector order, tags and tombstones kept for the tables. -/
def State.programVectors (s : State) (c : Cmd) (k : Corpus) (vs : List (List Byte × Nat × Bool)) : State :=
  let groups := chunks 1024 vs
  let k := k.place c.decks
  let s := s.setCorpus c.part k
  let s := (c.decks.zip groups).foldl (fun s e => s.giveProgram c e.1 false true (some (k.checkPlace (k.joinIndex e.1))) (columnLines (e.2.map (·.1)))) s
  (s.begin_ { c with content := groups.flatMap fun g => tagBlock (g.map (·.2)) }).fitService c.part

/-- Program a package's decks; its tags come from the host (R119, R311, R369). -/
def State.programPackage (s : State) (c : Cmd) (k : Corpus) : State :=
  let p := packageOf (s.port c.port).host (c.par 0x18 8)
  if p.count ≠ ceilDiv (c.par 0x30 4) 1024 ∨ p.fmt4 then s.complete c (c.formatError 6)
  else match s.openPackage c p with
  | none => s.complete c (c.result stAuthFailed 0 0)
  | some l =>
    let tags := (s.newVectors c).map (·.2)
    let k := k.place c.decks
    let s := s.setCorpus c.part k
    let s := (c.decks.zip l).foldl (fun s e => s.giveProgram c e.1 false true (some (k.checkPlace (k.joinIndex e.1))) (linesOf false e.2)) s
    (s.begin_ { c with content := (chunks 1024 tags).flatMap tagBlock ++ p.digest }).fitService c.part

/-- Tags and tombstones kept for deck n of a command. -/
def Cmd.block (c : Cmd) (n : Nat) : List Byte := (c.content.drop (2176 * n)).take 2176

/-- The sources of a COMPACT, as the port has read them. -/
def State.sources (s : State) (c : Cmd) : List Nat := s.hostWords c.port (c.par 0x18 8) (c.par 0x30 4)

/-- Decks of a program command that neither lie in the corpus nor wait for its epoch. -/
def Corpus.missing (k : Corpus) (decks : List Nat) : List Nat :=
  decks.filter fun d => (k.index? d).isNone && !(k.changes.any fun e => e.add.any fun a => a.1 == d)

/-- Write the tables of decks and add the change that joins them. -/
def State.joinDecks (s : State) (c : Cmd) (decks tomb : List Nat) (last : Bool) : State :=
  match s.corpus? c.part with
  | none => s
  | some k =>
    let (s, k', add) := decks.foldl (fun (a : State × Corpus × List (Nat × Nat)) d =>
      let e := (d, a.2.1.joinIndex d)
      let n := (c.decks.idxOf d)
      (a.1.writeTables k e (c.block n), { a.2.1 with decks := a.2.1.decks ++ [e] }, a.2.2 ++ [e])) (s, k, [])
    s.setCorpus c.part { k'.unplace decks with decks := k.decks, changes := k.changes ++ [{ cmd := c.id, add := add, remove := [], tomb := tomb, last := last }] }

/-- The decks of a program that have become READY: NEW joins each at the next epoch, a package or COMPACT all at once (R120, R311, R313). -/
def State.settleProgram (s : State) (c : Cmd) : State :=
  match s.corpus? c.part, c.fail with
  | some k, none =>
    let left := k.missing c.decks
    let ready := left.filter fun d => decide ((s.deckOf d).state = .ready)
    if ready = [] then s
    else if c.flags = 0 then s.joinDecks c ready [] (ready.length == left.length)
    else if s.allReady c.decks = false then s
    else if c.flags % 4 = 1 then s.joinDecks c ready (leWords (c.content.drop (2176 * c.decks.length))) true
    else if s.contentsDigest c.decks ≠ c.content.drop (2176 * c.decks.length) then
      ((s.eraseDecks c c.decks).complete c (c.result stAuthFailed 0 0)).fitService c.part
    else
      (c.decks.foldl (fun (s : State) d => s.setDeck (s.deckIdx d) { s.deckOf d with enc := true }) s).joinDecks c ready [] true
  | _, _ => s
where
  /-- 4 B values of a byte list. -/
  leWords (b : List Byte) : List Nat := (chunks 4 b).map leNat

/-- Decks that a program command has added to the corpus so far. -/
def State.addedBy (s : State) (c : Cmd) : List Nat :=
  match s.corpus? c.part with
  | some k => c.decks.filter fun d => (k.index? d).isSome
  | none => []

/-- A program command that has failed ends: what has joined stays, the rest is abandoned (R103, R21). -/
def State.failProgram (s : State) (c : Cmd) (st : Nat) : State :=
  let n := (s.addedBy c).length
  let ep := ((s.corpus? c.part).map fun k => k.epoch.toNat).getD 0
  let s := (s.dropPrograms c).complete c (c.result st n ep)
  let s := match s.corpus? c.part with
    | some k => s.setCorpus c.part { k.unplace c.decks with changes := k.changes.filter fun e => e.cmd != c.id }
    | none => s
  s.fitService c.part

/-- The row of a program command: its start, or how far it has come. -/
def State.programRow (s : State) (c : Cmd) (start : State → State) : State :=
  match c.phase, c.fail with
  | .waiting, _ => if s.mayStart c = false ∨ (s.port c.port).dmaOn = false then s else start s
  | _, some st => s.failProgram c st
  | _, none => s.settleProgram c

/-- CORPUS_PROGRAM in NEW mode (R311). -/
def corpusProgramNew (id : Nat) (s : State) : State :=
  match (s.admitted id 0x20).filter fun c => c.flags % 4 == 0 with
  | none => s
  | some c => s.programRow c fun s =>
    match s.decksStatus c, s.corpusFor c c.decks with
    | some st, _ => s.complete c (c.result st 0 0)
    | none, .inl st => s.complete c (c.result st 0 0)
    | none, .inr k => if c.flag 2 then s.programPackage c k else s.programVectors c k (s.newVectors c)

/-- CORPUS_PROGRAM in COMPACT mode (R313). -/
def corpusProgramCompact (id : Nat) (s : State) : State :=
  match (s.admitted id 0x20).filter fun c => c.flags % 4 == 1 with
  | none => s
  | some c => s.programRow c fun s =>
    let src := s.sources c
    match s.corpus? c.part with
    | none => s.complete c (c.result stAccessDenied 0 0)
    | some k0 =>
      match src.mapM (s.vectorOf k0), s.decksStatus c, s.corpusFor c c.decks with
      | none, _, _ => s.complete c (c.result stAccessDenied 0 0)
      | some _, some st, _ => s.complete c (c.result st 0 0)
      | some _, none, .inl st => s.complete c (c.result st 0 0)
      | some vs, none, .inr k =>
        let s := s.programVectors c k vs
        match s.cmd? id with
        | some c => s.setCmd { c with content := c.content ++ src.flatMap (toLe 4) }
        | none => s

/-- What ATTACH may not take: READY, INT8, with COLCHECK, named once and in no corpus; private to the partition (R314). -/
def State.attachStatus (s : State) (c : Cmd) : Option Nat :=
  let bad := fun d => let x := s.deckOf d
                      decide (x.state ≠ .ready) || x.fmt4 || !x.colcheck || s.corpora.any fun e => (e.2.index? d).isSome
                        || e.2.changes.any fun y => y.add.any fun a => a.1 == d
  if c.decks.any bad ∨ c.decks.eraseDups.length ≠ c.decks.length then some stDeckState
  else if c.decks.any fun d => !(ownerWrites (s.rights d) c.part) then some stAccessDenied
  else none

/-- CORPUS_PROGRAM in ATTACH mode (R314). -/
def corpusProgramAttach (id : Nat) (s : State) : State :=
  match (s.admitted id 0x20).filter fun c => c.flags % 4 == 2 && decide (c.phase = .waiting) with
  | none => s
  | some c =>
    if s.mayStart c = false ∨ (s.port c.port).dmaOn = false then s else
    match s.attachStatus c, s.corpusFor c c.decks with
    | some st, _ => s.complete c (c.result st 0 0)
    | none, .inl st => s.complete c (c.result st 0 0)
    | none, .inr k =>
      let c := { c with content := (s.port c.port).host.read (c.par 0x20 8) (2176 * c.decks.length), phase := .running }
      (((s.setCorpus c.part k).setCmd c).joinDecks c c.decks [] true).fitService c.part

/-! ## CORPUS_DELETE (R312) -/

/-- Add a change that is ready. -/
def State.addChange (s : State) (c : Cmd) (k : Corpus) (remove tomb : List Nat) : State :=
  (s.setCorpus c.part { k with changes := k.changes ++ [{ cmd := c.id, add := [], remove := remove, tomb := tomb, last := remove == [] }] }).begin_
    { c with done := remove.length }

/-- CORPUS_DELETE in TOMB mode. -/
def corpusDeleteTomb (id : Nat) (s : State) : State :=
  match (s.admitted id 0x21).filter fun c => !(c.flag 0) && decide (c.phase = .waiting) with
  | none => s
  | some c =>
    if s.mayStart c = false ∨ (s.port c.port).dmaOn = false then s else
    let l := s.hostWords c.port (c.par 0x18 8) (c.par 0x20 4)
    match s.corpus? c.part with
    | none => s.complete c (c.result stAccessDenied 0 0)
    | some k =>
      if l.all fun i => (k.index? (i / 1024)).isSome then s.addChange c k [] l else s.complete c (c.result stAccessDenied 0 0)

/-- Every column of a deck is tombstoned. -/
def State.allTombed (s : State) (k : Corpus) (e : Nat × Nat) : Bool := (List.range 1024).all fun c => s.tombed k e c

/-- Decks of an ERASE that are not erased yet. -/
def State.eraseLeft (s : State) (c : Cmd) : Bool :=
  c.decks.any fun d => decide ((s.deckOf d).state = .erasing) && (s.deckOf d).eraseCmd == some c.id

/-- CORPUS_DELETE in ERASE mode: the check and the change; the command ends once its decks are erased (R312, R373; log entry 92, DEDUCED). -/
def corpusDeleteErase (id : Nat) (s : State) : State :=
  match (s.admitted id 0x21).filter fun c => c.flag 0 with
  | none => s
  | some c =>
    match c.phase with
    | .waiting =>
      if s.mayStart c = false then s else
      match s.corpus? c.part with
      | none => s.complete c (c.result stAccessDenied 0 0)
      | some k =>
        let ds := c.decks.eraseDups
        match ds.mapM fun d => (k.index? d).map fun j => (d, j) with
        | none => s.complete c (c.result stAccessDenied 0 0)
        | some es => if es.all (s.allTombed k) then s.addChange c k ds [] else s.complete c (c.result stDeckLive 0 0)
    | .running => s
    | .finished =>
      if s.eraseLeft c then s
      else s.complete c (c.result (c.fail.getD stSuccess) c.done (((s.corpus? c.part).map fun k => k.epoch.toNat).getD 0))

/-! ## Epochs (R310) -/

/-- A deck leaves the corpus and is to be erased; at the wear limit it is retired instead (R105, R312). -/
def State.eraseRemoved (s : State) (id d : Nat) : State :=
  let i := s.deckIdx d
  let x := s.deck i
  if 3000 ≤ x.wear then
    let s := s.wearRetire i
    match s.cmd? id with
    | some c => s.setCmd { c with fail := some (c.fail.getD stWearLimit) }
    | none => s
  else (s.setDeck i { (x.startErase s.beat) with eraseCmd := some id }).abandonRefresh i

/-- One change takes effect: sources are tombstoned, decks join and leave, and the epoch counts it. -/
def State.applyChange (s : State) (p : Nat) (e : CorpusChange) : State :=
  match s.corpus? p with
  | none => s
  | some k =>
    let s := e.tomb.foldl (fun s i => s.setTomb k i) s
    let s := s.setCorpus p { k with decks := (k.decks.filter fun d => !(e.remove.contains d.1)) ++ e.add, epoch := k.epoch + 1 }
    let s := e.remove.foldl (fun s d => s.eraseRemoved e.cmd d) s
    match s.cmd? e.cmd with
    | none => s
    | some c =>
      if e.remove ≠ [] then s.setCmd { c with phase := .finished }
      else if e.last then
        let n := if c.op = 0x20 then c.decks.length else c.done
        let s := if c.op = 0x20 ∧ c.flags % 4 ≠ 2 ∧ c.discard = false then s.hostWrite c.port (c.par 0x28 8) (c.decks.flatMap (toLe 4)) else s
        s.complete c (c.result stSuccess n (k.epoch + 1).toNat)
      else s

/-- CORPUS_EPOCH (R310): a beat boundary with no batch of the partition in flight. -/
def corpusEpoch (p : Nat) (s : State) : State :=
  if s.serving = false ∨ (mget s.batches p).isSome then s else
  let s' := (s.cmds.filter fun c => c.op == 0x20 && c.part == p && decide (c.phase = .running)).foldl (fun s c => s.settleProgram c) s
  match s'.corpus? p with
  | none => s'
  | some k =>
    if k.changes = [] then s' else
    let s := s'.advanceTo s'.nextBoundary
    let s := s.setCorpus p { k with changes := [], epochBeat := some s.beat }
    (k.changes.foldl (fun s e => s.applyChange p e) s).fitService p

/-- CORPUS_MEASUREMENT (R424): the measurement of the current epoch is complete, in a maintenance run. -/
def corpusMeasurement (p : Nat) (s : State) : State :=
  match s.corpus? p with
  | none => s
  | some k =>
    if s.serving = false ∨ ((List.range s.nRegions).any s.inMaintenance) = false then s else
    let ds := (List.range (192 * s.nCores)).filter fun d => (k.index? d).isSome
    s.setCorpus p { k with measured := some (k.epoch, s.contentsDigest ds) }

/-! ## Queries (R305-R309) -/

/-- The hub fetches a query, and for QUERY_RERANK its indices, from the host (R305, R307, R368). -/
def State.fetchQuery (s : State) (c : Cmd) : State :=
  let h := (s.port c.port).host
  let q := h.read (c.par 0x18 8) 1024
  s.setCmd { c with content := if c.op = 0x11 then q ++ h.read (c.par 0x28 8) (4 * c.par 0x30 2) else q }

/-- QUERY_SCAN and QUERY_RERANK: the query is fetched; the batches serve it. -/
def query (op id : Nat) (s : State) : State :=
  match (s.admitted id op).filter fun c => decide (c.phase = .waiting) && c.content == [] with
  | none => s
  | some c => if c.notBefore ≤ s.beat ∧ (s.port c.port).dmaOn = true then s.fetchQuery c else s

def Cmd.codes (c : Cmd) : List Int := (c.content.take 1024).map BitVec.toInt
def Cmd.indices (c : Cmd) : List Nat := (chunks 4 (c.content.drop 1024)).map leNat

/-- A scored vector. -/
structure Hit where
  score : Int
  index : Nat
  deriving DecidableEq, Repr

/-- R276: larger score, then lower index. -/
def Hit.before (a b : Hit) : Bool := decide (b.score < a.score) || (a.score == b.score && decide (a.index < b.index))
def insertHit (a : Hit) : List Hit → List Hit
  | [] => [a]
  | b :: l => if a.before b then a :: b :: l else b :: insertHit a l
def bestHits (n : Nat) (l : List Hit) : List Hit := l.foldl (fun a h => (insertHit h a).take n) []

/-- Column c of a corpus deck passes the filter of a query (R280, R305). -/
def State.passes (s : State) (k : Corpus) (e : Nat × Nat) (q : Cmd) (c : Nat) : Bool :=
  let n := q.par 0x2C 1
  (q.flag 0 || !(s.tombed k e c)) && (n == 0 || (List.range n).any fun i => q.par (0x2E + 2 * i) 2 == s.tagOf k e c)

/-- The pulse-width operation of a query on one corpus deck; `shift` numbers its free errors. -/
def State.scanCtx (s : State) (k : Corpus) (e : Nat × Nat) (shift : Nat) : Ctx :=
  { s := { s with freeCtr := s.freeCtr + shift }, core := e.1 / 192, task := k.task, w := 0, chk := .clean, inj := none,
    tm := { issue := 0, start := 0, fence := 0, limit := 0, icc := 0, spread := 0, beside := 0 } }
def scanOp (e : Nat × Nat) (q : Cmd) : ArrIn := { n := e.1 % 192, trans := false, cr := false, bx := 8, v := 0, codes := q.codes, drop := false }

/-- The deck's scored columns that pass, and its counters. -/
def State.scanDeck (s : State) (k : Corpus) (q : Cmd) (e : Nat × Nat) (shift : Nat) : List Hit × Grade2 × State :=
  let x := s.scanCtx k e shift
  let i := scanOp e q
  let r := x.arrRepeat i
  let cols := (List.range 1024).filter (s.passes k e q)
  let res := x.arrResult i r
  let hits := cols.map fun c => { score := res.getD c 0 * pow2 r, index := 1024 * e.1 + c : Hit }
  let count := fun (c : Core) =>
    x.observe (((c.count (x.arrCounts i ++ [(cFiltered, 1024 - cols.length)])).inc64 cPwOps (x.arrPasses i)).inc64 cGated
      (q.codes.filter fun v => v == 0).length) i
  (hits, x.arrGrade i, s.modCore (e.1 / 192) count)

/-- Every corpus deck, the top c (R305). -/
def State.scan (s : State) (k : Corpus) (q : Cmd) (shift : Nat) : List Hit × Grade2 × State :=
  let a := (k.decks.zip (List.range k.decks.length)).foldl (fun (a : List Hit × Grade2 × State) e =>
    let (h, g, s') := a.2.2.scanDeck k q e.1 (shift + e.2)
    (a.1 ++ h, a.2.1.join g, s')) ([], Grade2.none, s)
  (bestHits (q.par 0x28 2) a.1, a.2.1, a.2.2)

/-- The exact dot product of a query and a vector (R260, R305). -/
def State.exactDot (s : State) (q : Cmd) (i : Nat) : Int :=
  let d := s.deckOf (i / 1024)
  (q.codes.mapIdx fun r v => v * d.weight r (i % 1024)).sum

/-- What an exact column read of vector i meets. -/
def readMeets (reads : List (Nat × Check)) (i : Nat) : Check := ((reads.find? fun e => e.1 == i).map (·.2)).getD .clean

/-- No row of the fallback of vector i's column read can be corrected (R110). -/
def columnFails (reads : List (Nat × Check)) (i : Nat) : Bool := readMeets reads i == .row || readMeets reads i == .major

/-- An exact column read: a column that mismatches its table is read by rows. Where they all correct it is counted, and its deck scheduled for
refresh; else one row is uncorrectable (R108-R110). -/
def State.readColumn (s : State) (k : Corpus) (reads : List (Nat × Check)) (i : Nat) : State :=
  match k.index? (i / 1024) with
  | none => s
  | some j =>
    if columnFails reads i then (s.hubInc rUncorrectable 1).faultEvent 15 (s.deckIdx (i / 1024)) 1
    else if readMeets reads i = .clean ∧ (s.core (i / 1024 / 192)).dcmView.num (k.checkAddr j + 2 * (i % 1024)) 2 = ((s.deckOf (i / 1024)).columnCrc (i % 1024)).toNat then s
    else
      let s := match readMeets reads i with
        | .bits n => s.hubInc rBchCorrected (min n 9216)
        | _ => s
      (s.hubInc rColcheckFallback 1).scheduleRefresh (s.deckIdx (i / 1024))

/-- A result entry (R306). -/
def State.hitEntry (s : State) (k : Corpus) (h : Hit) (exact : Bool) : List Byte :=
  let tag := match k.index? (h.index / 1024) with
    | some j => s.tagOf k (h.index / 1024, j) (h.index % 1024)
    | none => 0
  toLe 4 h.index ++ toLe 2 tag ++ toLe 1 (b2n exact) ++ toLe 1 0 ++ toLe 4 (unsigned 32 h.score) ++ toLe 4 0

/-- Exact scores of indices, in the order of R276. -/
def State.rerank (s : State) (q : Cmd) (l : List Nat) : List Hit :=
  bestHits l.length (l.map fun i => { score := s.exactDot q i, index := i : Hit })

/-- What the scan service finds for a query (R305-R307): the state after its column reads, the grade, the entries, and whether a read
failed (R110). -/
def State.serveQuery (s : State) (k : Corpus) (reads : List (Nat × Check)) (shift : Nat) (q : Cmd) : State × Grade2 × List Byte × Bool :=
  if q.op = 0x10 then
    let (hits, g, s) := s.scan k q shift
    let top := (hits.take (q.par 0x2A 2)).map (·.index)
    let s := top.foldl (fun s i => s.readColumn k reads i) s
    (s, g, (s.rerank q top).flatMap (s.hitEntry k · true) ++ (hits.drop (q.par 0x2A 2)).flatMap (s.hitEntry k · false), top.any (columnFails reads))
  else
    let s := q.indices.foldl (fun s i => s.readColumn k reads i) s
    (s, Grade2.none, (s.rerank q q.indices).flatMap (s.hitEntry k · true), q.indices.any (columnFails reads))

/-- A query of a batch: its entries, written to the host, and its result. An uncorrectable row fails it (R110). -/
def State.answerQuery (s : State) (k : Corpus) (epoch : Word) (reads : List (Nat × Check)) (shift : Nat) (q : Cmd) : State × Cmd × Result :=
  let (s, g, entries, bad) := s.serveQuery k reads shift q
  if bad then (s, q, q.result stArrayUncorrectable 0 epoch.toNat) else
  let s := (if q.discard ∨ entries = [] then s else s.hostWrite q.port (q.par 0x20 8) entries).addUnits q.named 1
  let q := { q with klass := g.klass, events := q.events ||| g.events }
  (s, q, q.result stSuccess (entries.length / 16) epoch.toNat)

/-- Every index of a QUERY_RERANK lies in the corpus. -/
def Corpus.holdsAll (k : Corpus) (q : Cmd) : Bool := q.op == 0x10 || q.indices.all fun i => (k.index? (i / 1024)).isSome

/-- Queries that a batch could take at the boundary, in admission order; of a stream none ahead of one that cannot start yet, so that its
completions keep that order (R291). -/
def State.readyQueries (s : State) (p : Nat) : List Cmd :=
  ((s.waitingQueries p).foldl (fun (a : List Cmd × List Nat) c =>
    if a.2.contains c.named then a
    else if (c.content != [] || c.fail.isSome) && s.mayStart c then (a.1 ++ [c], a.2) else (a.1, a.2 ++ [c.named])) ([], [])).1

/-- The scan service may issue now: a scan run of the partition, or a FILL slot of another of its runs (R48, R49, R304). -/
def State.scansNow (s : State) (p : Nat) : Bool :=
  (List.range s.nRegions).any fun r => match (s.region r).run with
    | some run => run.part == p && (run.klass == 3 || (run.klass != 0 && run.klass != 7 && slotFill (s.slotByte s.beat s.slotNow r)))
    | none => false

/-- BATCH_START (R308): at a beat boundary with no batch of the partition in flight. After 16 beats of batches without a gap, a boundary
is left to an epoch that waits (R310). -/
def batchStart (p : Nat) (s : State) : State :=
  match s.corpus? p with
  | none => s
  | some k =>
    if s.serving = false ∨ (mget s.batches p).isSome then s else
    let s' := s.advanceTo s.nextBoundary
    let from_ := if k.lastEnd = some s'.beat then k.seriesFrom else s'.beat
    let qs := (s'.readyQueries p).take (s'.part p).queryBatch
    if qs = [] ∨ k.epochBeat = some s'.beat ∨ (k.changes ≠ [] ∧ from_ + 16 ≤ s'.beat) then s else
    let fails := fun (q : Cmd) => if k.holdsAll q then q.fail else some (q.fail.getD stAccessDenied)
    let s' := qs.foldl (fun s q => s.begin_ { q with fail := fails q }) s'
    let s' := s'.setCorpus p { k with seriesFrom := from_ }
    { s' with batches := sins s'.batches p { cmds := qs.map (·.id), start := s'.beat, epoch := k.epoch, replayed := false } }

/-- The answer of a query of a batch: an aborted or failed one has none (R291, R307). -/
def State.batchAnswer (s : State) (k : Corpus) (b : Batch) (reads : List (Nat × Check)) (shift : Nat) (q : Cmd) : State × Cmd × Result :=
  if q.abort then (s, q, q.result stAborted 0 b.epoch.toNat)
  else match q.fail with
  | some st => (s, q, q.result st 0 b.epoch.toNat)
  | none => s.answerQuery k b.epoch reads shift { q with events := if b.replayed then q.events ||| evReplayed else q.events }

/-- The closes of streams whose aborted queries have ended count them. -/
def State.countAborted (s : State) (qs : List Cmd) : State :=
  (qs.filter (·.abort)).foldl (fun s q => match q.stream?.bind s.closeOf with
    | some k => s.setCmd { k with done := k.done + 1 }
    | none => s) s

/-- BATCH_COMPLETE (R308), of a batch that runs again not before the boundary of that run (R402): every query of the batch in flight, in admission order. `reads` is what the column reads meet, by vector index. -/
def batchComplete (p : Nat) (reads : List (Nat × Check)) (s : State) : State :=
  match mget s.batches p, s.corpus? p with
  | some b, some k =>
    if s.serving = false ∨ s.beat < b.start ∨ (s.scansNow p = false ∧ k.decks ≠ []) then s else
    let qs := b.cmds.filterMap s.cmd?
    let a := (qs.zip (List.range qs.length)).foldl (fun (a : State × List (Cmd × Result)) e =>
      let (s, q, r) := a.1.batchAnswer k b reads (e.2 * k.decks.length) e.1
      (s, a.2 ++ [(q, r)])) (s, [])
    let s := { a.1 with freeCtr := a.1.freeCtr + qs.length * k.decks.length + 1, batches := sdel a.1.batches p }
    let s := (s.completeAll a.2).countAborted qs
    s.setCorpus p { k with lastEnd := some (s.nextBoundary / s.beatNs) }
  | _, _ => s

/-! ## Meanings -/

/-- QUERY_SCAN (R305). -/
def execQueryScan (cmd : Nat) (s : State) : Host.Outcome State Fault Refusal := .next (query 0x10 cmd s)
/-- QUERY_RERANK (R307). -/
def execQueryRerank (cmd : Nat) (s : State) : Host.Outcome State Fault Refusal := .next (query 0x11 cmd s)
/-- BATCH_START (R308). -/
def execBatchStart (p : Fin 4) (s : State) : Host.Outcome State Fault Refusal := .next (batchStart p.val s)
/-- BATCH_COMPLETE (R308). -/
def execBatchComplete (p : BatchEnd) (s : State) : Host.Outcome State Fault Refusal := .next (batchComplete p.part.val p.reads s)
/-- CORPUS_EPOCH (R310). -/
def execCorpusEpoch (p : Fin 4) (s : State) : Host.Outcome State Fault Refusal := .next (corpusEpoch p.val s)
/-- CORPUS_MEASUREMENT (R424). -/
def execCorpusMeasurement (p : Fin 4) (s : State) : Host.Outcome State Fault Refusal := .next (corpusMeasurement p.val s)
/-- CORPUS_PROGRAM_NEW (R311). -/
def execCorpusProgramNew (cmd : Nat) (s : State) : Host.Outcome State Fault Refusal := .next (corpusProgramNew cmd s)
/-- CORPUS_PROGRAM_COMPACT (R313). -/
def execCorpusProgramCompact (cmd : Nat) (s : State) : Host.Outcome State Fault Refusal := .next (corpusProgramCompact cmd s)
/-- CORPUS_PROGRAM_ATTACH (R314). -/
def execCorpusProgramAttach (cmd : Nat) (s : State) : Host.Outcome State Fault Refusal := .next (corpusProgramAttach cmd s)
/-- CORPUS_DELETE_TOMB (R312). -/
def execCorpusDeleteTomb (cmd : Nat) (s : State) : Host.Outcome State Fault Refusal := .next (corpusDeleteTomb cmd s)
/-- CORPUS_DELETE_ERASE (R312). -/
def execCorpusDeleteErase (cmd : Nat) (s : State) : Host.Outcome State Fault Refusal := .next (corpusDeleteErase cmd s)
/-- MODEL_INSTALL (R120). -/
def execModelInstall (cmd : Nat) (s : State) : Host.Outcome State Fault Refusal := .next (modelInstall cmd s)

end Sys2Proof.Machine
end

