-- ==== Sys2Proof/Machine/Plans.lean ====
section
/-!
DEFINITION. Sys2Proof/Machine/Plans.lean: PLAN_LOAD: the checks of R235 in their order, and the load (R227-R238, R304, R321, R336).
-/
namespace Sys2Proof.Machine

/-! ## Step 2: the header (R227) -/

def zeroBytes (b : List Byte) (off n : Nat) : Bool := ((b.drop off).take n).all (· == 0)

def headerOk (b : List Byte) : Bool :=
  imgNum b 0 4 == 0x4E414C50 && imgNum b 4 2 == 1 && decide (1 ≤ planClass b) && decide (planClass b ≤ 6) && decide (imgNum b 7 1 < 2)
  && decide (planTask b < 4) && decide (imgNum b 9 1 < 16) && decide (1 ≤ planSections b) && decide (planSections b ≤ 16)
  && decide (512 ≤ planTotal b) && decide (planTotal b ≤ 0x1000000)
  && planSpadBase b % 256 == 0 && planSpadBound b % 256 == 0 && decide (planSpadBase b + planSpadBound b ≤ 0x80000)
  && decide (planDcmLo b ≤ planDcmHi b) && decide (planDcmHi b < 512) && decide (planStageLen b ≤ 0x4000000)
  && decide (1 ≤ planQdepth b) && decide (planQdepth b ≤ 64) && decide (1 ≤ planImemLen b) && decide (planImemBase b + planImemLen b ≤ 64)
  && zeroBytes b 0x4B 53 && zeroBytes b 0x180 96

/-! ## Step 3: sections (R228, R230) -/

/-- Types with a core map. -/
def perCore (typ : Nat) : Bool := decide (1 ≤ typ) && decide (typ ≤ 3)

/-- A section's length fits its form. -/
def sectionLen (typ len : Nat) : Bool :=
  match typ with
  | 4 => len % 4 == 0
  | 5 => len % 8 == 0
  | 6 => len == 512
  | 7 => len % 8 == 0 && decide (len ≤ 256)
  | 8 => len == 512
  | _ => decide (256 ≤ len)

/-- Blob table and blob offsets of a per-core section. -/
def blobsOk (b : List Byte) (typ : Nat) : Bool :=
  match planSection b typ with
  | none => true
  | some (off, len) =>
    let n := blobCount b off
    decide (256 + 4 * n ≤ len) && (List.range n).all fun i => decide (256 + 4 * n ≤ blobOffset b off i) && decide (blobOffset b off i < len)

/-- The plan has DCMs: a range other than 0 to 0 (log entry 95, DEDUCED). -/
def planHasDcms (b : List Byte) : Bool := planDcmLo b != 0 || planDcmHi b != 0

/-- DECKMAP entries (R230). -/
def planDecks (b : List Byte) : List Nat := flatEntries b 4 4
def dmCore (e : Nat) : Nat := bitsOf e 31 24
def dmDeck (e : Nat) : Nat := bitsOf e 23 16
def dmUse (e : Nat) : Nat := bitsOf e 5 4
def dmInt4 (e : Nat) : Bool := Nat.testBit e 6
/-- Device deck number of an entry. -/
def dmDevice (e : Nat) : Nat := 192 * dmCore e + dmDeck e

def deckmapOk (b : List Byte) : Bool :=
  let es := planDecks b
  (es.all fun e => decide (dmDeck e < 192) && decide (dmUse e ≠ 3) && bitsOf e 3 0 == 0 && Nat.testBit (planMask b) (dmCore e))
  && decide ((es.map dmDevice).eraseDups.length = es.length)

def sectionsOk (b : List Byte) : Bool :=
  let n := planSections b
  let used := (List.range n).map (dirEntry b)
  let has_ := fun t => (planSection b t).isSome
  (used.all fun e => decide (1 ≤ e.1) && decide (e.1 ≤ 8) && e.2.1 % 256 == 0 && decide (512 ≤ e.2.1) && decide (e.2.1 + e.2.2 ≤ planTotal b)
    && sectionLen e.1 e.2.2)
  && ((List.range n).all fun k => zeroBytes b (0x82 + 16 * k) 2 && zeroBytes b (0x8C + 16 * k) 4)
  && zeroBytes b (0x80 + 16 * n) (16 * (16 - n))
  && decide ((used.map (·.1)).eraseDups.length = n)
  && ((List.range n).all fun i => (List.range i).all fun j =>
      let x := (dirEntry b i).2
      let y := (dirEntry b j).2
      !(meet x.1 x.2 y.1 y.2))
  && has_ 1 && has_ 2 && has_ 6
  && (!(planHasDcms b || !(planDecks b).isEmpty) || has_ 5)
  && (!((planDecks b).any fun e => dmUse e == 0) || has_ 3)
  && blobsOk b 1 && blobsOk b 2 && blobsOk b 3 && deckmapOk b

/-! ## Steps 4 to 7 -/

/-- Step 4 (R16, R227). -/
def State.regionsOk (s : State) (b : List Byte) : Bool :=
  let cs := planCores b
  cs != [] && (planUses b).all s.active && cs.all fun c => decide (c < s.nCores) && (planUses b).contains (regionOf c)

/-- The handle entries of a core (R229). -/
def planHandles (b : List Byte) (core : Nat) : List DWord :=
  let h := (coreBlob b 2 core).getD []
  tabulate 64 fun i => BitVec.ofNat 64 (imgNum h (8 * i) 8)

/-- Step 5 (R215, R227). -/
def handlesOk (b : List Byte) : Bool :=
  (planCores b).all fun c =>
    decide (((coreBlob b 1 c).getD []).length ≤ 1024 * planImemLen b)
    && (planHandles b c).all fun h => !(bitAt h 63) || (tileOf h).inWindow (planSpadBound b)

/-- The RESERVES entry of a core: reserve of each tier, and the stand-in area (R231). -/
def planReserve (b : List Byte) (core : Nat) : Option (List Nat × Nat) :=
  ((flatEntries b 5 8).find? fun e => bitsOf e 63 56 == core).map fun e =>
    ([bitsOf e 28 20, bitsOf e 37 29, bitsOf e 46 38, bitsOf e 55 47], bitsOf e 19 11)

/-- Step 6 on one core (R231, R336). -/
def State.reserveOk (s : State) (b : List Byte) (core : Nat) : Bool :=
  match planReserve b core with
  | none => false
  | some (rs, st) =>
    let c := s.core core
    let lo := planDcmLo b
    let hi := planDcmHi b
    let held := c.standIn == some st
    (held || (decide (lo ≤ st) && decide (st + 3 ≤ hi))) && decide (st + 3 < 512)
    && (List.range 4).all fun t =>
        let r := rs.getD t 0
        (c.reserves.getD t none == some r || (decide (128 * t ≤ r) && decide (r < 128 * t + 128) && decide (lo ≤ r) && decide (r ≤ hi)))
        && !(c.consumed.contains r) && !(decide (st ≤ r) && decide (r ≤ st + 3))
        && !(planClass b == 4 && r == hi)
    && !(planClass b == 4 && decide (st ≤ hi) && decide (hi ≤ st + 3))

/-- Step 6: one entry for each core and for no other. -/
def State.reservesOk (s : State) (b : List Byte) : Bool :=
  match planSection b 5 with
  | none => true
  | some _ =>
    let es := flatEntries b 5 8
    decide (es.length = (planCores b).length) && (es.all fun e => bitsOf e 10 0 == 0 && Nat.testBit (planMask b) (bitsOf e 63 56))
    && (planCores b).all (s.reserveOk b)

/-- Step 7 (R234, R321). -/
def barriersOk (b : List Byte) : Bool :=
  ((List.range 16).all fun n => (planSection b 8).isNone || barrierMask b n &&& planMask b == barrierMask b n)
  && (planClass b != 4 || ((planSection b 8).isSome && barrierMask b 15 == planMask b))

/-! ## Step 8: conflicts (R201, R237, R238, R304) -/

/-- Layer images of a core (R163, R228). -/
def planLayer (b : List Byte) (core e : Nat) : Nat := imgNum ((coreBlob b 3 core).getD []) (8 * e) 8

/-- The task of a plan meets what one core holds. -/
def State.taskConflict (s : State) (b : List Byte) (part core : Nat) : Bool :=
  let c := s.core core
  let live := c.tasks.filter fun t => t.valid
  let t := planTask b
  (c.task t).valid
  || live.any (fun x => x.part == part && x.klass == planClass b)
  || live.any (fun x => meet x.imemBase x.imemLen (planImemBase b) (planImemLen b))
  || decide (64 < (live.map fun x => x.qdepth).sum + planQdepth b)
  || s.foreign core part (planSpadBase b) (planSpadBound b) [(planDcmLo b, planDcmHi b + 1 - planDcmLo b)]
  || (List.range 16).any fun e => leValid (planLayer b core e) && leValid (c.layerEntry e) && decide (leTask (c.layerEntry e) ≠ t)

/-- A reserve or stand-in area differs from those in force on a core. -/
def State.reserveConflict (s : State) (b : List Byte) (core : Nat) : Bool :=
  let c := s.core core
  match c.standIn, planReserve b core with
  | some st, some (rs, st') => st != st' || (List.range 4).any fun t => match c.reserves.getD t none with
    | some r => r != rs.getD t 0
    | none => false
  | _, _ => false

def State.planConflict (s : State) (b : List Byte) (part : Nat) : Bool :=
  (planCores b).any (fun c => s.taskConflict b part c || s.reserveConflict b c)
  || (planClass b == 3 && (s.corpus? part).isSome)

/-! ## Steps 9 and 10 (R95, R96, R230) -/

def State.deckmapState (s : State) (b : List Byte) : Bool :=
  (planDecks b).all fun e =>
    let d := s.deckOf (dmDevice e)
    if dmUse e = 1 then decide (d.state = .erased) || decide (d.state = .incomplete)
    else decide (d.state = .ready) && d.fmt4 == dmInt4 e

def State.deckmapOwned (s : State) (b : List Byte) (part : Nat) : Bool :=
  (planDecks b).all fun e => if dmUse e = 1 then ownerWrites (s.rights (dmDevice e)) part else ownerReads (s.rights (dmDevice e)) part

/-- The first failing step of R235 for a container that stands at a staging address: status and reason. -/
def State.planCheck (s : State) (b : List Byte) (part base : Nat) : Option (Nat × Nat) :=
  if shake256 32 (b.take 0x1E0 ++ List.replicate 32 0 ++ b.drop 0x200) ≠ planDigest b then some (stPlanInvalid, 1)
  else if headerOk b = false then some (stPlanInvalid, 2)
  else if sectionsOk b = false then some (stPlanInvalid, 3)
  else if s.regionsOk b = false then some (stPlanInvalid, 4)
  else if handlesOk b = false then some (stPlanInvalid, 5)
  else if s.reservesOk b = false then some (stPlanInvalid, 6)
  else if barriersOk b = false then some (stPlanInvalid, 7)
  else if s.planConflict b part then some (stPlanConflict, 0)
  else if s.deckmapState b = false then some (stDeckState, 0)
  else if s.deckmapOwned b part = false then some (stAccessDenied, 0)
  else if (s.stageWindow b base).isNone
      ∨ s.sramFits part (fun c => if Nat.testBit (planMask b) c ∧ planHasDcms b = true then [(planDcmLo b, planDcmHi b + 1 - planDcmLo b)] else []) = false
    then some (stQuotaExceeded, 0)
  else none

/-! ## The load (R236-R238) -/

/-- The task of a plan on a core. -/
def planTaskOf (b : List Byte) (n part stage core : Nat) : Task :=
  { Task.init with
    valid := true, plan := n, klass := planClass b, part := part, base := planSpadBase b, bound := planSpadBound b, dcmLo := planDcmLo b,
    dcmHi := planDcmHi b, stageBase := stage, stageLen := planStageLen b, qdepth := planQdepth b, imemBase := planImemBase b,
    imemLen := planImemLen b, handles := planHandles b core, tokens := List.replicate 64 0,
    deckMap := ((planDecks b).filter fun e => dmCore e == core).map (BitVec.ofNat 32) }

/-- The layer entries that a plan writes, and their static channels (R237). -/
def Core.loadLayers (c : Core) (b : List Byte) (core : Nat) : Core :=
  let blob := (coreBlob b 3 core).getD []
  (List.range 16).foldl (fun c e =>
    let v := planLayer b core e
    if leValid v = false then c else
    let o := cLayerTbl + 8 * e
    let c := (c.setReg o (setFld (BitVec.ofNat 32 v) 2 1 (planTask b))).setReg (o + 4) (BitVec.ofNat 32 (v / 2 ^ 32))
    (List.range 16).foldl (fun c k => c.setReg (cStaticSet + 64 * e + 4 * k) (BitVec.ofNat 32 (imgNum blob (128 + 64 * e + 4 * k) 4))) c) c

/-- Set the reserves and the stand-in area that are not in force, and fill new reserves with zeros (R188, R238). -/
def Core.loadReserves (c : Core) (b : List Byte) (core : Nat) : Core :=
  match planReserve b core with
  | none => c
  | some (rs, st) =>
    let c := (List.range 4).foldl (fun c t =>
      match c.reserves.getD t none with
      | some _ => c
      | none => { c.dcmStore (c.dcmView.clear (dcmAddr (rs.getD t 0) 0) 0x40000) with reserves := c.reserves.set t (some (rs.getD t 0)) }) c
    { c with standIn := some st }

/-- Load a checked plan, whose container stands at staging address base, as plan n. -/
def State.loadPlan (s : State) (b : List Byte) (n part stage base : Nat) : State :=
  let s := { s with plans := sins s.plans n { part := part, image := b, stageBase := stage, codeBase := base, chunks := 0 } }
  (planCores b).foldl (fun s k => s.modCore k fun c =>
    let c := ((c.loadLayers b k).loadReserves b k).setTask (planTask b) (planTaskOf b n part stage k)
    ({ c with imem := s.imemOf k c } : Core).setReg cCoreStatus (c.reg cCoreStatus &&& ~~~0x10#32)) s

/-- The container is moved into a free range of staging (R235), where its CODE section stays if the plan is loaded (R15). -/
def State.stageContainer (s : State) (base : Nat) (b : List Byte) : State := { s with staging := s.staging.write base b }

/-- PLAN_LOAD (R235, R236, R287): the load takes no time of its own, and a container for which staging has no free range exceeds the
quota (log entry 94, DEDUCED). -/
def planLoad (id : Nat) (s : State) : State :=
  match s.admitted id 0x30 with
  | none => s
  | some c =>
    if (s.port c.port).dmaOn = false then s else
    match s.hubStart c with
    | none => s
    | some s =>
      let len := c.par 0x20 4
      let a := c.par 0x18 8
      let h := (s.port c.port).host
      if len ≠ h.num (a + 0xC) 4 ∨ 0x1000000 < len then s.complete c { c.result stPlanInvalid 0 0 with reason := 2 }
      else
        let b := h.read a len
        match s.stageFree len with
        | none => s.complete c (c.result stQuotaExceeded 0 0)
        | some base =>
        let s := s.stageContainer base b
        match s.planCheck b c.part base, s.freeStream, s.stageWindow b base with
        | some (st, r), _, _ => s.complete c { c.result st 0 0 with reason := r }
        | none, some n, some stage =>
          let s := s.loadPlan b n c.part stage base
          let s := s.setStream n { Stream.init with state := .idle, kind := 3, part := c.part, plan := n, openBeat := s.beat,
                                                    prefill := 0xFFFF, stop := List.replicate 4 0xFFFFFFFF }
          s.complete c { c.result stSuccess n 0 with stream := n }
        | none, _, _ => s

/-- PLAN_LOAD (R235). -/
def execPlanLoad (cmd : Nat) (s : State) : Host.Outcome State Fault Refusal := .next (planLoad cmd s)

end Sys2Proof.Machine
end

