-- ==== Sys2Proof/Machine/Sleep.lean ====
section
/-!
DEFINITION. Sys2Proof/Machine/Sleep.lean: decks that a reset or a power loss cuts (R104, R376), power-up calibration (R153), and the
low-power states of regions and of the block (R439, R440).
-/
namespace Sys2Proof.Machine

/-! ## Programs and erases that end (R376) -/

/-- The host commands that program or erase decks of those regions end with a status. -/
def State.failDeckCmds (s : State) (on : Nat → Bool) (st : Nat) : State :=
  let hit := fun (c : Cmd) => c.decks.any fun d =>
    let x := s.deckOf d
    on (d / 12288) && (x.programs c.id || x.eraseCmd == some c.id)
  { s with cmds := s.cmds.map fun c => if hit c then { c with fail := some (c.fail.getD st) } else c }

/-- Tile commands that program or erase a deck of one core end: PROG with ARRAY_PROGRAM_FAIL in its task's record (log entry 98, DEDUCED). -/
def State.failTileJobs (s : State) (core : Nat) : State :=
  (s.core core).decks.foldl (fun (s : State) e =>
    let s := match e.2.job with
      | some j => match j.task with
        | some t => s.modTask core t fun tk =>
            j.words.foldl (fun (tk : Task) (w : Nat × CmdWord) => { tk.doneToken w.2 with err := tk.err.take w.2 (CErr.plain stProgramFail) s.beat }) tk
        | none => s
      | none => s
    match e.2.eraseToken with
    | some (t, n) => s.modTask core t fun tk => tk.incToken n
    | none => s) s

/-- Stacks of a core with a refresh to go on with. -/
def State.resumeRefresh (s : State) (on : Nat → Bool) : State :=
  ((s.cores.map (·.1)).filter fun n => on (regionOf n)).foldl (fun s n => (List.range 24).foldl (fun s st => s.serveRefreshIf n st) s) s

/-- VDD_HV_LOSS (R376): programs and erases stop; all else goes on. -/
def vddHvLoss (s : State) : State :=
  if s.dead then s else
  let on := fun (_ : Nat) => true
  let s := s.failDeckCmds on stProgramFail
  let s := (s.cores.map (·.1)).foldl State.failTileJobs s
  (s.cutAndCount on false).resumeRefresh on

/-! ## Calibration (R153) -/

/-- Steps 2 to 4 of R153 on one stack: trims at each V/F point, at its present temperature, and column trims of its READY decks. -/
def State.calibrateStack (s : State) (n : Nat) (c : Core) (st : Nat) : Core :=
  let x := (List.range 8).foldl (fun (x : Stack) v =>
    x.setTrim v { beat := s.beat, temp := s.stackTemp n st, resid := 0, seed := some s.freeCtr }) (c.stack st)
  let ready := (List.range 9).filter fun p => decide ((c.deck (9 * st + p)).state = .ready)
  c.setStack st { x with colTrims := ready.foldl (fun m p => sins m p s.freeCtr) x.colTrims }

/-- Every stack of the in-service regions of a predicate is calibrated. -/
def State.calibrate (s : State) (on : Nat → Bool) : State :=
  (((List.range s.nCores).filter fun n => on (regionOf n) && decide ((s.region (regionOf n)).service = .inService)).foldl (fun s n =>
    s.modCore n fun c => (List.range 24).foldl (s.calibrateStack n) c) s).tookFree

/-- Calibration with the failed bit-lines that it finds, as physical deck and bit-line (R117). -/
def State.calibrateFind (s : State) (on : Nat → Bool) (bad : List (Nat × Nat)) : State :=
  (bad.filter fun e => on (regionOf (e.1 / 216))).foldl (fun s e => s.patchLine e.1 e.2) (s.calibrate on)

/-! ## Regions without power (R439, R441) -/

/-- A core whose region loses VDD_CORE, and VDD_SRAM unless RETAIN keeps it. Arrays, repairs and deck positions stay. -/
def Core.powerDown (c : Core) (keep : Bool) : Core :=
  let x := c.regionClear
  let dcms := x.dcms.map fun e => (e.1, { e.2 with transient := 0 })
  { Core.init with
    dcm := if keep then c.dcm else [], parity := if keep then c.parity else [], retired := c.retired,
    dcms := (if keep then dcms else dcms.map fun e => (e.1, { e.2 with deadFrom := none })).filter fun e => e.2 ≠ Dcm.init, consumed := c.consumed, stk := x.stk,
    errLog := c.errLog, decks := (x.decks.map fun e => (e.1, { e.2 with standIn := false })).filter fun e => e.2 ≠ Deck.init }

/-- A region at its reset values, with a service state; its sensors read as before. -/
def State.restartRegion (s : State) (r : Nat) (v : Service) : State :=
  let x := s.region r
  s.setRegion r { Region.init with service := v, levels := x.levels, temp := x.temp, ctTemp := x.ctTemp }

def State.regionOff (s : State) (r : Nat) (retain : Bool) : State :=
  let s := s.cutAndCount (· == r) true
  let s := s.mapCores fun n c => if regionOf n = r then c.powerDown retain else c
  s.restartRegion r .dormant

/-- The exit: the sequence of a region reset without task reload. -/
def State.regionOn (s : State) (r : Nat) (badLines : List (Nat × Nat)) : State :=
  ((s.restartRegion r .inService).calibrateFind (· == r) badLines).command r 0

def pmWord (r : Nat) : Nat := rRegionPm + 4 * r

def hibState (s : State) : Nat := fld (s.hubWord rHibStatus) 1 0

/-- Nothing is admitted, and nothing waits to be written. -/
def State.drained (s : State) : Bool := s.cmds.isEmpty && s.ports.all fun x => x.queued.isEmpty

/-- Entries that have been accepted take effect once every admitted command has completed (R440). -/
def State.settleSleep (s : State) : State :=
  if s.sleepy = false ∨ s.drained = false then s else
  let s := ((List.range 4).filter fun r => decide ((s.region r).service = .entering)).foldl (fun s r =>
    s.regionOff r (bitAt (s.hubWord (pmWord r)) 1)) s
  if hibState s ≠ 1 then s else
  let s := ((List.range s.nRegions).filter fun r => decide ((s.region r).service ≠ .outOfService)).foldl (fun s r => s.regionOff r false) s.snapWear
  s.setHub rHibStatus 2

/-- The cases in which a dormant entry is refused (R440). -/
def State.dormantRefused (s : State) (r : Nat) : Bool :=
  (s.cores.any fun e => regionOf e.1 == r && (e.2.tasks.any (·.valid) || e.2.stk.any fun x => x.2.borrow || x.2.lending))
  || (s.corpora.any fun k => k.2.decks.any fun d => d.1 / 12288 == r)
  || decide (((List.range s.nRegions).filter fun q => decide ((s.region q).service = .inService)) = [r])

/-- A write of REGION_PM (R439, R440, R442). -/
def regionPmWrite (r : Nat) (v : Word) (s : State) : State :=
  if s.manageable = false ∨ s.nRegions ≤ r then s else
  let w := s.hubWord (pmWord r)
  let kept := s.setHub (pmWord r) (setFld w 1 1 (b2n (bitAt v 1)))
  if hibState s ≠ 0 then kept else
  match bitAt v 0, (s.region r).service with
  | true, .inService =>
    if s.dormantRefused r then s.setHub (pmWord r) (setFld w 16 16 1)
    else ((s.setHub (pmWord r) (v &&& 2 ||| 1)).setRegion r { s.region r with service := .entering }).settleSleep
  | true, _ => kept
  | false, .dormant => (s.setHub (pmWord r) (v &&& 2)).regionOn r []
  | false, .entering => (s.setHub (pmWord r) (v &&& 2)).setRegion r { s.region r with service := .inService }
  | false, _ => s.setHub (pmWord r) (setFld (setFld w 1 1 (b2n (bitAt v 1))) 0 0 0)

/-- A write of HIB_CTRL (R439, R440, R442). -/
def hibWrite (on : Bool) (s : State) : State :=
  if s.manageable = false then s else
  match on, hibState s with
  | true, 0 =>
    if s.streams.any fun e => decide (e.2.state ≠ .free) then s.setHub rHibStatus 4
    else ((s.setHub rHibCtrl 1).setHub rHibStatus 1).settleSleep
  | true, _ => s.settleSleep
  | false, 2 =>
    let s := ((List.range s.nRegions).filter fun r => decide ((s.region r).service = .dormant)).foldl (fun s r =>
      (s.setHub (pmWord r) (setFld (s.hubWord (pmWord r)) 0 0 0)).regionOn r []) s
    (s.setHub rHibCtrl 0).setHub rHibStatus 0
  | false, _ => (s.setHub rHibCtrl 0).setHub rHibStatus 0

/-! ## Meanings -/

/-- VDD_HV_LOSS (R376). -/
def execVddHvLoss (s : State) : Host.Outcome State Fault Refusal := .next (vddHvLoss s)
/-- REGION_DORMANT_ENTRY (R440): a write of REGION_PM with DORMANT = 1. -/
def execRegionDormantEntry (r : Fin 4) (v : Word) (s : State) : Host.Outcome State Fault Refusal := .next (regionPmWrite r.val (v ||| 1) s)
/-- REGION_DORMANT_EXIT (R439): a write of REGION_PM with DORMANT = 0. -/
def execRegionDormantExit (r : Fin 4) (v : Word) (s : State) : Host.Outcome State Fault Refusal := .next (regionPmWrite r.val (v &&& 0xFFFFFFFE) s)
/-- HIBERNATE_ENTRY (R440): a write of HIB_CTRL with HIBERNATE = 1. -/
def execHibernateEntry (s : State) : Host.Outcome State Fault Refusal := .next (hibWrite true s)
/-- HIBERNATE_EXIT (R439): a write of HIB_CTRL with HIBERNATE = 0. -/
def execHibernateExit (s : State) : Host.Outcome State Fault Refusal := .next (hibWrite false s)

end Sys2Proof.Machine
end

