-- ==== Sys2Proof/Machine/Beats.lean ====
section
/-!
DEFINITION. Sys2Proof/Machine/Beats.lean: the beat boundary (R31, R37, R40, R53, R254, R349, R373, R382, R386, R393), the start and the
end of a run in a region (R43, R46, R202).
-/
namespace Sys2Proof.Machine

/-! ## The end of a command by a status, and the deadline test at a boundary (R53, R373) -/

/-- A STREAM_CLOSE that misses its deadline leaves its stream open; what was lost stays lost (R290, R302). -/
def State.reopen (s : State) (n : Nat) : State :=
  let x := s.stream n
  let lost := decide (x.state = .failed) || (x.kind == 0 && x.slot.isNone && x.pending.isSome)
  s.setStream n { x with state := if lost then .failed else if (s.closeOf n).isSome then .closing else if 0 < x.inflight then .active else .idle,
                         abort := false }

/-- A run ends with its command. -/
def State.endRunOf (s : State) (c : Cmd) (st : Nat) : State :=
  match s.runOf c with
  | some (n, p, r) => s.failRun n p { (s.foldGrades p r) with fail := some st } (st, 0, 0, 0)
  | none => s.complete c (c.result st 0 0)

/-- A command that ends by itself, and not in the course of its work, completes with a status; what it has finished stays finished. A query
completes after those of its stream that were admitted before it (R291). -/
def State.endCmd (s : State) (c : Cmd) (st : Nat) : State :=
  if c.isQuery && s.cmds.any (fun e => e.isQuery && e.named == c.named && decide (e.id < c.id)) then s.setCmd { c with fail := some st }
  else match c.op with
  | 0x02 => s.endGen { c with joined := 0 } st 3
  | 0x03 => s.endGen { c with joined := 0 } st 3
  | 0x04 => (s.complete c (c.result st c.done 0)).reopen c.named
  | 0x20 => s.failProgram c st
  | 0x21 =>
    let s := s.complete c (c.result st (if c.phase = .finished then c.done else 0) 0)
    match s.corpus? c.part with
    | some k => s.setCorpus c.part { k with changes := k.changes.filter fun e => e.cmd != c.id }
    | none => s
  | 0x22 => (s.dropPrograms c).complete c (c.result st (s.readyCount c) 0)
  | 0x31 => s.endRunOf c st
  | 0x32 => s.endRunOf c st
  | _ => s.complete c (c.result st 0 0)

/-- Every admitted command is tested, in admission order. -/
def State.testDeadlines (s : State) : State :=
  (s.cmds.map (·.id)).foldl (fun s id => match s.cmd? id with
    | some c => if s.late c then s.endCmd c stDeadline else s
    | none => s) s

/-! ## The boundary -/

/-- Slewing in one beat: at most 200 ppm of it (R31). -/
def State.slewStep (s : State) : State :=
  let m : Int := (s.beatNs / 5000 : Nat)
  let x := s.time.slew
  { s with time := { s.time with slew := if x < -m then x + m else if m < x then x - m else 0 } }

/-- CADENCE of a port in the beat that begins; 0 and 17-31 act as 4 (R349). -/
def Port.takeCadence (x : Port) : Port :=
  let v := fld x.pollCtrl 4 0
  { x with cadence := if 1 ≤ v ∧ v ≤ 16 then v else 4 }

/-- A PHASE tag that waited takes effect (R254). -/
def Task.takePhase (t : Task) : Task := match t.phaseNext with
  | some v => { t with phaseTag := v, phaseNext := none }
  | none => t

/-- Cirque's prediction of the beat that begins, with which its measurement is compared (R386). -/
def State.predictBeat (s : State) : State :=
  ((List.range 4).filter s.active).foldl (fun s r => s.setRegion r { s.region r with predicted := s.predictRegion s.beat r }) s

/-- A waiting write of TIME_CTRL that is no source change; a source change is its own event (R37). -/
def State.takeTimeCtrl (s : State) : State :=
  match s.time.ctrlPending with
  | some v => if isSourceChange (s.hubWord rTimeCtrl) (timeCtrlNew (s.hubWord rTimeCtrl) v) then s else s.applyTimeCtrl
  | none => s

/-- What takes effect at a boundary, in this order. -/
def State.atBoundary (s : State) : State :=
  let s := (s.slewStep.takeTimeCtrl).applyPwrCfg
  let s := { s with ports := s.ports.map Port.takeCadence }
  let s := s.mapCores fun _ c => { c with tasks := c.tasks.map Task.takePhase }
  let s := s.setLevels.predictBeat
  let s := if s.braked then s.hubInc rBrakeBeats 1 else s
  (if s.serving then s.testDeadlines else s).settleSleep

/-- BEAT_BOUNDARY (R40): the next beat begins. -/
def beatBoundary (s : State) : State := if s.dead then s else (s.advanceTo ((s.beat + 1) * s.beatNs)).atBoundary

/-! ## Runs of a region (R43, R46, R202) -/

/-- The loaded plan's task that a run executes on a core: its class and partition match. -/
def Core.runTask (c : Core) (run : RegionRun) : Option Nat :=
  (List.range 4).find? fun t => (c.task t).valid && !(c.task t).isService && (c.task t).klass == run.klass && (c.task t).part == run.part

/-- The core at the start of a run: its engines count from the run's first cycle, and the sequencer takes the matching task or is gated. -/
def Core.enterRun (c : Core) (run : RegionRun) : Core :=
  match c.runTask run with
  | some t => { c.settled with seqTask := t, seqOn := true }
  | none => { c.settled with seqOn := false }

/-- TASK_SWITCH (R202): the run that slot `slot` begins starts, in the current beat or the next. -/
def taskSwitch (r slot : Nat) (s : State) : State :=
  if s.serving = false ∨ (s.region r).run.isSome ∨ s.active r = false then s else
  let b := if s.time.now ≤ s.slotStart s.beat slot then s.beat else s.beat + 1
  let s := s.advanceTo (s.slotStart b slot)
  let run := s.runAt b slot r
  if run.first ≠ slot then s else
  (s.setRegion r { s.region r with run := some run }).mapCores fun n c => if regionOf n = r then c.enterRun run else c

/-- A sequencer that waits in WFI goes on at the end of the run (R203; log entry 65, DESIGN CHOICE). -/
def Task.wake (t : Task) : Task := if t.seq = .wfi then { t with seq := .running } else t

/-- Cycles in which a run's owner stood at a fence that is still not met (R217). -/
def Core.fenceStop (c : Core) (run : RegionRun) : Core :=
  match c.runTask run with
  | none => c
  | some k =>
    let t := c.task k
    match t.queue with
    | w :: _ =>
      let from_ := max c.clock (max t.headFrom (t.pushAt.headD 0))
      if c.fenceAt k w run.budget then c else c.inc cFenceWait (run.budget - from_)
    | [] => c

/-- The core at the end of a run: its operations have ended, and a sequencer in WFI goes on. -/
def Core.leaveRun (c : Core) (run : RegionRun) : Core :=
  let c := (c.fenceStop run).settled
  { c with seqOn := false, tasks := c.tasks.map Task.wake }

/-- RUN_END (R46): `late` is by how many cycles the completing operations delay the next owner beyond the guard band, `guardLeft` the guard
left unused. -/
def runEnd (r late guardLeft : Nat) (s : State) : State :=
  match (s.region r).run with
  | none => s
  | some run =>
    if s.dead then s else
    let s := s.advanceTo (s.slotStart run.beat (run.first + run.slots))
    let s := s.setRegion r { s.region r with run := none }
    let s := s.mapCores fun n c => if regionOf n = r then c.leaveRun run else c
    let s := s.setHub rGuardLow (BitVec.ofNat 32 (min (s.hubWord rGuardLow).toNat guardLeft))
    if late = 0 then s else (s.hubInc rOverrunCount 1).faultEvent 1 r 1

/-! ## Meanings -/

/-- BEAT_BOUNDARY (R40). -/
def execBeatBoundary (s : State) : Host.Outcome State Fault Refusal := .next (beatBoundary s)
/-- TASK_SWITCH (R202). -/
def execTaskSwitch (r : Fin 4) (slot : Fin 8) (s : State) : Host.Outcome State Fault Refusal := .next (taskSwitch r.val slot.val s)
/-- RUN_END (R46). -/
def execRunEnd (r : Fin 4) (late guardLeft : Nat) (s : State) : Host.Outcome State Fault Refusal := .next (runEnd r.val late guardLeft s)

end Sys2Proof.Machine
end

