-- ==== Sys2Proof/Machine/Ports.lean ====
section
/-!
DEFINITION. Sys2Proof/Machine/Ports.lean: what happens to a port: its reset and readiness (R344, R437), bus mastering (R343), D3hot and
L1 (R341, R439), failed reads (R343) and AtomicOps (R342).
-/
namespace Sys2Proof.Machine

/-- A function answers memory requests: it is present and ready with its link up, and there is power. -/
def State.reachable (s : State) (p : Nat) : Bool := !s.latches.tripped && (s.port p).present && (s.port p).linkUp && (s.port p).ready

/-- A configuration write reaches the function. -/
def State.answers (s : State) (p : Nat) : Bool := !s.dead && (s.port p).present && (s.port p).linkUp && (s.port p).ready

def busMasterEnable (p : Nat) (on : Bool) (s : State) : State :=
  if s.answers p = false then s else (s.setPort p { s.port p with busMaster := on }).flushPort p

/-- A write of D3hot to PMCSR stops the port's polls and DMA; after a write of D0 they resume at its next poll (R439). -/
def d3hot (p : Nat) (enter : Bool) (s : State) : State :=
  let x := s.port p
  if s.answers p = false then s else s.setPort p { x with d3hot := enter, resuming := !enter && (x.d3hot || x.resuming) }

/-- ASPM_L1: only the link's state changes (R439). -/
def aspmL1 (p : Nat) (enter : Bool) (s : State) : State :=
  if s.answers p = false then s else s.setPort p { s.port p with l1 := enter }

/-- ATOMICOP_REQUEST (R342). -/
def atomicopRequest (p : Nat) (s : State) : State :=
  if s.reachable p = false then s
  else (s.setPort p { s.port p with l1 := false }).emit (.unsupportedRequest p)

/-- The latency tolerance in ns that the port reports, snoop and no-snoop alike: half the poll interval while a ring is enabled, else no
requirement (R341). -/
def State.ltr (s : State) (p : Nat) : Option Nat :=
  if (List.range 64).any fun n => bitAt ((s.port p).sq n).cfg 31 then some (s.beatNs / (2 * (s.port p).cadence)) else none

/-! ## Port reset and FLR (R437) -/

/-- A port after its reset: setup registers at their reset values; READY_BEAT keeps the beat in which DEVICE_READY, which stays, set
(R345, R349; log entry 97, DEDUCED). What the host holds, and its error log, are not the port's setup. An FLR keeps the link up. -/
def Port.afterReset (x : Port) (keepLink : Bool) : Port :=
  { Port.init with present := x.present, linkUp := keepLink && x.linkUp, readyBeat := x.readyBeat, host := x.host, aer := x.aer }

/-- One admitted command of a port that resets: ABORTED, with nothing more written to the host; its completion place is gone. -/
def State.cutCmd (s : State) (id : Nat) : State :=
  match s.cmd? id with
  | none => s
  | some c =>
    let c := { c with abort := true, discard := true }
    let s := s.setCmd c
    if s.inStepOrBatch c then s else s.endCmd c stAborted

/-- A port reset or FLR. The PTM port's reset is a loss of its reference (R32). -/
def State.resetPort (s : State) (p : Nat) (keepLink : Bool) : State :=
  let lost := decide (s.timeSource = 2) && decide (s.ptmPort = p)
  let s := s.setPort p ((s.port p).afterReset keepLink)
  let s := if lost then { s with time := { s.time with bad := max 4 s.time.bad, good := 0 } } else s
  ((s.cmds.filter fun c => c.port == p).map (·.id)).foldl State.cutCmd s

/-- PORT_RESET and FLR; an FLR reaches the function over its link. -/
def portReset (p : Nat) (s : State) : State :=
  if s.dead ∨ (s.port p).present = false then s else s.resetPort p false
def flr (p : Nat) (s : State) : State :=
  if s.answers p = false then s else s.resetPort p true

/-- PORT_READY (R344): the link is trained, the function answers, and DRS goes out. -/
def portReady (p : Nat) (s : State) : State :=
  let x := s.port p
  if s.dead ∨ x.present = false ∨ x.ready then s else (s.setPort p { x with linkUp := true, ready := true }).emit (.drs p)

/-! ## Failed reads (R343) -/

/-- The command reads the host's memory: parameters, tokens, vectors, a package, a container or a batch. -/
def Cmd.readsHost (c : Cmd) : Bool :=
  match c.op with
  | 0x02 => true
  | 0x03 => decide (c.phase = .waiting) && c.par 0x28 8 != 0
  | 0x10 => decide (c.phase = .waiting)
  | 0x11 => decide (c.phase = .waiting)
  | 0x20 => decide (c.phase ≠ .finished)
  | 0x21 => decide (c.phase = .waiting)
  | 0x22 => decide (c.phase ≠ .finished)
  | 0x30 => true
  | 0x32 => decide (c.phase = .waiting) && c.par 0x28 4 != 0
  | 0x40 => true
  | _ => false

/-- HOST_DMA_ERROR: the failed read's command ends, and the port logs the error. -/
def hostDmaError (p id : Nat) (s : State) : State :=
  match (s.cmd? id).filter fun c => c.port == p && c.readsHost with
  | none => s
  | some c => if s.serving = false then s else (s.endCmd c stHostDmaError).aerOn [p] false

/-! ## Meanings -/

/-- BUS_MASTER_ENABLE (R343). -/
def execBusMasterEnable (p : Fin 4) (on : Bool) (s : State) : Host.Outcome State Fault Refusal := .next (busMasterEnable p.val on s)
/-- D3HOT_ENTRY (R439). -/
def execD3hotEntry (p : Fin 4) (s : State) : Host.Outcome State Fault Refusal := .next (d3hot p.val true s)
/-- D3HOT_EXIT (R439). -/
def execD3hotExit (p : Fin 4) (s : State) : Host.Outcome State Fault Refusal := .next (d3hot p.val false s)
/-- ASPM_L1 (R341). -/
def execAspmL1 (p : Fin 4) (enter : Bool) (s : State) : Host.Outcome State Fault Refusal := .next (aspmL1 p.val enter s)
/-- ATOMICOP_REQUEST (R342). -/
def execAtomicopRequest (p : Fin 4) (s : State) : Host.Outcome State Fault Refusal := .next (atomicopRequest p.val s)
/-- PORT_RESET (R437): PERST, hot reset and link down act alike. -/
def execPortReset (p : Fin 4) (_cause : PortResetCause) (s : State) : Host.Outcome State Fault Refusal := .next (portReset p.val s)
/-- FLR (R437). -/
def execFlr (p : Fin 4) (s : State) : Host.Outcome State Fault Refusal := .next (flr p.val s)
/-- PORT_READY (R344). -/
def execPortReady (p : Fin 4) (s : State) : Host.Outcome State Fault Refusal := .next (portReady p.val s)
/-- HOST_DMA_ERROR (R343): every kind of failure acts alike. -/
def execHostDmaError (p : Fin 4) (cmd : Nat) (_kind : DmaError) (s : State) : Host.Outcome State Fault Refusal := .next (hostDmaError p.val cmd s)

end Sys2Proof.Machine
end

