-- ==== Sys2Proof/Machine/Resets.lean ====
section
/-!
DEFINITION. Sys2Proof/Machine/Resets.lean: power-on, device reset, region reset and what each keeps (R437-R441), DEVICE_READY (R345), and
the messages that reset the block (R420, R426, R432).
-/
namespace Sys2Proof.Machine

/-! ## Core maps at a start (R18, R20, R21, R409) -/

/-- A physical core that fails self-test is marked unusable in the repair map (R409). -/
def State.failPhys (s : State) (p : Nat) : State :=
  if 68 * s.nRegions ≤ p ∨ (s.physCore p).state = .unusable then s else s.selftestFail (p / 68) 0 (p % 68) 0 0

/-- The blocks that fail a slice with an address are marked, and the registers give the first one (R409). -/
def State.failBlocks (s : State) (l : List BadBlock) : State :=
  let s := match l.head? with
    | some b => s.recordFail b.fail
    | none => s
  (l.filter fun b => decide (b.region < s.nRegions)).foldl (fun s b => s.selftestFail b.region b.kind b.unit b.slice b.fail.da) s

/-- Bind a logical core whose physical core cannot be used to the lowest free spare. -/
def State.bindCore (s : State) (core : Nat) : State :=
  if (s.physOf core).any fun p => decide ((s.physCore p).state = .good) then s else
  match s.freeSpare (regionOf core) with
  | some q => { s with coreMap := sput none s.coreMap core (some (some q)) }.addRepair (regionOf core)
      (repairRecord 1 (regionOf core) (q % 68) 0 0 0 (core % 64) 8 s.beat)
  | none => { s with coreMap := sput none s.coreMap core (some none) }

/-- The region may serve: every logical core is bound, and no record calls it unusable (R21, R410). -/
def State.regionUsable (s : State) (r : Nat) : Bool :=
  decide (r < s.nRegions) && ((List.range 64).all fun c => (s.physOf (64 * r + c)).isSome)
  && !((s.config.repairs.getD r []).any fun x => x.headD 0 == 9)

/-- Self-test and core maps: each region comes into service, or stays out. -/
def State.startRegions (s : State) (failed : List Nat) (blocks : List BadBlock) : State :=
  let s := (List.range s.nCores).foldl State.bindCore ((failed.foldl State.failPhys s).failBlocks blocks)
  (List.range 4).foldl (fun s r => s.restartRegion r (if s.regionUsable r then .inService else .outOfService)) s

/-! ## Repairs at power-on (R410, R441) -/

/-- One record of the map in force, on cores, DCMs and converters that carry no repair. -/
def State.applyRepair (s : State) (b : Repair) : State :=
  let n := fun (o k : Nat) => imgNum b o k
  let r := n 1 1
  let core := 64 * r + n 2 1
  let c := s.core core
  match n 0 1 with
  | 1 =>
    let l := 64 * r + n 8 2
    let s := match s.physOf l with
      | some p => if p = 68 * r + n 2 1 then s else s.setPhys p { s.physCore p with state := .retired }
      | none => s
    { s with coreMap := sput none s.coreMap l (some (some (68 * r + n 2 1))) }
  | 2 => s.setPhys (68 * r + n 2 1) { s.physCore (68 * r + n 2 1) with state := .unusable }
  | 3 =>
    match (List.range 576).find? fun l => dcmTier l == n 3 1 && !(c.dcmInfo l).gone && c.dcmPos l == n 4 2 with
    | some l =>
      if n 10 1 ≠ 14 then s.setCore core (c.failDcm l) else
      let c' := c.setDcmInfo l { c.dcmInfo (n 8 2) with position := some (c.dcmPos (n 8 2)) }
      s.setCore core { (c'.setDcmInfo (n 8 2) { Dcm.init with gone := true }) with consumed := c'.consumed ++ [n 8 2] }
    | none => s
  | 4 =>
    match (List.range 576).find? fun l => dcmTier l == n 3 1 && !(c.dcmInfo l).gone && c.dcmPos l == n 4 2 with
    | some l => s.setCore core (c.setDcmInfo l { c.dcmInfo l with spareColumns := (c.dcmInfo l).spareColumns + 1 })
    | none => s
  | 5 =>
    let p := 68 * r + n 2 1
    let x := s.physCore p
    s.setPhys p { x with spareRows := sput 0 x.spareRows (n 3 1) (sget 0 x.spareRows (n 3 1) + 1) }
  | 8 =>
    if n 8 2 = n 3 1 ^^^ 1 then
      s.setCore core ((c.setStack (n 3 1) { c.stack (n 3 1) with borrow := true, lender := n 8 2 }).setStack (n 8 2)
        { c.stack (n 8 2) with lending := true })
    else s.setCore core (c.setStack (n 3 1) { c.stack (n 3 1) with bankLost := true })
  | _ => s

/-- A region whose soft map is full loses the repairs that the map does not hold, and one whose map is lost loses every repair made in the field
(R30): those that the map holds are made again. -/
def State.replayRepairs (s : State) (lost : List Nat) (r : Nat) : State :=
  let l := s.config.repairs.getD r []
  if l.length < 2048 ∧ lost.contains r = false then s else
  let s := { s with coreMap := s.coreMap.filter fun e => e.1 / 64 ≠ r, phys := s.phys.filter fun e => e.1 / 68 ≠ r }
  let s := s.mapCores fun n c =>
    if regionOf n = r then
      { c with dcms := [], consumed := [],
               stk := (c.stk.map fun e => (e.1, { e.2 with borrow := false, lending := false, lender := 0 })).filter fun e => e.2 ≠ Stack.init }
    else c
  l.foldl State.applyRepair s

/-! ## Power-on and device reset (R437, R441) -/

/-- A core after a power-on or a device reset: arrays, wear, repairs and deck positions stay. Beat numbers start anew: the read-verify
of a deck is due after a power-on, and counts its period from a device reset (R113, R116; log entry 115, DEDUCED). -/
def Core.restart (c : Core) (power : Bool) : Core :=
  let x := c.powerDown false
  { x with decks := (x.decks.map fun e => (e.1, { e.2 with refreshDue := false, verifiedAt := if power then none else e.2.verifiedAt.map fun _ => 0 })).filter
             fun e => e.2 ≠ Deck.init }

/-- A port's registers after a device reset; link and configuration space stay. -/
def Port.restart (x : Port) : Port :=
  { Port.init with present := x.present, linkUp := x.linkUp, ready := x.ready, busMaster := x.busMaster, d3hot := x.d3hot, l1 := x.l1, host := x.host, aer := x.aer }

/-- Registers that only a power-on resets: RWS, INJ_LOCK, and the LOCK of TAMPER_CFG (R10, R413, R430). -/
def stickyHub (off : Nat) : Bool :=
  off == rFltSticky || off == rTamperCause || off == rResetCause || off == rInjLock || off == rTamperCfg

/-- What a power-on and a device reset take alike: every command, stream, plan, task, counter and setting that is not stored. -/
def State.clearAll (s : State) (power : Bool) : State :=
  let s := (s.cutDecks (fun _ => true) true).mapCores fun _ c => c.restart power
  { s with
    boot := { Boot.init with lcEnable := s.boot.lcEnable, strapBif := s.boot.strapBif, strapPart := s.boot.strapPart },
    time := TimeBase.init, overloadBeat := [], cmds := [], streams := [], slots := [], plans := [], runs := [], barriers := [],
    corpora := [], batches := [], staging := [],
    phys := (s.phys.map fun e => (e.1, { e.2 with range := 0, passes := 0, walkUntil := 0, period := 0, logicSlices := 0, memSlices := 0 })).filter fun e => e.2 ≠ Phys.init, snaps := [], adoptions := [], retireDue := [], ownerPending := [], faults := [],
    ports := s.ports.map Port.restart, mgmt := { Mgmt.init with sideband := s.mgmt.sideband },
    power := { Power.init with brake := s.power.brake, hubTemp := s.power.hubTemp },
    latches := { s.latches with l3 := false, aliveAt := none } }

/-- Stored settings, the table and the frame come into force (R30, R38, R51, R340, R394, R436). -/
def State.readConfig (s : State) : State :=
  let src := if s.config.timeSource = 3 then 0 else s.config.timeSource
  let s := s.setHub rTimeCtrl (setFld (hubReset rTimeCtrl) 1 0 src)
  let s := { s with time := { s.time with lock := if src = 0 then .free else .acquiring },
                    parts := { (s.config.partTable.getD (strapTable s.grade s.boot.strapBif s.boot.strapPart)) with commit := none } }
  let s := s.setHub rPwrCfg (s.config.pwrCfg.getD (hubReset rPwrCfg))
  let s := s.setHub rThermCfg (s.config.thermCfg.getD (hubReset rThermCfg))
  let s := (s.setHub rTamperCfg (s.config.tamperCfg.getD (hubReset rTamperCfg) ||| (s.hubWord rTamperCfg &&& 0x80000000))).stageFrom
  let (s, bad) := s.startFrame
  if bad then s.reportOnly 25 0 1 else s

/-- The first calibration of a region stores its baselines (R30). -/
def State.takeBaselines (s : State) : State :=
  ((List.range s.nRegions).filter fun r => decide ((s.region r).service = .inService) && (mget s.config.baselines r).isNone).foldl (fun s r =>
    { s with config := ({ s.config with baselines := sins s.config.baselines r s.freeCtr } : Config).put (.baselines r s.freeCtr) }) s

/-- Every region in service is commanded to VF0. -/
def State.startPoints (s : State) : State :=
  ((List.range 4).filter fun r => decide ((s.region r).service = .inService)).foldl (fun s r => s.command r 0) s

/-- The start-up: the boot ROM, then configuration, self-test and calibration; after a failed boot the block stays in recovery (R417). -/
def State.startUp (s : State) (up : StartUp) : State :=
  let s := s.readConfig.bootRom up
  if s.boot.phase = .booted then (((s.startRegions up.failed up.blocks).takeBaselines).calibrateFind (fun _ => true) up.badLines).startPoints else s

/-- A deck whose own wear count cannot be read takes the snapshot value plus 1 (R106). -/
def State.loseWear (s : State) (i : Nat) : State :=
  if 216 * s.nCores ≤ i then s else s.setDeck i ((s.deck i).setWear (sget 0 s.config.wear i + 1))

/-- POWER_ON: power good (R377); the straps and LC_ENABLE are sampled, the configuration stacks are read (R30), and the decks scanned (R104). -/
def powerOn (ports part : BitVec 2) (lc : Bool) (up : StartUp) (s : State) : State :=
  let (cfg, lost) := s.config.readStacks up.badCopies
  let s : State := up.wearLost.foldl State.loseWear { s.cutUpdate with config := cfg }
  let suspects := s.suspectPages (fun _ => true) true
  let s := s.clearAll true
  let present := portsPresent ports
  let s := { s with
    hub := [], verm := Vermilion.init, mgmt := Mgmt.init, power := Power.init,
    latches := { tripped := false, l3 := false, fltAlive := false, aliveAt := none },
    boot := { Boot.init with lcEnable := lc, strapBif := ports, strapPart := part },
    ports := s.ports.mapIdx fun n (x : Port) => { Port.init with present := present.contains n, host := x.host } }
  let s := s.hubInc rSuspectPage suspects
  let s := if lost.isEmpty then s else s.reportOnly 25 0 1
  ((List.range s.nRegions).foldl (fun (s : State) r => s.replayRepairs lost r) s).startUp up

/-- Bits of RESET_CAUSE (R442). -/
def causeBit : ResetCause → Nat
  | .ana => 0
  | .message => 1
  | .fwActivate => 2
  | .lc => 3

/-- A device reset. -/
def State.resetDevice (s : State) (cause : ResetCause) (up : StartUp) : State :=
  let s := s.cutUpdate
  let suspects := s.suspectPages (fun _ => true) true
  let s := s.clearAll false
  let s := { s with hub := s.hub.filter fun e => stickyHub e.1 }.hubInc rSuspectPage suspects
  (s.hubOr rResetCause (BitVec.ofNat 32 (2 ^ causeBit cause))).startUp up

/-- DEVICE_RESET: after a trip no reset but power-on acts (R392). -/
def deviceReset (cause : ResetCause) (up : StartUp) (s : State) : State :=
  if s.latches.tripped ∨ s.boot.phase = .start then s else s.resetDevice cause up

/-- DEVICE_READY (R345): the first fuse of R418 is blown 10 ms later. -/
def deviceReady (s : State) : State :=
  if s.dead ∨ s.boot.phase ≠ .booted then s else
  let s := { s with boot := { s.boot with phase := .ready }, time := { s.time with lenLocked := true },
                    mgmt := { s.mgmt with lastFuse := s.time.now } }
  let ps := (List.range 4).filter fun p => (s.port p).present
  let s := ps.foldl (fun s p => s.setPort p { s.port p with readyBeat := s.beat }) s
  s.portEvents ps 0

/-! ## Region reset (R437) -/

/-- The tasks of a core, loaded again from the plans held in staging; the scan service's task starts afresh (R236, R304). -/
def State.reloadCore (s : State) (n : Nat) : State :=
  s.modCore n fun c =>
    let tasks := c.tasks.map fun t =>
      if t.valid = false then t
      else match s.plan? t.plan with
        | some p => planTaskOf p.image t.plan p.part p.stageBase n
        | none => { t with queue := [], seq := .idle }
    let c := { c with tasks := tasks }
    { c with imem := s.imemOf n c }

/-- SRAM contents of a core are lost: its DCMs read as after their first load, its stand-in area is empty, no rebuild goes on. -/
def Core.loseSram (c : Core) : Core :=
  { c with dcm := [], parity := [], dcms := (c.dcms.map fun e => (e.1, { e.2 with deadFrom := none })).filter fun e => e.2 ≠ Dcm.init,
           rebuild := none, standInDeck := none, decks := (c.decks.map fun e => (e.1, { e.2 with standIn := false })).filter fun e => e.2 ≠ Deck.init }

/-- Streams whose state lay in the SRAM of a region: bound generation streams and training streams of plans that use it (R290, R441). -/
def State.streamsIn (s : State) (r : Nat) : List Nat :=
  (s.streams.filter fun e => match s.plan? e.2.plan with
    | some p => Nat.testBit (planRegions p.image) r && ((e.2.kind == 0 && e.2.slot.isSome) || e.2.kind == 2)
    | none => false).map (·.1)

def State.resetRegion (s : State) (r : Nat) (lost : Bool) (find : RegionFind) : State :=
  let s := (s.failRegionRuns r stRegionReset).failRegionCmds r stRegionReset
  let s := s.cutAndCount (· == r) true
  let s := s.mapCores fun n c => if regionOf n = r then (if lost then c.regionClear.loseSram else c.regionClear) else c
  let s := if lost then (s.streamsIn r).foldl State.failStream s else s
  let s := ((find.failed.filter fun p => p / 68 == r).foldl State.failPhys s).failBlocks (find.blocks.filter fun b => b.region == r)
  let s := ((List.range 64).map (64 * r + ·)).foldl State.bindCore s
  let s := s.hubOr rResetCause (BitVec.ofNat 32 (2 ^ (4 + r)))
  let s := if (s.region r).service = .entering then s.setHub (pmWord r) (s.hubWord (pmWord r) &&& 2) else s
  let s := (((s.cores.map (·.1)).filter fun n => regionOf n == r).foldl State.reloadCore s).severeEnd 22 r
  if s.regionUsable r then (s.regionOn r find.badLines).resumeRefresh (· == r) else s.regionOut r

/-- REGION_RESET: of a region with power and in service, or entering a dormant state. -/
def regionReset (r : Nat) (lost : Bool) (find : RegionFind) (s : State) : State :=
  if s.serving = false ∨ s.nRegions ≤ r ∨ ((s.region r).service ≠ .inService ∧ (s.region r).service ≠ .entering) then s
  else s.resetRegion r lost find

/-! ## Messages that reset the block -/

/-- DEVICE_RESET as a message (R432): also the exit from L3. -/
def deviceResetMessage (up : StartUp) (s : State) : State :=
  if s.managed = false then s else (s.answer ccSuccess []).resetDevice .message up

/-- ACTIVATE_FIRMWARE (R420): the last step of an update. -/
def activateFirmware (up : StartUp) (s : State) : State :=
  if s.latches.tripped ∨ s.boot.phase = .start ∨ s.mgmt.update ≠ .applied then s else (s.emit (.update 4 0)).resetDevice .fwActivate up

/-- Allowed transitions (R425). -/
def lifeAllowed : LifeCycle → LifeCycle → Bool
  | .blank, .provisioned => true
  | .blank, .scrapped => true
  | .provisioned, .deployed => true
  | .provisioned, .rma => true
  | .provisioned, .scrapped => true
  | .deployed, .rma => true
  | .deployed, .scrapped => true
  | .rma, .scrapped => true
  | _, _ => false

/-- Every deck that is not RETIRED is ERASED. -/
def State.allErased (s : State) : Bool :=
  s.cores.all fun e => e.2.decks.all fun d => decide (d.2.state = .erased) || decide (d.2.state = .retired)

/-- The new life-cycle state, with the secret that PROVISIONED generates (R421); every install key is cleared. -/
def State.lcMove (s : State) (target : LifeCycle) : State :=
  { s with verm := Vermilion.init, freeCtr := s.freeCtr + 1,
           fuses := { s.fuses with life := target, secret := if target = .provisioned then Config.entropy s.freeCtr else s.fuses.secret } }

/-- LC_TRANSITION (R426). -/
def lcTransition (target : LifeCycle) (lc : Bool) (up : StartUp) (s : State) : State :=
  if s.manageable = false then s
  else if lc = false ∨ s.boot.lcEnable = false ∨ lifeAllowed s.fuses.life target = false ∨ (target = .rma ∧ s.allErased = false) then s.answer ccRefused []
  else
    ((s.lcMove target).answer ccSuccess (if target = .provisioned then Config.slhDsaPublic (identityKey (s.lcMove target).fuses.secret) else [])).resetDevice
      .lc up

/-! ## Meanings -/

/-- POWER_ON (R437). -/
def execPowerOn (strapBif strapPart : BitVec 2) (lc : Bool) (up : StartUp) (s : State) : Host.Outcome State Fault Refusal :=
  .next (powerOn strapBif strapPart lc up s)
/-- DEVICE_READY (R345). -/
def execDeviceReady (s : State) : Host.Outcome State Fault Refusal := .next (deviceReady s)
/-- DEVICE_RESET (R437). -/
def execDeviceReset (cause : ResetCause) (up : StartUp) (s : State) : Host.Outcome State Fault Refusal := .next (deviceReset cause up s)
/-- REGION_RESET (R437). -/
def execRegionReset (r : Fin 4) (sramLost : Bool) (failed : RegionFind) (s : State) : Host.Outcome State Fault Refusal :=
  .next (regionReset r.val sramLost failed s)
/-- DEVICE_RESET_MESSAGE (R432). -/
def execDeviceResetMessage (up : StartUp) (s : State) : Host.Outcome State Fault Refusal := .next (deviceResetMessage up s)
/-- ACTIVATE_FIRMWARE (R420). -/
def execActivateFirmware (up : StartUp) (s : State) : Host.Outcome State Fault Refusal := .next (activateFirmware up s)
/-- LC_TRANSITION (R426). -/
def execLcTransition (target : LifeCycle) (lc : Bool) (up : StartUp) (s : State) : Host.Outcome State Fault Refusal :=
  .next (lcTransition target lc up s)

end Sys2Proof.Machine
end

