-- ==== Sys2Proof/Machine/RegAccess.lean ====
section
/-!
DEFINITION. Sys2Proof/Machine/RegAccess.lean: register reads and writes: hub and core registers over the sideband (R10, R27, R28, R432), a
port's BARs (R346-R353), and the dump (R432).
-/
namespace Sys2Proof.Machine

/-- Bits at a place of a word. -/
def bits (x lo : Nat) : Nat := 2 ^ lo * x
def flagAt (b : Bool) (lo : Nat) : Nat := if b then 2 ^ lo else 0
def wordOf (n : Nat) : Word := BitVec.ofNat 32 n
/-- The low or high word of a 64-bit value, by the offset within it. -/
def half (n o : Nat) : Word := wordOf (if o < 4 then n else n / 2 ^ 32)

/-! ## Hub registers (R55, R123, R319, R394, R413, R436, R442) -/

def lockCode : LockState → Nat
  | .free => 0
  | .acquiring => 1
  | .locked => 2
  | .holdover => 3

def State.timeStatus (s : State) : Word :=
  wordOf (flagAt (s.port s.ptmPort).linkUp 6 + flagAt s.time.freqPresent 5 + flagAt s.time.ppsPresent 4 + bits (lockCode s.time.lock) 2 + s.timeSource)

def serviceCode : Service → Nat
  | .inService => 0
  | .entering => 1
  | .dormant => 2
  | .exiting => 3
  | .outOfService => 4

def State.pwrStatus (s : State) : Word :=
  let each := fun (f : Nat → Bool) (lo : Nat) => ((List.range 4).map fun r => flagAt (f r) (lo + r)).sum
  wordOf (each s.active 28 + flagAt s.rateMode 27 + flagAt s.braked 26 + flagAt s.power.dip.isSome 25 + flagAt s.power.severe 24
    + each (fun r => (s.region r).throttled) 0)

def State.regionState (s : State) (r : Nat) : Word :=
  let x := s.region r
  wordOf (bits x.point 29 + flagAt x.throttled 28 + flagAt x.droop.isSome 27 + flagAt x.conservative.isSome 26
    + ((List.range 4).map fun p => bits (x.levels.getD p 0) (5 * p)).sum)

/-- TAG_EST: the estimate of the key that TAG_SEL names (R381, R394). -/
def State.tagEst (s : State) : Word :=
  let v := s.hubWord rTagSel
  match (s.region (fld v 13 12)).estimate (1024 * fld v 11 10 + 256 * fld v 9 8 + fld v 7 0) with
  | some u => wordOf u
  | none => 0xFFFFFFFF

def State.bootCodeNow (s : State) : Nat :=
  match s.boot.phase with
  | .failed c => c
  | _ => 0

def State.lcStatus (s : State) : Word :=
  wordOf (flagAt s.boot.lcEnable 7 + flagAt (decide (s.fuses.life = .blank) || decide (s.fuses.life = .rma)) 6 + lifeCode s.fuses.life)

def State.bootStatus (s : State) : Word := wordOf (bits s.boot.keyIndex 8 + s.bootCodeNow)

def State.fltStatus (s : State) : Word :=
  wordOf (flagAt s.latches.l3 31 + flagAt (s.serving && s.latches.aliveAt.isSome) 30)

def State.keySlots (s : State) : List Nat := (List.range 32).filter fun n => (sget none s.verm.slots n).isSome

/-- A word of a table entry in the layout of R352. -/
def PartEntry.word (e : PartEntry) (p o : Nat) : Word := ((e.words p).find? fun x => x.1 == o).elim 0 (·.2)

/-- A word of the hub register space as a read returns it. -/
def State.hubRead (s : State) (off : Nat) : Word :=
  if off = rTimeStatus then s.timeStatus
  else if off / 8 = rDeviceTime / 8 then half s.time.now (off % 8)
  else if off / 8 = rBeatNumber / 8 then half s.beat (off % 8)
  else if off = rFrameStatus then s.hubWord off &&& 0xF0 ||| wordOf (flagAt s.frame.commit.isSome 1 + flagAt s.frame.bank 0)
  else if off / 8 = rFrameOrigin / 8 then half s.frame.origin (off % 8)
  else if rSlotShadow ≤ off ∧ off < rSlotShadow + 0x800 then s.frame.shadow.getD ((off - rSlotShadow) / 4) 0
  else if rSlotActive ≤ off ∧ off < rSlotActive + 0x800 then s.frame.active.getD ((off - rSlotActive) / 4) 0
  else if off = rPumpStatus then wordOf (bits (min 2047 s.grantQueue.length) 16 + s.grants.length)
  else if rService ≤ off ∧ off < rService + 0x100 then s.serviceWord ((off - rService) / 0x40) ((off - rService) % 0x40)
  else if off = rPwrStatus then s.pwrStatus
  else if rRegionState ≤ off ∧ off < rRegionState + 16 then s.regionState ((off - rRegionState) / 4)
  else if rVfTable ≤ off ∧ off < rVfTable + 32 then
    wordOf (bits (vfSramMv ((off - rVfTable) / 4)) 16 + vfCoreMv ((off - rVfTable) / 4))
  else if off = rTagEst then s.tagEst
  else if off = rFltPending then wordOf s.fltPending
  else if off = rFltStatus then s.fltStatus
  else if off = rRepairUsed then wordOf ((List.range 4).map fun r => bits (min 255 (ceilDiv (s.config.repairs.getD r []).length 8)) (8 * r)).sum
  else if off = rLcStatus then s.lcStatus
  else if off = rBootStatus then s.bootStatus
  else if off = rKeyStatus then
    wordOf (bits (revokeBits s.fuses.revoked) 4 + ((List.range 4).map fun i => flagAt (s.fuses.keyDigests.getD i [] != []) i).sum)
  else if off = rKeySlots then wordOf (s.keySlots.map fun n => 2 ^ n).sum
  else if off = rKeyBusy then wordOf (((List.range 32).filter s.keyBusy).map fun n => 2 ^ n).sum
  else if rFwDigest ≤ off ∧ off < rFwDigest + 32 then wordOf (imgNum s.boot.digest (off - rFwDigest) 4)
  else if off / 8 = rKeyOwner / 8 then
    half (s.keySlots.map fun n => ((sget none s.verm.slots n).map fun k => k.2 * 4 ^ n).getD 0).sum (off % 8)
  else if off = rPtStatus then s.hubWord off &&& 0xF0 ||| wordOf (flagAt s.parts.commit.isSome 0)
  else if off / 8 = rPtSeq / 8 then half s.parts.seq (off % 8)
  else if rPtActive ≤ off ∧ off < rPtActive + 0x200 then (s.part ((off - rPtActive) / 0x80)).word ((off - rPtActive) / 0x80) ((off - rPtActive) % 0x80)
  else if rRegionPm ≤ off ∧ off < rRegionPm + 16 then
    let r := (off - rRegionPm) / 4
    if s.nRegions ≤ r then 0x400 else s.hubWord off ||| wordOf (bits (serviceCode (s.region r).service) 8)
  else s.hubWord off

/-- The value that a written word leaves, by the access codes of R10. -/
def applyWrite (old rw w1c v : Word) : Word := (old &&& ~~~rw ||| v &&& rw) &&& ~~~(v &&& w1c)

/-- HOLDOVER_LIMIT: 1-86,400; other values are ignored (R55). -/
def State.writeLimit (s : State) (v : Word) : State :=
  if 1 ≤ v.toNat ∧ v.toNat ≤ 86400 then s.setHub rHoldoverLimit v else s

/-- TAMPER_CFG: RWL, stored (R436). -/
def State.writeTamper (s : State) (v : Word) : State :=
  let w := s.hubWord rTamperCfg
  if bitAt w 31 then s else
  let n := applyWrite w (hubRw rTamperCfg) 0 v
  { (s.setHub rTamperCfg n) with config := ({ s.config with tamperCfg := some (n &&& 0x7FFFFFFF) } : Config).putSettings }

/-- A sideband write of a word of the hub register space. -/
def State.hubWrite (s : State) (off : Nat) (v : Word) : State :=
  if off = rTimeCtrl then timeCtrlWrite v s
  else if off = rHoldoverLimit then s.writeLimit v
  else if off / 8 = rEpochSeconds / 8 then { (s.setHub off v) with time := { s.time with epochWritten := true } }
  else if off = rBeatCfg then beatLenWrite v s
  else if off = rFrameCommit then frameCommitGo v s
  else if rSlotShadow ≤ off ∧ off < rSlotShadow + 0x800 then
    { s with frame := { s.frame with shadow := (s.frame.shadow ++ List.replicate (512 - s.frame.shadow.length) 0).set ((off - rSlotShadow) / 4) (v &&& hubRw off) } }
  else if off = rPwrCfg then pwrCfgWrite v s
  else if off = rThermCfg then { (s.setHub off (v &&& hubRw off)) with config := ({ s.config with thermCfg := some (v &&& hubRw off) } : Config).putSettings }
  else if off = rFltAck then fltAck v s
  else if off = rInjCtrl then injCtrlArm v s
  else if off = rInjLock then injLock v s
  else if off = rSelftestCtrl then selftestGo v s
  else if off = rTamperCfg then s.writeTamper v
  else if off = rPtCommit then ptCommitGo v s
  else if rRegionPm ≤ off ∧ off < rRegionPm + 16 then regionPmWrite ((off - rRegionPm) / 4) v s
  else if off = rHibCtrl then hibWrite (bitAt v 0) s
  else s.setHub off (applyWrite (s.hubWord off) (hubRw off) (hubW1c off) v)

/-! ## Core registers (R124, R163, R197, R225, R255, R286, R413) -/

def deckCode : DeckState → Nat
  | .erased => 0
  | .programming => 1
  | .incomplete => 2
  | .ready => 3
  | .erasing => 4
  | .retired => 5

/-- DECK_PHYS. LOGICAL is a free value where the deck has no logical number (R124). -/
def State.deckPhys (s : State) (core i : Nat) : Word :=
  let c := s.core core
  let d := c.deck i
  let l := c.logicalAt i
  wordOf (bits d.wear 20 + bits d.drift 14 + bits (deckCode d.state) 11 + flagAt l.isNone 10 + bits d.patched.length 4 + flagAt d.standIn 3
    + l.getD (freeIn (s.free (1000 + i)) 0 7).toNat)

/-- RESUME_PAGE of an INCOMPLETE deck (R103, R104); of another deck a free value. -/
def State.resumePage (s : State) (d : Deck) (i : Nat) : Nat :=
  if d.state ≠ .incomplete then (freeIn (s.free (1300 + i)) 0 32767).toNat else if d.noResume then d.pages else d.pages / 17 * 17

def State.deckInfo (s : State) (core d : Nat) : Word :=
  let x := s.deckOf (192 * core + d)
  wordOf (flagAt x.fmt4 31 + flagAt x.colcheck 30 + flagAt x.enc 29 + flagAt x.noResume 28 + s.resumePage x d)

def State.afeStatus (s : State) (core : Nat) : Word :=
  let c := s.core core
  wordOf (flagAt (fld (c.reg cAfeCtrl) 3 0 != 15) 3 + flagAt s.power.dip.isSome 2 + flagAt (c.stk.any fun e => e.2.retrim.isSome) 1
    + flagAt (decide (s.boot.phase = .ready) && decide ((s.region (regionOf core)).service = .inService)) 0)

/-- STACK_CAL, with the trims of the region's point. -/
def State.stackCal (s : State) (core st : Nat) : Nat :=
  let x := (s.core core).stack st
  let t := x.trim (s.region (regionOf core)).point
  bits (t.beat % 2 ^ 24) 40 + bits (unsigned 8 t.temp) 32 + bits (unsigned 8 (s.stackTemp core st)) 24 + bits (min 255 t.resid) 16
    + bits x.lender 3 + flagAt x.borrow 2 + flagAt x.lending 1 + flagAt x.retrim.isSome 0

/-- DCM_STATUS in a cycle of the run. -/
def Core.dcmStatus (c : Core) (cyc : Nat) : Word :=
  wordOf ((c.computing cyc).length + bits ((List.range 64).filter fun g => (groupMembers g).any fun l => (c.dcmInfo l).lost).length 8)

/-- The row at which the cursor of a rebuild stands: a free value, never below one read before (R187; log entry 100, DESIGN CHOICE). -/
def State.cursorNow (s : State) (b : Rebuild) : Nat := (freeIn (s.free 1500) b.cursor 1024).toNat

/-- REBUILD_STATUS. With no rebuild in progress every field reads its reset value 0 (log entry 100, DESIGN CHOICE). -/
def State.rebuildStatus (s : State) (core : Nat) : Word :=
  match (s.core core).rebuild with
  | some b => wordOf (2 ^ 31 + bits b.lost 21 + s.cursorNow b)
  | none => 0

/-- The logical DCM that a position of a tier serves. -/
def Core.dcmAt (c : Core) (tier pos : Nat) : Option Nat :=
  ((List.range 128).map (128 * tier + ·) ++ (List.range 16).map (512 + 16 * tier + ·)).find? fun l =>
    !(c.dcmInfo l).gone && c.dcmPos l == pos

/-- DCM_MAP; a retired position keeps its counts. -/
def State.dcmMap (s : State) (core i : Nat) : Word :=
  let c := s.core core
  match c.dcmAt (i / 144) (i % 144) with
  | none =>
    let n := (mget c.retired i).getD (0, 0)
    wordOf (bits 3 29 + bits (freeIn (s.free (1600 + i)) 0 1023).toNat 19 + bits (min 32 n.1) 13 + bits (min 255 n.2) 5)
  | some l =>
    let x := c.dcmInfo l
    let target := c.rebuild.any fun e => e.target == l
    let st := if x.lost then 1 else if target then 2 else if c.reserves.any fun r => r == some l then 4 else 0
    wordOf (bits st 29 + bits l 19 + bits (min 32 x.spareColumns) 13 + bits (min 255 x.transient) 5)

/-- CORE_STATUS in a cycle of the run. -/
def Core.status (c : Core) (cyc : Nat) : Word :=
  let running := c.seqOn && decide ((c.task c.seqTask).seq = .running)
  c.reg cCoreStatus &&& 0x10 ||| wordOf (bits (c.tasks.map fun t => t.queue.length).sum 8 + bits (c.copying cyc).length 5 + flagAt running 3 + c.seqTask)

/-- A word of a TASK block. -/
def Task.regWord (t : Task) : Nat → Word
  | 0x00 => wordOf (flagAt t.valid 31 + bits t.klass 28 + bits t.part 26 + bits t.qdepth 16 + bits t.imemBase 8 + t.imemLen)
  | 0x04 => wordOf t.base
  | 0x08 => wordOf t.bound
  | 0x0C => wordOf (bits t.dcmHi 16 + t.dcmLo)
  | 0x10 => wordOf t.stageBase
  | 0x14 => wordOf t.stageLen
  | _ => 0

/-- A word of an error record (R255). -/
def ErrRec.regWord (e : ErrRec) (o : Nat) : Word :=
  if o = 0 then wordOf (flagAt e.valid 31 + flagAt e.discarding 30 + bits e.opcode 16 + e.status)
  else if o = 4 then e.detail
  else if o < 16 then half e.beat (o - 8)
  else wordOf (e.word.toNat / 2 ^ (8 * (o - 16)))

/-- A word of a core's register space as a read returns it. -/
def State.coreRead (s : State) (core off : Nat) : Word :=
  let c := s.core core
  if cDeckPhys ≤ off ∧ off < cDeckPhys + 0x360 then s.deckPhys core ((off - cDeckPhys) / 4)
  else if cDeckOwner ≤ off ∧ off < cDeckOwner + 0x300 then wordOf (s.owner (192 * core + (off - cDeckOwner) / 4)).toNat
  else if cDeckInfo ≤ off ∧ off < cDeckInfo + 0x300 then s.deckInfo core ((off - cDeckInfo) / 4)
  else if off = cAfeStatus then s.afeStatus core
  else if cStackCal ≤ off ∧ off < cStackCal + 0xC0 then half (s.stackCal core ((off - cStackCal) / 8)) ((off - cStackCal) % 8)
  else if off = cDcmStatus then c.dcmStatus (s.cycleNow (regionOf core))
  else if off = cRebuildStatus then s.rebuildStatus core
  else if cReserve ≤ off ∧ off < cReserve + 16 then
    match c.reserves.getD ((off - cReserve) / 4) none with
    | some l => wordOf l
    | none => 0xFFFF
  else if cDcmMap ≤ off ∧ off < cDcmMap + 0x900 then s.dcmMap core ((off - cDcmMap) / 4)
  else if off = cCoreStatus then c.status (s.cycleNow (regionOf core))
  else if cTask ≤ off ∧ off < cTask + 0x80 then (c.task ((off - cTask) / 32)).regWord ((off - cTask) % 32)
  else if cToken ≤ off ∧ off < cToken + 0x200 then
    let o := off - cToken
    let t := fun n => (c.tokenAt (o / 128) n (s.cycleNow (regionOf core))).toNat
    wordOf (bits (t (o % 128 / 2 + 1)) 16 + t (o % 128 / 2))
  else if cErr ≤ off ∧ off < cErr + 0x80 then (c.task ((off - cErr) / 32)).err.regWord ((off - cErr) % 32)
  else c.reg off

/-- A sideband write of a word of a core's register space. -/
def State.coreWrite (s : State) (core off : Nat) (v : Word) : State :=
  if cDeckOwner ≤ off ∧ off < cDeckOwner + 0x300 then deckOwnerWrite (192 * core + (off - cDeckOwner) / 4) (v &&& 0xFF) s
  else s.modCore core fun c => c.setReg off (applyWrite (c.reg off) (coreRw off) 0 v)

/-! ## Addresses (R27, R28) -/

/-- What a DA reaches: a byte of a target. -/
inductive Target where
  | scratch (core off : Nat)
  | dcm (core off : Nat)
  | decks (core off : Nat)
  | hubMem (off : Nat)
  | streams (off : Nat)
  | hubReg (off : Nat)
  | coreReg (core off : Nat)
  deriving DecidableEq, Repr

def State.target (s : State) (da : BitVec 48) : Option Target :=
  let r := fld da 43 42
  let c := fld da 41 35
  let off := fld da 34 0
  let core := 64 * r + c
  let inRegion := decide (r < s.nRegions) && decide (c < 64)
  let whole := r == 0 && c == 0
  match fld da 47 44 with
  | 0x0 => if inRegion ∧ off < 0x80000 then some (.scratch core off) else none
  | 0x1 => if inRegion ∧ off < 0x8000000 then some (.dcm core off) else none
  | 0x2 => if inRegion ∧ off < 192 * 0x100000 then some (.decks core off) else none
  | 0x3 => if whole ∧ off < 0x4000000 then some (.hubMem off) else none
  | 0x4 => if whole ∧ off < 256 * s.nStreams then some (.streams off) else none
  | 0xF =>
    if whole ∧ 0x100000 ≤ off then (if off < 0x190000 then some (.hubReg (off - 0x100000)) else none)
    else if inRegion ∧ off < 0xB0000 then some (.coreReg core off)
    else none
  | _ => none

/-- Byte k of a word. -/
def byteOf (w : Word) (k : Nat) : Byte := BitVec.ofNat 8 (w.toNat / 256 ^ k)

/-- A byte as a dump returns it; a deck gives its contents where it is READY (R26, R107; log entry 100, DEDUCED). -/
def State.dumpByte (s : State) : Target → Byte
  | .scratch c o => (s.core c).scratch.byte o
  | .dcm c o => (s.core c).dcmView.byte o
  | .decks c o =>
    let d := s.deckOf (192 * c + o / 0x100000)
    if d.state = .ready ∧ o % 0x100000 / 1024 < 1024 then (d.rowBytes (o % 0x100000 / 1024)).getD (o % 1024) 0 else 0
  | .hubMem o => s.staging.byte o
  | .streams o => (s.streamEntry (o / 256)).getD (o % 256) 0
  | .hubReg o => byteOf (s.hubRead (o / 4 * 4)) (o % 4)
  | .coreReg c o => byteOf (s.coreRead c (o / 4 * 4)) (o % 4)

/-- An RC register returns to its reset value (R10); at L3 every register stays as it stands (R401). A cursor that has been read never goes
back (R187). -/
def State.clearRc (s : State) : Target → State
  | .hubReg o => if hubRc o && !s.latches.l3 then s.setHub o (hubReset o) else s
  | .coreReg c o =>
    if coreRc o && !s.latches.l3 then s.modCore c fun x => x.setReg o (coreReset o)
    else if o = cRebuildStatus then s.modCore c fun x => { x with rebuild := x.rebuild.map fun b => { b with cursor := s.cursorNow b } }
    else s
  | _ => s

/-! ## REG_READ, REG_WRITE, DUMP_READ, STATUS (R432) -/

/-- The words of an access of 4 or 8 bytes, aligned, at registers; none: the message is invalid. -/
def State.regWords (s : State) (da : BitVec 48) (size : Nat) : Option (List Target) :=
  if (size ≠ 4 ∧ size ≠ 8) ∨ da.toNat % size ≠ 0 then none else
  (List.range (size / 4)).mapM fun i =>
    match s.target (da + BitVec.ofNat 48 (4 * i)) with
    | some (.hubReg o) => some (.hubReg o)
    | some (.coreReg c o) => some (.coreReg c o)
    | _ => none

def State.regWord (s : State) : Target → Word
  | .hubReg o => s.hubRead o
  | .coreReg c o => s.coreRead c o
  | _ => 0

def State.writeReg (s : State) (v : Word) : Target → State
  | .hubReg o => s.hubWrite o v
  | .coreReg c o => s.coreWrite c o v
  | _ => s

def regRead (da : BitVec 48) (size : Nat) (s : State) : State :=
  if s.managed = false then s else
  match s.regWords da size with
  | none => s.answer ccInvalid []
  | some ts => ((ts.foldl State.clearRc s).tookFree).answer ccSuccess (ts.flatMap fun t => toLe 4 (s.regWord t).toNat)

def regWrite (da : BitVec 48) (size : Nat) (v : DWord) (s : State) : State :=
  if s.managed = false then s else
  match s.regWords da size with
  | none => s.answer ccInvalid []
  | some ts =>
    if s.latches.l3 then s.answer ccRefused [] else
    ((ts.zip (List.range ts.length)).foldl (fun s e => s.writeReg (half v.toNat (4 * e.2)) e.1) s).answer ccSuccess []

/-- DUMP_READ: up to 1,024 B at any valid DA. -/
def dumpRead (da : BitVec 48) (len : Nat) (s : State) : State :=
  if s.managed = false then s
  else if len = 0 ∨ 1024 < len then s.answer ccInvalid []
  else match (List.range len).mapM fun i => s.target (da + BitVec.ofNat 48 i) with
  | none => s.answer ccInvalid []
  | some ts => ((ts.foldl (fun s t => match t with
      | .hubReg o => if o % 4 = 0 then s.clearRc t else s
      | .coreReg _ o => if o % 4 = 0 then s.clearRc t else s
      | _ => s) s).tookFree).answer ccSuccess (ts.map s.dumpByte)

/-- STATUS: answered in recovery too (R417). -/
def status (s : State) : State :=
  if s.latches.tripped ∨ s.boot.phase = .start then s
  else s.answer ccSuccess (toLe 4 s.lcStatus.toNat ++ toLe 4 s.bootStatus.toNat ++ toLe 4 s.fltStatus.toNat)

/-! ## BAR0 (R346-R353) -/

def State.portStatus (s : State) (p : Nat) : Word :=
  let halted := s.latches.l3 || (match s.boot.phase with
    | .failed _ => true
    | _ => false)
  let ready := decide (s.boot.phase = .ready)
  wordOf (bits ((s.portPart p).getD 15) 4 + bits (if halted then 2 else b2n ready) 2 + b2n ready)

/-- DEV_INFO: REGIONS and PORTS as masks (log entry 101, DEDUCED). -/
def State.devInfo (s : State) (p : Nat) : Word :=
  wordOf (bits Config.stepping.toNat 28 + bits (if s.grade = .szt640 then 15 else 3) 24 + bits s.boot.strapBif.toNat 22 + bits p 20
    + bits (((List.range 4).map fun q => flagAt (s.port q).present q).sum) 16 + bits 1 8)

def State.sqWord (s : State) (p n o : Nat) : Word :=
  let q := (s.port p).sq n
  if o < 8 then half q.base.toNat o
  else if o = 8 then q.cfg
  else if o = 0xC then wordOf (flagAt (s.sqActive p n) 31 + flagAt q.held 30 + fld q.head 15 0)
  else if o < 0x18 then half q.headword.toNat (o - 0x10)
  else 0

def State.cqWord (s : State) (p n o : Nat) : Word :=
  let c := (s.port p).cq n
  if o < 8 then half c.base.toNat o
  else if o = 8 then c.cfg
  else if o = 0xC then wordOf (flagAt (s.cqActive p n) 31 + flagAt c.full 30 + fld c.count 15 0)
  else 0

/-- The partition view: zero for a port without a partition. -/
def State.viewWord (s : State) (p o : Nat) : Word :=
  match s.portPart p with
  | none => 0
  | some q =>
    if o < 0x40 then (s.part q).word q o
    else if o < 0x48 then half s.parts.seq (o - 0x40)
    else if 0x100 ≤ o ∧ o < 0x140 then s.serviceWord q (o - 0x100)
    else 0

def State.timeWord (s : State) (o : Nat) : Word :=
  if o < 8 then half s.time.now o
  else if o < 0x10 then half s.beat (o - 8)
  else if o = 0x10 then s.timeStatus
  else if o = 0x14 then wordOf s.beatNs
  else if 0x18 ≤ o ∧ o < 0x20 then half s.frame.origin (o - 0x18)
  else if o = 0x20 then wordOf s.frame.len
  else 0

/-- The word at an offset of BAR0, a multiple of 4. -/
def State.barWord (s : State) (p off : Nat) : Word :=
  let x := s.port p
  if off = 0x000 then wordOf (bits (if s.grade = .szt640 then 0x6400 else 0x3200) 16 + 0x1C5E)
  else if off = 0x004 then s.devInfo p
  else if off = 0x008 then s.boot.version
  else if off = 0x00C then wordOf s.fuses.svn
  else if off / 8 = 0x010 / 8 then half Config.serial.toNat (off % 8)
  else if off = 0x100 then s.portStatus p
  else if off / 8 = 0x108 / 8 then half x.readyBeat (off % 8)
  else if off / 8 = 0x110 / 8 then half x.doorbellBase.toNat (off % 8)
  else if off = 0x118 then x.pollCtrl
  else if off = 0x11C then x.eventCtrl
  else if off = 0x120 then x.eventStatus
  else if off = 0x124 then x.setupErr
  else if 0x1000 ≤ off ∧ off < 0x2000 then s.sqWord p ((off - 0x1000) / 0x40) (off % 0x40)
  else if 0x2000 ≤ off ∧ off < 0x3000 then s.cqWord p ((off - 0x2000) / 0x40) (off % 0x40)
  else if 0x4000 ≤ off ∧ off < 0x4100 then (x.cq ((off - 0x4000) / 4)).coal
  else if 0x8000 ≤ off ∧ off < 0x8200 then s.viewWord p (off - 0x8000)
  else if 0xC000 ≤ off ∧ off < 0xC040 then s.timeWord (off - 0xC000)
  else 0

/-- The offset of the 64-bit register of BAR0 that holds a word. -/
def wide (off : Nat) : Option Nat :=
  let low := off / 8 * 8
  if low = 0x010 ∨ low = 0x108 ∨ low = 0x110 ∨ low = 0x8040 ∨ low = 0x8118 ∨ low = 0x8120 ∨ low = 0xC000 ∨ low = 0xC008 ∨ low = 0xC018
      ∨ (0x1000 ≤ off ∧ off < 0x2000 ∧ (off % 0x40 / 8 = 0 ∨ off % 0x40 / 8 = 2))
      ∨ (0x2000 ≤ off ∧ off < 0x3000 ∧ off % 0x40 / 8 = 0) then some low
  else none

/-- A 4 B read: of a low half it latches the high half, of a high half it returns the latched value (R347). -/
def State.barRead4 (s : State) (p off : Nat) : State :=
  let x := s.port p
  match wide off with
  | none => s.emit (.hostRead p (BitVec.ofNat 64 (s.barWord p off).toNat))
  | some low =>
    if off = low then (s.setPort p { x with latch := sins x.latch low (s.barWord p (low + 4)) }).emit (.hostRead p (BitVec.ofNat 64 (s.barWord p off).toNat))
    else match mget x.latch low with
    | some v => (s.setPort p { x with latch := sdel x.latch low }).emit (.hostRead p (BitVec.ofNat 64 v.toNat))
    | none => s.emit (.hostRead p (BitVec.ofNat 64 (s.barWord p off).toNat))

/-- A read of BAR0: aligned 4 B and 8 B; any other returns zero. The access brings the link out of L1 (R341). -/
def State.barRead (s : State) (p off size : Nat) : State :=
  let s := s.setPort p { s.port p with l1 := false }
  if (size ≠ 4 ∧ size ≠ 8) ∨ off % size ≠ 0 then s.emit (.hostRead p 0)
  else if size = 4 then s.barRead4 p off
  else s.emit (.hostRead p (BitVec.ofNat 64 ((s.barWord p off).toNat + 2 ^ 32 * (s.barWord p (off + 4)).toNat)))

/-- A write of DOORBELL_BASE, a ring's base or a head-word address, as 64 bits; `off` is the offset of the write (R350, R351). -/
def State.writeWide (s : State) (p low off : Nat) (v : DWord) : State :=
  let x := s.port p
  if low = 0x110 then
    if (List.range 64).any (s.sqActive p) then s.setupError p 3 off else s.setPort p { x with doorbellBase := v &&& ~~~0x1FF#64 }
  else if 0x1000 ≤ low ∧ low < 0x2000 then
    let n := (low - 0x1000) / 0x40
    let q := x.sq n
    let q' := if low % 0x40 = 0 then { q with base := v &&& ~~~0xFFF#64 } else { q with headword := v &&& ~~~7#64 }
    if q' = q then s else if s.sqActive p n then s.setupError p 1 off else s.setPort p (x.setSq n q')
  else if 0x2000 ≤ low ∧ low < 0x3000 then
    let n := (low - 0x2000) / 0x40
    let c := x.cq n
    let c' := { c with base := v &&& ~~~0xFFF#64 }
    if c' = c then s else if s.cqActive p n then s.setupError p 1 off else s.setPort p (x.setCq n c')
  else s

/-- A write of EVENT_STATUS (RW1C, R349); of ATTENTION it acknowledges (R400). -/
def State.writeEvents (s : State) (p : Nat) (v : Word) : State :=
  let s := if bitAt v 1 then attentionAck p s else s
  s.setPort p { s.port p with eventStatus := (s.port p).eventStatus &&& ~~~(v &&& 0xD) }

/-- A 4 B write of BAR0. -/
def State.barWrite4 (s : State) (p off : Nat) (v : Word) : State :=
  let x := s.port p
  match wide off with
  | some low =>
    let lo := if off = low then v else s.barWord p low
    let hi := if off = low then s.barWord p (low + 4) else v
    s.writeWide p low off (BitVec.ofNat 64 (lo.toNat + 2 ^ 32 * hi.toNat))
  | none =>
    if off = 0x118 then s.setPort p { x with pollCtrl := v &&& 0x1F }
    else if off = 0x11C then s.setPort p { x with eventCtrl := v &&& 0x8000003F }
    else if off = 0x120 then s.writeEvents p v
    else if 0x1000 ≤ off ∧ off < 0x2000 ∧ off % 0x40 = 8 then s.writeSqCfg p ((off - 0x1000) / 0x40) v
    else if 0x2000 ≤ off ∧ off < 0x3000 ∧ off % 0x40 = 8 then s.writeCqCfg p ((off - 0x2000) / 0x40) v
    else if 0x4000 ≤ off ∧ off < 0x4100 then
      s.setPort p (x.setCq ((off - 0x4000) / 4) { x.cq ((off - 0x4000) / 4) with coal := v &&& 0xBFFFFFFF })
    else s

def State.bar0Write (s : State) (p off size : Nat) (v : DWord) : State :=
  if size = 4 then s.barWrite4 p off (half v.toNat 0)
  else match wide off with
  | some low => s.writeWide p low off v
  | none => (s.barWrite4 p off (half v.toNat 0)).barWrite4 p (off + 4) (half v.toNat 4)

/-! ## BAR2 (R346; log entry 24, PRESUMED) -/

/-- Bits of a word of a table entry that a write sets. -/
def msixMask (o : Nat) : Word := if o % 16 = 0 then 0xFFFFFFFC else if o % 16 = 12 then 1 else 0xFFFFFFFF

/-- A 4 B write of the MSI-X table; a vector that is unmasked with its message pending sends it. -/
def State.msixWrite4 (s : State) (p off : Nat) (v : Word) : State :=
  if 0x400 ≤ off then s else
  let x := s.port p
  let x := { x with msix := x.msix.write off (toLe 4 (v &&& msixMask off).toNat) }
  let n := off / 16
  if bitAt x.pba n && !bitAt (x.msix.byte (16 * n + 12)) 0 then
    (s.setPort p { x with pba := x.pba &&& ~~~(BitVec.ofNat 64 (2 ^ n)) }).sendMsix p n
  else s.setPort p x

def State.bar2Write (s : State) (p off size : Nat) (v : DWord) : State :=
  if size = 4 then s.msixWrite4 p off (half v.toNat 0) else (s.msixWrite4 p off (half v.toNat 0)).msixWrite4 p (off + 4) (half v.toNat 4)

/-- REGISTER_WRITE: a host write of a BAR. In HALTED writes of BAR0 have no effect. -/
def registerWrite (p : Nat) (bar : Bar) (off size : Nat) (v : DWord) (s : State) : State :=
  if s.reachable p = false then s else
  let s := s.setPort p { s.port p with l1 := false }
  if (size ≠ 4 ∧ size ≠ 8) ∨ off % size ≠ 0 ∨ s.portWritable p = false then s else
  match bar with
  | .bar0 => s.bar0Write p off size v
  | .bar2 => s.bar2Write p off size v

/-- RC_REGISTER_READ: from the sideband, of RC registers. No RC register lies in a BAR (R346, R352): a host's read, at the low bits of the
address, returns the value alone. -/
def rcRegisterRead (src : Agent) (da : BitVec 48) (size : Nat) (s : State) : State :=
  match src with
  | .sideband => regRead da size s
  | .host p => if s.reachable p.val = false then s else s.barRead p.val (fld da 15 0) size

/-- LATCHED_HIGH_READ: a 4 B read of BAR0. -/
def latchedHighRead (p off : Nat) (s : State) : State := if s.reachable p = false then s else s.barRead p off 4

/-! ## Meanings -/

/-- RC_REGISTER_READ (R10). -/
def execRcRegisterRead (src : Agent) (da : BitVec 48) (size : Nat) (s : State) : Host.Outcome State Fault Refusal :=
  .next (rcRegisterRead src da size s)
/-- LATCHED_HIGH_READ (R347). -/
def execLatchedHighRead (p : Fin 4) (offset : Nat) (s : State) : Host.Outcome State Fault Refusal := .next (latchedHighRead p.val offset s)
/-- REGISTER_WRITE (R10). -/
def execRegisterWrite (p : Fin 4) (bar : Bar) (offset size : Nat) (v : DWord) (s : State) : Host.Outcome State Fault Refusal :=
  .next (registerWrite p.val bar offset size v s)
/-- REG_READ (R432). -/
def execRegRead (da : BitVec 48) (size : Nat) (s : State) : Host.Outcome State Fault Refusal := .next (regRead da size s)
/-- REG_WRITE (R432). -/
def execRegWrite (da : BitVec 48) (size : Nat) (v : DWord) (s : State) : Host.Outcome State Fault Refusal := .next (regWrite da size v s)
/-- DUMP_READ (R432). -/
def execDumpRead (da : BitVec 48) (len : Nat) (s : State) : Host.Outcome State Fault Refusal := .next (dumpRead da len s)
/-- STATUS (R432). -/
def execStatus (s : State) : Host.Outcome State Fault Refusal := .next (status s)

end Sys2Proof.Machine
end

