-- ==== Sys2Proof/Machine/Seq.lean ====
section
/-!
DEFINITION. Sys2Proof/Machine/Seq.lean: the sequencer (R203-R206): an RV64IMC hart whose loads and stores reach the task's scratchpad
window, its CSRs, and the push of a tile command. The manual names the RISC-V instruction set and does not restate it: encodings and
results are the standard's (log entry 64, PRESUMED).
-/
namespace Sys2Proof.Machine

/-- A decoded instruction. `w`: the 32-bit form; `alt`: subtract or arithmetic shift. -/
inductive Rv where
  | lui (rd : Nat) (imm : Int)
  | auipc (rd : Nat) (imm : Int)
  | jal (rd : Nat) (off : Int)
  | jalr (rd rs1 : Nat) (off : Int)
  | branch (f3 rs1 rs2 : Nat) (off : Int)
  | load (f3 rd rs1 : Nat) (off : Int)
  | store (f3 rs1 rs2 : Nat) (off : Int)
  | opImm (w : Bool) (f3 : Nat) (alt : Bool) (rd rs1 : Nat) (imm : Int)
  | op (w : Bool) (f3 : Nat) (alt : Bool) (rd rs1 rs2 : Nat)
  | mul (w : Bool) (f3 rd rs1 rs2 : Nat)
  | fence
  | wfi
  | csr (f3 num rd rs1 : Nat)
  | illegal
  deriving DecidableEq, Repr

/-! ## 32-bit encodings -/

/-- Decode a 32-bit word. ECALL, EBREAK and everything that RV64IM does not give are exceptions alike (R204). -/
def rvDecode (i : Nat) : Rv :=
  let rd := bitsOf i 11 7
  let f3 := bitsOf i 14 12
  let rs1 := bitsOf i 19 15
  let rs2 := bitsOf i 24 20
  let f7 := bitsOf i 31 25
  let immI := signed 12 (bitsOf i 31 20)
  let shOk := fun (hi : Nat) => f3 == 1 && hi == 0 || f3 == 5 && (hi == 0 || hi == 0x10)
  match bitsOf i 6 0 with
  | 0x37 => .lui rd (signed 32 (bitsOf i 31 12 * 2 ^ 12))
  | 0x17 => .auipc rd (signed 32 (bitsOf i 31 12 * 2 ^ 12))
  | 0x6F => .jal rd (signed 21 (bitsOf i 31 31 * 2 ^ 20 + bitsOf i 19 12 * 2 ^ 12 + bitsOf i 20 20 * 2 ^ 11 + bitsOf i 30 21 * 2))
  | 0x67 => if f3 = 0 then .jalr rd rs1 immI else .illegal
  | 0x63 => if f3 = 2 ∨ f3 = 3 then .illegal else
      .branch f3 rs1 rs2 (signed 13 (bitsOf i 31 31 * 2 ^ 12 + bitsOf i 7 7 * 2 ^ 11 + bitsOf i 30 25 * 2 ^ 5 + bitsOf i 11 8 * 2))
  | 0x03 => if f3 = 7 then .illegal else .load f3 rd rs1 immI
  | 0x23 => if 3 < f3 then .illegal else .store f3 rs1 rs2 (signed 12 (f7 * 2 ^ 5 + rd))
  | 0x13 =>
    if f3 = 1 ∨ f3 = 5 then
      (if shOk (bitsOf i 31 26) then .opImm false f3 (bitsOf i 31 26 == 0x10) rd rs1 (bitsOf i 25 20) else .illegal)
    else .opImm false f3 false rd rs1 immI
  | 0x1B =>
    if f3 = 0 then .opImm true 0 false rd rs1 immI
    else if (f3 = 1 ∧ f7 = 0) ∨ (f3 = 5 ∧ (f7 = 0 ∨ f7 = 0x20)) then .opImm true f3 (f7 == 0x20) rd rs1 rs2
    else .illegal
  | 0x33 =>
    if f7 = 1 then .mul false f3 rd rs1 rs2
    else if f7 = 0 then .op false f3 false rd rs1 rs2
    else if f7 = 0x20 ∧ (f3 = 0 ∨ f3 = 5) then .op false f3 true rd rs1 rs2
    else .illegal
  | 0x3B =>
    if f7 = 1 ∧ (f3 = 0 ∨ 4 ≤ f3) then .mul true f3 rd rs1 rs2
    else if f7 = 0 ∧ (f3 = 0 ∨ f3 = 1 ∨ f3 = 5) then .op true f3 false rd rs1 rs2
    else if f7 = 0x20 ∧ (f3 = 0 ∨ f3 = 5) then .op true f3 true rd rs1 rs2
    else .illegal
  | 0x0F => if f3 = 0 then .fence else .illegal
  | 0x73 =>
    if f3 = 0 then (if i = 0x10500073 then .wfi else .illegal)
    else if f3 = 4 then .illegal
    else .csr f3 (bitsOf i 31 20) rd rs1
  | _ => .illegal

/-! ## Compressed encodings -/

/-- Decode a 16-bit instruction, where its two low bits are not 11. -/
def rvDecodeC (i : Nat) : Rv :=
  let f3 := bitsOf i 15 13
  let rd := bitsOf i 11 7
  let rs2 := bitsOf i 6 2
  let rdp := 8 + bitsOf i 4 2
  let rs1p := 8 + bitsOf i 9 7
  let imm6 := signed 6 (bitsOf i 12 12 * 32 + rs2)
  let sh := bitsOf i 12 12 * 32 + rs2
  let lwOff := bitsOf i 12 10 * 8 + bitsOf i 6 6 * 4 + bitsOf i 5 5 * 64
  let ldOff := bitsOf i 12 10 * 8 + bitsOf i 6 5 * 64
  match bitsOf i 1 0, f3 with
  | 0, 0 =>
    let u := bitsOf i 12 11 * 16 + bitsOf i 10 7 * 64 + bitsOf i 6 6 * 4 + bitsOf i 5 5 * 8
    if u = 0 then .illegal else .opImm false 0 false rdp 2 u
  | 0, 2 => .load 2 rdp rs1p lwOff
  | 0, 3 => .load 3 rdp rs1p ldOff
  | 0, 6 => .store 2 rs1p rdp lwOff
  | 0, 7 => .store 3 rs1p rdp ldOff
  | 1, 0 => .opImm false 0 false rd rd imm6
  | 1, 1 => if rd = 0 then .illegal else .opImm true 0 false rd rd imm6
  | 1, 2 => .opImm false 0 false rd 0 imm6
  | 1, 3 =>
    if rd = 2 then
      let u := bitsOf i 12 12 * 512 + bitsOf i 6 6 * 16 + bitsOf i 5 5 * 64 + bitsOf i 4 3 * 128 + bitsOf i 2 2 * 32
      if u = 0 then .illegal else .opImm false 0 false 2 2 (signed 10 u)
    else if sh = 0 then .illegal else .lui rd (imm6 * 4096)
  | 1, 4 =>
    match bitsOf i 11 10, bitsOf i 12 12, bitsOf i 6 5 with
    | 0, _, _ => .opImm false 5 false rs1p rs1p sh
    | 1, _, _ => .opImm false 5 true rs1p rs1p sh
    | 2, _, _ => .opImm false 7 false rs1p rs1p imm6
    | _, 0, 0 => .op false 0 true rs1p rs1p rdp
    | _, 0, 1 => .op false 4 false rs1p rs1p rdp
    | _, 0, 2 => .op false 6 false rs1p rs1p rdp
    | _, 0, _ => .op false 7 false rs1p rs1p rdp
    | _, _, 0 => .op true 0 true rs1p rs1p rdp
    | _, _, 1 => .op true 0 false rs1p rs1p rdp
    | _, _, _ => .illegal
  | 1, 5 =>
    .jal 0 (signed 12 (bitsOf i 12 12 * 2048 + bitsOf i 11 11 * 16 + bitsOf i 10 9 * 256 + bitsOf i 8 8 * 1024 + bitsOf i 7 7 * 64
      + bitsOf i 6 6 * 128 + bitsOf i 5 3 * 2 + bitsOf i 2 2 * 32))
  | 1, k =>
    .branch (k - 6) rs1p 0 (signed 9 (bitsOf i 12 12 * 256 + bitsOf i 11 10 * 8 + bitsOf i 6 5 * 64 + bitsOf i 4 3 * 2 + bitsOf i 2 2 * 32))
  | 2, 0 => .opImm false 1 false rd rd sh
  | 2, 2 => if rd = 0 then .illegal else .load 2 rd 2 (bitsOf i 12 12 * 32 + bitsOf i 6 4 * 4 + bitsOf i 3 2 * 64 : Nat)
  | 2, 3 => if rd = 0 then .illegal else .load 3 rd 2 (bitsOf i 12 12 * 32 + bitsOf i 6 5 * 8 + bitsOf i 4 2 * 64 : Nat)
  | 2, 4 =>
    if rs2 = 0 then
      (if rd = 0 then .illegal else if bitsOf i 12 12 = 0 then .jalr 0 rd 0 else .jalr 1 rd 0)
    else if bitsOf i 12 12 = 0 then .op false 0 false rd 0 rs2 else .op false 0 false rd rd rs2
  | 2, 6 => .store 2 2 rs2 (bitsOf i 12 9 * 4 + bitsOf i 8 7 * 64 : Nat)
  | 2, 7 => .store 3 2 rs2 (bitsOf i 12 10 * 8 + bitsOf i 9 7 * 64 : Nat)
  | _, _ => .illegal

/-! ## Arithmetic -/

def rvShift (f3 : Nat) (alt : Bool) (a : DWord) (n : Nat) : DWord :=
  if f3 = 1 then a <<< n else if alt then a.sshiftRight n else a >>> n

/-- Integer operations by funct3, 64 bits. -/
def rvAlu (f3 : Nat) (alt : Bool) (a b : DWord) : DWord :=
  match f3 with
  | 0 => if alt then a - b else a + b
  | 2 => if a.toInt < b.toInt then 1 else 0
  | 3 => if a.toNat < b.toNat then 1 else 0
  | 4 => a ^^^ b
  | 6 => a ||| b
  | 7 => a &&& b
  | _ => rvShift f3 alt a (b.toNat % 64)

/-- The 32-bit forms: add, subtract and shifts on the low words, sign-extended. -/
def rvAluW (f3 : Nat) (alt : Bool) (a b : DWord) : DWord :=
  let x : Word := a.setWidth 32
  let y : Word := b.setWidth 32
  let n := y.toNat % 32
  let r : Word := if f3 = 0 then (if alt then x - y else x + y) else if f3 = 1 then x <<< n else if alt then x.sshiftRight n else x >>> n
  r.signExtend 64

/-- Division and remainder of n-bit values, with the standard's results for a zero divisor and the overflow. -/
def rvDiv {n : Nat} (f3 : Nat) (a b : BitVec n) : BitVec n :=
  match f3 with
  | 4 => if b = 0 then BitVec.allOnes n else a.sdiv b
  | 5 => if b = 0 then BitVec.allOnes n else a / b
  | 6 => if b = 0 then a else a.srem b
  | _ => if b = 0 then a else a % b

def rvMul (w : Bool) (f3 : Nat) (a b : DWord) : DWord :=
  if w then
    let x : Word := a.setWidth 32
    let y : Word := b.setWidth 32
    (if f3 = 0 then x * y else rvDiv f3 x y).signExtend 64
  else
    match f3 with
    | 0 => a * b
    | 1 => BitVec.ofInt 64 (a.toInt * b.toInt / (2 ^ 64 : Nat))
    | 2 => BitVec.ofInt 64 (a.toInt * (b.toNat : Int) / (2 ^ 64 : Nat))
    | 3 => BitVec.ofNat 64 (a.toNat * b.toNat / 2 ^ 64)
    | _ => rvDiv f3 a b

def rvTaken (f3 : Nat) (a b : DWord) : Bool :=
  match f3 with
  | 0 => a == b
  | 1 => a != b
  | 4 => decide (a.toInt < b.toInt)
  | 5 => decide (b.toInt ≤ a.toInt)
  | 6 => decide (a.toNat < b.toNat)
  | _ => decide (b.toNat ≤ a.toNat)

/-! ## CSRs (R203, R205) -/

def csrKnown (n : Nat) : Bool :=
  [0x800, 0x801, 0x802, 0xCC0, 0xCC1, 0xCC2, 0xCC3, 0xF14, 0x301, 0xF11, 0xF12, 0xF13, 0xB00, 0xB02, 0xC00, 0xC02].contains n

/-- The cycle of the run in which the sequencer's next instruction issues. -/
def State.seqCycle (s : State) (core : Nat) : Nat := max (s.cycleNow (regionOf core)) (s.core core).seqClock

/-- What a CSR reads; CMDHI is write-only and reads 0 (R10). -/
def State.csrRead (s : State) (core task n : Nat) : DWord :=
  let t := (s.core core).task task
  match n with
  | 0x800 => t.cmdLo
  | 0x802 => BitVec.ofNat 64 t.tokSel
  | 0xCC0 => BitVec.ofNat 64 s.beat
  | 0xCC1 => BitVec.ofNat 64 (t.qdepth - t.queue.length)
  | 0xCC2 => ((s.core core).tokenAt task t.tokSel (s.seqCycle core)).setWidth 64
  | 0xCC3 => BitVec.ofNat 64 (task + 4 * t.klass + 32 * t.part)
  | 0xF14 => BitVec.ofNat 64 core
  | 0x301 => BitVec.ofNat 64 (2 * 2 ^ 62 + 2 ^ 12 + 2 ^ 8 + 2 ^ 2)
  | 0xB00 => t.mcycle
  | 0xC00 => t.mcycle
  | 0xB02 => t.minstret
  | 0xC02 => t.minstret
  | _ => 0

/-! ## Pushing a command (R205, R206) -/

/-- The word enters the segment in a cycle of the run, and may issue from the next; a DONE stalls or stops the sequencer (R241). -/
def Task.push (t : Task) (w : CmdWord) (cyc : Nat) : Task :=
  let t := { t with queue := t.queue ++ [w], pushAt := t.pushAt ++ List.replicate (t.queue.length - t.pushAt.length) 0 ++ [cyc + 1] }
  if cwOpcode w = 0x57 then { t with seq := if bitAt w 99 then .stopped else .waitStep } else { t with seq := .running }

/-- Push, or stall while the segment is full (R206). -/
def Task.pushOrStall (t : Task) (w : CmdWord) (cyc : Nat) : Task :=
  if t.queue.length < t.qdepth then t.push w cyc else { t with seq := .stallPush w }

/-- The word that a write of CMDHI completes. -/
def cmdWordOf (hi lo : DWord) : CmdWord := hi ++ lo

/-! ## One instruction -/

def Task.x (t : Task) (r : Nat) : DWord := if r = 0 then 0 else t.xs.getD r 0
def Task.setX (t : Task) (r : Nat) (v : DWord) : Task := if r = 0 then t else { t with xs := t.xs.set r v }

/-- Go on at an address, 64 bits. -/
def Task.goto (t : Task) (a : Int) : Task := { t with pc := unsigned 64 a }

/-- Size in bytes of a load or store. -/
def rvSize (f3 : Nat) : Nat := 2 ^ (f3 % 4)

/-- Effective address, and whether the access lies in the task's window. -/
def Task.addr (t : Task) (rs1 : Nat) (off : Int) : Nat := unsigned 64 ((t.x rs1).toNat + off)
def Task.inBound (t : Task) (a n : Nat) : Bool := decide (a + n ≤ t.bound)

/-- A CSR instruction: none for an illegal access; else the task with rd written, and a command to push. -/
def State.rvCsr (s : State) (core task f3 num rd rs1 : Nat) (t : Task) : Option (Task × Option CmdWord) :=
  let kind := f3 % 4
  let src : DWord := if f3 < 4 then t.x rs1 else BitVec.ofNat 64 rs1
  let write := kind == 1 || rs1 != 0
  if !(csrKnown num) || (write && num / 1024 == 3) then none else
  let old := s.csrRead core task num
  let v := if kind = 1 then src else if kind = 2 then old ||| src else old &&& ~~~src
  let t' := t.setX rd old
  if write then
    match num with
    | 0x800 => some ({ t' with cmdLo := v }, none)
    | 0x801 => some (t', some (cmdWordOf v t.cmdLo))
    | 0x802 => some ({ t' with tokSel := v.toNat % 64 }, none)
    | 0xB00 => some ({ t' with mcycle := v }, none)
    | 0xB02 => some ({ t' with minstret := v }, none)
    | _ => some (t', none)
  else some (t', none)

/-- The task and the scratchpad after an instruction of `len` bytes, and a command it pushes; none for an exception (R204). -/
def State.rvExec (s : State) (core task len : Nat) (t : Task) (mem : Mem) (i : Rv) : Option (Task × Mem × Option CmdWord) :=
  let nxt := { t with pc := t.pc + len }
  match i with
  | .lui rd imm => some (nxt.setX rd (BitVec.ofInt 64 imm), mem, none)
  | .auipc rd imm => some (nxt.setX rd (BitVec.ofInt 64 (t.pc + imm)), mem, none)
  | .jal rd off => some ((t.setX rd (BitVec.ofNat 64 (t.pc + len))).goto (t.pc + off), mem, none)
  | .jalr rd rs1 off =>
    let a := t.addr rs1 off / 2 * 2
    some ((t.setX rd (BitVec.ofNat 64 (t.pc + len))).goto a, mem, none)
  | .branch f3 rs1 rs2 off => some (if rvTaken f3 (t.x rs1) (t.x rs2) then t.goto (t.pc + off) else nxt, mem, none)
  | .load f3 rd rs1 off =>
    let a := t.addr rs1 off
    let n := rvSize f3
    if t.inBound a n then
      let v := mem.num (t.base + a) n
      some (nxt.setX rd (if f3 < 4 then BitVec.ofInt 64 (signed (8 * n) v) else BitVec.ofNat 64 v), mem, none)
    else none
  | .store f3 rs1 rs2 off =>
    let a := t.addr rs1 off
    if t.inBound a (rvSize f3) then some (nxt, mem.putNum (t.base + a) (rvSize f3) (t.x rs2).toNat, none) else none
  | .opImm w f3 alt rd rs1 imm =>
    let b := BitVec.ofInt 64 imm
    some (nxt.setX rd (if w then rvAluW f3 alt (t.x rs1) b else rvAlu f3 alt (t.x rs1) b), mem, none)
  | .op w f3 alt rd rs1 rs2 =>
    some (nxt.setX rd (if w then rvAluW f3 alt (t.x rs1) (t.x rs2) else rvAlu f3 alt (t.x rs1) (t.x rs2)), mem, none)
  | .mul w f3 rd rs1 rs2 => some (nxt.setX rd (rvMul w f3 (t.x rs1) (t.x rs2)), mem, none)
  | .fence => some (nxt, mem, none)
  | .wfi => some ({ nxt with seq := .wfi }, mem, none)
  | .csr f3 num rd rs1 => (s.rvCsr core task f3 num rd rs1 nxt).map fun r => (r.1, mem, r.2)
  | .illegal => none

/-- Fetch at the pc, within the task's window of IMEM_LEN KiB (R203): the instruction and its length. -/
def Core.rvFetch (c : Core) (t : Task) : Rv × Nat :=
  let a := 1024 * t.imemBase + t.pc
  let lim := 1024 * t.imemLen
  let h := c.imem.num a 2
  if t.pc % 2 = 1 ∨ lim < t.pc + 2 then (.illegal, 2)
  else if h % 4 ≠ 3 then (rvDecodeC h, 2)
  else if lim < t.pc + 4 then (.illegal, 4)
  else (rvDecode (c.imem.num a 4), 4)

/-- An exception (R204): the sequencer stops, and one event of the core's sequencer fault source is counted. -/
def State.seqHalt (s : State) (core task : Nat) : State :=
  let s := s.modTask core task fun t => { t with seq := .halted }
  let s := s.modCore core fun c => c.setReg cCoreStatus (c.reg cCoreStatus ||| 0x10)
  s.faultEvent 9 core 0

/-- Does an instruction write the CSR? -/
def rvWrites (num : Nat) : Rv → Bool
  | .csr f3 n _ rs1 => n == num && (f3 % 4 == 1 || rs1 != 0)
  | _ => false

/-- Counters of a retired instruction: MCYCLE by the cycles it took, a free value of at least 1, and MINSTRET (R203; log entry 65, DESIGN CHOICE).
A value written by the instruction itself stands. -/
def Task.retire (t : Task) (i : Rv) (cycles : Nat) : Task :=
  { t with mcycle := if rvWrites 0xB00 i then t.mcycle else t.mcycle + BitVec.ofNat 64 cycles,
           minstret := if rvWrites 0xB02 i then t.minstret else t.minstret + 1 }

/-- Does the sequencer of the core run the task now: its run, its region in service, a bound physical core (R20, R202)? -/
def State.seqActive (s : State) (core : Nat) : Bool :=
  let c := s.core core
  let t := c.task c.seqTask
  s.serving && c.seqOn && t.valid && (s.physOf core).isSome && decide ((s.region (regionOf core)).service = .inService) && s.ownsRun core t

/-- A load meets an uncorrectable word (R210): a load access fault, and the step is replayed where it can be. -/
def State.seqLoadError (s : State) (core task : Nat) : State :=
  let plan := ((s.core core).task task).plan
  let s := s.faultEvent 7 (s.physInst core) 1
  if s.replayable plan then s.breakUnit plan
  else if ((s.core core).task task).seq = .running then s.seqHalt core task else s

def isLoad : Rv → Bool
  | .load _ _ _ _ => true
  | _ => false

/-- The core after an instruction that leaves `mem` of the scratchpad that it saw: its store lands in its cycle (R209, R212). -/
def Core.seqStore (c : Core) (mem : Mem) (cyc : Nat) : Core :=
  if c.late.isEmpty then { c with scratch := mem } else c.land (c.seen fun _ => cyc) mem fun _ => cyc

/-- The instruction retires: its task and scratchpad, the word it pushes, and a corrected word that a load met. -/
def State.seqRetire (s : State) (core task : Nat) (chk : Check) (i : Rv) (t : Task) (mem : Mem) (w : Option CmdWord) : State :=
  let cyc := s.seqCycle core
  let n := 1 + (s.free 0).toNat
  let t := t.retire i n
  let t := match w with
    | some w => t.pushOrStall w cyc
    | none => t
  let s := (s.setCore core ({ (s.core core).seqStore mem cyc with seqClock := cyc + n }.setTask task t)).tookFree
  if isLoad i ∧ chk = .minor then (s.modCore core fun c => c.inc cSpadCorrected 1).faultEvent 6 (s.physInst core) 0 else s

/-- SEQUENCER_INSTRUCTION (R203): the next instruction of the task that the core's sequencer executes. -/
def sequencerInstruction (core : Nat) (chk : Check) (s : State) : State :=
  if s.seqActive core = false then s else
  let c := s.core core
  let task := c.seqTask
  let t := c.task task
  match t.seq with
  | .stallPush w => s.modTask core task fun t => t.pushOrStall w (s.seqCycle core)
  | .running =>
    let (i, len) := c.rvFetch t
    match s.rvExec core task len t (c.seen fun _ => s.seqCycle core) i with
    | none => s.seqHalt core task
    | some (t', mem, w) =>
      if isLoad i ∧ (chk = .major ∨ chk = .spad) then s.seqLoadError core task else s.seqRetire core task chk i t' mem w
  | _ => s

/-- CMDHI (R205): a write of CMDHI by the task's code pushes the command whose low half CMDLO holds. -/
def cmdhi (core task : Nat) (hi : DWord) (s : State) : State :=
  let c := s.core core
  if s.seqActive core = false ∨ c.seqTask ≠ task ∨ (c.task task).seq ≠ .running then s
  else s.modTask core task fun t => t.pushOrStall (cmdWordOf hi t.cmdLo) (s.seqCycle core)

/-- SEQUENCER_INSTRUCTION (R203). -/
def execSequencerInstruction (core : Fin 256) (chk : Check) (s : State) : Host.Outcome State Fault Refusal :=
  .next (sequencerInstruction core.val chk s)

/-- CMDHI (R205). -/
def execCmdhi (core : Fin 256) (task : Fin 4) (hi : DWord) (s : State) : Host.Outcome State Fault Refusal :=
  .next (cmdhi core.val task.val hi s)

end Sys2Proof.Machine
end

