-- ==== Sys2Proof/Machine/Sync.lean ====
section
/-!
DEFINITION. Sys2Proof/Machine/Sync.lean: the synchronisation commands (R254): waiting for a beat, barriers, tree sends, tokens,
handle writes, phase tags and DONE (R241).
-/
namespace Sys2Proof.Machine

/-! ## WAITBEAT -/

/-- The target beat of a WAITBEAT: absolute, or an offset from the first beat of the step (or of an unstepped run). -/
def waitTarget (x : Ctx) : Nat :=
  if bitAt x.w 99 then (match x.s.taskRun x.core x.task with
    | some r => r.firstBeat
    | none => 0) + cwImm x.w
  else 0x10000 * fld x.w 98 64 + cwImm x.w

def waitbeatCheck (x : Ctx) : Option CErr := x.operandCheck [] x.noFlags

/-- A head that does not issue yet. -/
def Ctx.notYet (x : Ctx) : Out := { Out.of x.c 0 with stay := true }

/-- A WAITBEAT issues once its target beat has begun, in a run that its task owns: never as fill. -/
def waitbeatRun (x : Ctx) : Out := if waitTarget x ≤ x.s.beat ∧ x.s.ownsRun x.core x.t = true then Out.of x.c 1 else x.notYet

/-! ## BARRIER -/

def barrierNumber (x : Ctx) : Nat := fld x.w 99 96

/-- The member mask of the barrier in the task's plan (R234). -/
def barrierMembers (x : Ctx) : Nat :=
  match x.s.plan? x.t.plan with
  | some p => barrierMask p.image (barrierNumber x)
  | none => 0

def barrierCheck (x : Ctx) : Option CErr :=
  firstErr [x.operandCheck [] x.noFlags, unlessOk (Nat.testBit (barrierMembers x) x.core) CErr.format]

def barrierRun (x : Ctx) : Out :=
  { Out.of x.c 360 with
    defer := true, fx := [.arrive (barrierNumber x) (if cwDone x.w then some (cwDoneTok x.w) else none)] }

/-! ## TOKEN and DONE -/

/-- Every earlier command of the task on its core has ended: no barrier is open, and no deck is programmed or erased for it. -/
def Ctx.earlierEnded (x : Ctx) : Bool :=
  x.t.barriers == [] &&
  x.t.deckMap.all fun e =>
    let d := x.deckAt (fld e 23 16)
    !(fld e 31 24 == x.core && grantUse e == 1
      && (match d.state, d.job with
          | .programming, some j => j.task == some x.task && j.data != []
          | .erasing, _ => d.eraseCmd == none
          | _, _ => false))

def tokenCheck (x : Ctx) : Option CErr := x.operandCheck [] x.noFlags
def tokenRun (x : Ctx) : Out := if x.earlierEnded then Out.of x.c 1 else x.notYet

def doneCheck (x : Ctx) : Option CErr :=
  firstErr [x.operandCheck [⟨cwA x.w, false, anyFmt⟩] x.noFlags, if cwA x.w = 0xFF then none else x.spadCheck]

/-- DONE (R241): the first 16 B of A are the result words; with END the core has finished and its sequencer stops. -/
def doneRun (x : Ctx) : Out :=
  if x.earlierEnded then
    let t := x.t
    let words := if cwA x.w = 0xFF then t.doneWords else some (x.mem.read (x.a.rowAddr x.base 0) 16)
    let t := if bitAt x.w 99 then { t with doneWords := words, doneEnd := true, seq := .stopped } else { t with doneWords := words, doneStep := true }
    { Out.of ((x.c.setTask x.task t).count x.spadCounts) 160 with fx := x.spadFx }
  else x.notYet

/-! ## HSET and PHASE -/

/-- Task-relative offset of the handle entry. -/
def hsetOff (x : Ctx) : Nat := fld x.w 82 64

def hsetCheck (x : Ctx) : Option CErr :=
  firstErr
    [x.operandCheck [] (x.zero 99 83 && x.noImm && x.noFlags && decide (cwD x.w < 64) && handleValid (x.t.handles.getD (cwD x.w) 0)),
     unlessOk (decide (hsetOff x + 8 ≤ x.t.bound)) CErr.bound, x.spadCheck]

def hsetRun (x : Ctx) : Out :=
  let e : DWord := BitVec.ofNat 64 (x.mem.num (x.base + hsetOff x) 8)
  let t := { x.t with handles := x.t.handles.set (cwD x.w) e }
  { Out.of ((x.c.setTask x.task t).count x.spadCounts) 8 with fx := x.spadFx }

def phaseCheck (x : Ctx) : Option CErr := x.operandCheck [] x.noFlags
def phaseRun (x : Ctx) : Out := Out.of (x.c.setTask x.task { x.t with phaseNext := some (fld x.w 99 92) }) 1

/-! ## Meanings -/

/-- WAITBEAT (R254). -/
def execWaitbeat (core : Fin 256) (task : Fin 4) (chk : Check) (s : State) : Host.Outcome State Fault Refusal :=
  .next (s.issue 0x50 [] waitbeatCheck waitbeatRun core.val task.val chk)

/-- BARRIER (R254). -/
def execBarrier (core : Fin 256) (task : Fin 4) (chk : Check) (s : State) : Host.Outcome State Fault Refusal :=
  .next (s.issue 0x51 [] barrierCheck barrierRun core.val task.val chk)

/-- TSEND (R254): as PUT. -/
def execTsend (core : Fin 256) (task : Fin 4) (chk : Check) (s : State) : Host.Outcome State Fault Refusal :=
  .next (s.issue 0x52 [0, 6] putCheck putRun core.val task.val chk)

/-- TOKEN (R254). -/
def execToken (core : Fin 256) (task : Fin 4) (chk : Check) (s : State) : Host.Outcome State Fault Refusal :=
  .next (s.issue 0x54 [] tokenCheck tokenRun core.val task.val chk)

/-- HSET (R254). -/
def execHset (core : Fin 256) (task : Fin 4) (chk : Check) (s : State) : Host.Outcome State Fault Refusal :=
  .next (s.issue 0x55 [0] hsetCheck hsetRun core.val task.val chk)

/-- PHASE (R254). -/
def execPhase (core : Fin 256) (task : Fin 4) (chk : Check) (s : State) : Host.Outcome State Fault Refusal :=
  .next (s.issue 0x56 [] phaseCheck phaseRun core.val task.val chk)

/-- DONE (R241). -/
def execDone (core : Fin 256) (task : Fin 4) (chk : Check) (s : State) : Host.Outcome State Fault Refusal :=
  .next (s.issue 0x57 [0] doneCheck doneRun core.val task.val chk)

end Sys2Proof.Machine
end

