-- ==== Sys2Proof/Machine/Train.lean ====
section
/-!
DEFINITION. Sys2Proof/Machine/Train.lean: the training drains (R253, R328-R336).
-/
namespace Sys2Proof.Machine

/-- Only a train-class task issues these commands (R253). -/
def trainOnly (x : Ctx) : Option CErr := unlessOk (x.t.klass == 4) (CErr.plain stAccessDenied)

/-- ACC16S is written only with SR (R266). -/
def srFormat (x : Ctx) : Bool := cwFlag12 x.w || x.d.fmt != 11

/-- Bit i of a tile of packed bits (R270). -/
def Tile.bit (t : Tile) (m : Mem) (base i : Nat) : Bool :=
  Nat.testBit (t.code m base (i / 8 / t.width) (i / 8 % t.width)) (i % 8)

/-! ## DERIV (R328) and MASK (R329) -/

def f32One : Word := 0x3F800000#32
def f32Half : Word := 0x3F000000#32
def f32Two : Word := 0x40000000#32
/-- sqrt 2 and sqrt (2 pi), rounded to FP32 (log entry 56, DEDUCED). -/
def f32Sqrt2 : Word := 0x3FB504F3#32
def f32Sqrt2Pi : Word := 0x40206C99#32

def derivSilu (dy v : Word) : Word :=
  let s := fsigmoid v
  fmul (fmul dy s) (fadd f32One (fmul v (fsub f32One s)))

def derivGelu (dy v : Word) : Word :=
  let phiBig := fmul f32Half (fadd f32One (ferf (fdiv v f32Sqrt2)))
  let phi := fdiv (fexp (fdiv (f32neg (fmul v v)) f32Two)) f32Sqrt2Pi
  fmul dy (fadd phiBig (fmul v phi))

def derivCheck (x : Ctx) : Option CErr :=
  let f := actFn x
  firstErr
    [trainOnly x,
     x.operandCheck [x.opdD anyFmt, x.opdA anyFmt, x.opdX true (if actBits f then [0] else [2])]
       (decide (f ≤ 3) && x.zero 95 64 && x.noImm && x.flag12Only && srFormat x),
     holds x.d x.a.cap, holds x.x (if actBits f then ceilDiv x.a.cap 8 else x.a.cap), x.clean x.a, x.clean x.x]

def derivRun (x : Ctx) : SOut :=
  let f := actFn x
  let n := x.a.cap
  let dys := x.f32s x.a n
  let ys := if actBits f then dys.mapIdx fun i dy => if x.x.bit x.mem x.base i then dy else 0#32
    else (dys.zip (x.f32s x.x n)).map fun e => if f = 1 then derivSilu e.1 e.2 else derivGelu e.1 e.2
  x.quantOut x.d (cwFlag12 x.w) (ofF32s ys) (15 + ceilDiv n 32)

def maskCheck (x : Ctx) : Option CErr :=
  firstErr
    [trainOnly x,
     x.operandCheck [x.opdD anyFmt, x.opdA anyFmt, x.opdX true [0]] (x.zero 99 80 && x.noImm && x.flag12Only && srFormat x),
     holds x.d x.a.cap, holds x.x (ceilDiv x.a.cap 8), x.clean x.a]

def maskRun (x : Ctx) : SOut :=
  let k := f32ofBf16 (BitVec.ofNat 16 (fld x.w 79 64))
  let ys := (x.f32s x.a x.a.cap).mapIdx fun i dy => if x.x.bit x.mem x.base i then fmul dy k else 0#32
  x.quantOut x.d (cwFlag12 x.w) (ofF32s ys) (15 + ceilDiv x.a.cap 64)

/-! ## Gradient statistics (R331, R332) -/

/-- What a tile says: EMAX, L7, L17, L31 and NF. -/
structure GradStat where
  emax : Nat
  l7 : Nat
  l17 : Nat
  l31 : Nat
  nf : Bool
  deriving DecidableEq, Repr

/-- A KIND 4 record. -/
structure GradRec where
  run : GradStat
  valid : Bool
  steps : Nat
  tag : Nat
  history : List GradStat
  deriving DecidableEq, Repr

/-- Non-zero finite magnitudes' gaps to the largest of their block. -/
def blockGaps (vs : List FVal) : List Nat :=
  let nz := vs.filter fun v => v.isFinite && !(v.dy.isZero)
  let top := (nz.map fun v => v.dy.log2).max?
  nz.map fun v => ((top.getD 0) - v.dy.log2).toNat

/-- L_k of R331. -/
def levelOf (nz c : Nat) : Nat := if c = 0 then 15 else min 15 (Nat.log2 (nz / c))

def gradStat (vs : List FVal) : GradStat :=
  let gaps := (chunks 32 vs).flatMap blockGaps
  let nz := gaps.length
  let c := fun k => (gaps.filter fun g => decide (k ≤ g)).length
  let a := amaxOf (vs.filter FVal.isFinite)
  { emax := if nz = 0 then 0 else (max 1 (min 254 (a.log2 + 127))).toNat,
    l7 := levelOf nz (c 7), l17 := levelOf nz (c 17), l31 := levelOf nz (c 31), nf := vs.any fun v => !v.isFinite }

/-- An entry of HISTORY: 3 bytes. -/
def histEntry (b : List Byte) : GradStat :=
  let n := leNat b
  { emax := bitsOf n 7 0, l7 := bitsOf n 15 12, l17 := bitsOf n 11 8, l31 := bitsOf n 23 20, nf := Nat.testBit n 19 }

def histBytes (g : GradStat) : List Byte :=
  [BitVec.ofNat 8 g.emax, BitVec.ofNat 8 (16 * g.l7 + g.l17), BitVec.ofNat 8 (16 * g.l31 + 8 * b2n g.nf)]

/-- A record of 64 bytes as gradient statistics; KIND 0 reads as an empty record (R331, R333). -/
def gradRec (b : List Byte) : GradRec :=
  if b.headD 0 = 0 then
    { run := histEntry [], valid := false, steps := 0, tag := 0, history := List.replicate 16 (histEntry []) }
  else
    let c := leNat ((b.drop 4).take 4)
    { run := { emax := bitsOf c 31 24, l7 := bitsOf c 23 20, l17 := bitsOf c 19 16, l31 := bitsOf c 15 12, nf := Nat.testBit c 11 },
      valid := Nat.testBit c 10, steps := bitsOf c 9 5, tag := leNat ((b.drop 8).take 2),
      history := tabulate 16 fun i => histEntry ((b.drop (0x10 + 3 * i)).take 3) }

def gradBytes (x : Ctx) (g : GradRec) : List Byte :=
  let c := 2 ^ 24 * g.run.emax + 2 ^ 20 * g.run.l7 + 2 ^ 16 * g.run.l17 + 2 ^ 12 * g.run.l31 + 2 ^ 11 * b2n g.run.nf + 2 ^ 10 * b2n g.valid
    + 2 ^ 5 * g.steps
  [4, BitVec.ofNat 8 (x.t.part % 4 + 4 * x.task), 0, 0] ++ toLe 4 c ++ toLe 4 g.tag ++ toLe 4 0 ++ g.history.flatMap histBytes

def Ctx.record (x : Ctx) : List Byte := x.c.side.read (64 * sideOf x) 64

/-- The record's KIND is one of those a command expects (R330; log entry 57, DEDUCED). -/
def kindCheck (x : Ctx) (kinds : List Nat) : Option CErr := unlessOk (kinds.contains (x.record.headD 0).toNat) CErr.format

def gstatCheck (x : Ctx) : Option CErr :=
  firstErr [trainOnly x, x.operandCheck [x.opdA [8, 9, 10]] (x.zero 89 64 && x.flag12Only), sideCheck x, kindCheck x [0, 4]]

/-- The tile's values join the running fields (R331). -/
def GradRec.join (g : GradRec) (t : GradStat) (tag : Nat) : GradRec :=
  if g.valid && g.tag == tag then
    { g with run := { emax := max g.run.emax t.emax, l7 := min g.run.l7 t.l7, l17 := min g.run.l17 t.l17, l31 := min g.run.l31 t.l31,
                      nf := g.run.nf || t.nf } }
  else { g with run := t, tag := tag, valid := true }

def gstatRun (x : Ctx) : SOut :=
  let g := (gradRec x.record).join (gradStat (x.vals x.a x.a.cap)) (cwImm x.w)
  { SOut.of x.mem (15 + ceilDiv x.a.cap 64) with ops := 1, recs := [(sideOf x, gradBytes x g)] }

/-! ## FMTSEL (R333) -/

/-- The running fields of another tag become the newest entry of the history. -/
def GradRec.fold (g : GradRec) (tag : Nat) : GradRec :=
  if g.valid && g.tag != tag then
    { g with history := g.run :: g.history.take 15, steps := min (g.steps + 1) 16, valid := false }
  else g

def GradRec.choice (g : GradRec) : Nat :=
  if g.steps < 16 || g.history.any (·.nf) then 3
  else
    let lo := fun (f : GradStat → Nat) => (g.history.map f).foldl min 15
    let c := if 8 ≤ lo (·.l7) then 0 else if 8 ≤ lo (·.l17) then 1 else if 8 ≤ lo (·.l31) then 2 else 3
    let es := (g.history.map (·.emax)).filter fun e => e != 0
    if !es.isEmpty && decide (6 < es.foldl max 0 - es.foldl min 255) then min (c + 1) 3 else c

def choiceFmt : Nat → Nat
  | 0 => 2
  | 1 => 3
  | 2 => 4
  | _ => 8

def Ctx.newRec (x : Ctx) : GradRec := (gradRec x.record).fold (cwImm x.w)

def fmtselCheck (x : Ctx) : Option CErr :=
  firstErr
    [trainOnly x, x.operandCheck [x.opdD anyFmt] (x.zero 89 64 && x.flag12Only), sideCheck x, kindCheck x [0, 4],
     if fmtCap (choiceFmt x.newRec.choice) < x.d.width then
       some { CErr.format with fx := [.record (sideOf x) (gradBytes x x.newRec)] } else none]

def fmtselRun (x : Ctx) : SOut :=
  { SOut.of x.mem 20 with
    ops := 1, recs := [(sideOf x, gradBytes x x.newRec)],
    handles := [(cwD x.w, setFld (x.t.handles.getD (cwD x.w) 0) 60 57 (choiceFmt x.newRec.choice))] }

/-! ## NORMBWD and SMAXBWD (R330) -/

def sideStat (x : Ctx) (o : Nat) : Word := BitVec.ofNat 32 (leNat ((x.record.drop o).take 4))

def isLayer (x : Ctx) : Bool := bitAt x.w 89

def normbwdCheck (x : Ctx) : Option CErr :=
  firstErr
    [trainOnly x, x.operandCheck [x.opdD [2, 8], x.opdA anyFmt, x.opdX true anyFmt] (x.zero 88 64 && x.noImm && x.flag12Only),
     holds x.d x.a.cap, holds x.x x.a.cap, sideCheck x, kindCheck x [if isLayer x then 2 else 1],
     x.clean x.a, x.clean x.d, x.clean x.x]

def normbwdRms (r : Word) (dgs vs : List Word) : List Word :=
  let c := fdiv (laneSum ((dgs.zip vs).map fun e => fmul e.1 e.2)) (f32ofInt vs.length)
  (dgs.zip vs).map fun e => fmul r (fsub e.1 (fmul (fmul e.2 (fmul r r)) c))

def normbwdLayer (mu r : Word) (dgs vs : List Word) : List Word :=
  let n := f32ofInt vs.length
  let hs := vs.map fun v => fmul (fsub v mu) r
  let a := fdiv (laneSum dgs) n
  let b := fdiv (laneSum ((dgs.zip hs).map fun e => fmul e.1 e.2)) n
  (dgs.zip hs).map fun e => fmul r (fsub (fsub e.1 a) (fmul e.2 b))

def normbwdRun (x : Ctx) : SOut :=
  let n := x.a.cap
  let dgs := ((x.f32s x.a n).zip (x.f32s x.x n)).map fun e => fmul e.1 e.2
  let vs := x.f32s x.d n
  let ys := if isLayer x then normbwdLayer (sideStat x 8) (sideStat x 0xC) dgs vs else normbwdRms (sideStat x 0xC) dgs vs
  x.quantOut x.d (cwFlag12 x.w) (ofF32s ys) (30 + 3 * ceilDiv n 32)

def smaxbwdCheck (x : Ctx) : Option CErr :=
  firstErr
    [trainOnly x,
     x.operandCheck [x.opdD anyFmt, x.opdA anyFmt, x.opdB true anyFmt] (x.zero 89 64 && x.noImm && x.flag12Only && srFormat x),
     holds x.d x.a.cap, holds x.b x.a.cap, sideCheck x, kindCheck x [3], x.clean x.a, x.clean x.b]

def smaxbwdRun (x : Ctx) : SOut :=
  let n := x.a.cap
  let v := min (leNat ((x.record.drop 4).take 4)) n
  let es := (x.f32s x.a v).zip (x.f32s x.b v)
  let t := laneSum (es.map fun e => fmul e.2 e.1)
  x.quantOut x.d (cwFlag12 x.w) (ofF32s (es.map (fun e => fmul e.2 (fsub e.1 t)) ++ List.replicate (n - v) 0#32))
    (30 + 2 * ceilDiv n 32)

/-! ## OPTUPD (R335) -/

/-- Rows of each moment. -/
def momentRows (x : Ctx) : Nat := ceilDiv x.d.cap 256

def optupdCheck (x : Ctx) : Option CErr :=
  firstErr
    [trainOnly x,
     x.operandCheck [x.opdD [8], x.opdA [8, 9, 10], x.opdB true [2], x.opdX true anyFmt]
       (x.zero 99 64 && x.noImm && x.flag12Only && x.b.width == 256),
     unlessOk (decide (2 * momentRows x ≤ x.b.rows)) CErr.bound, holds x.a x.d.cap, x.clean x.b]

/-- Hyperparameter at an offset. -/
def hyper (x : Ctx) (o : Nat) : Word := BitVec.ofNat 32 (x.mem.num (x.x.rowAddr x.base 0 + o) 4)

/-- Moments and weight of one element: gradient, old moments, old weight. -/
def optStep (x : Ctx) (grad m v w : Word) : Word × Word × Word :=
  let g := fmul grad (hyper x 0x1C)
  let m := fadd (fmul (hyper x 4) m) (fmul (fsub f32One (hyper x 4)) g)
  let v := fadd (fmul (hyper x 8) v) (fmul (fmul (fsub f32One (hyper x 8)) g) g)
  let u := fdiv (fmul m (hyper x 0x14)) (fadd (fsqrt (fmul v (hyper x 0x18))) (hyper x 0xC))
  (m, v, fsub w (fmul (hyper x 0) (fadd u (fmul (hyper x 0x10) w))))

def optupdRun (x : Ctx) : SOut :=
  let n := x.d.cap
  let r := momentRows x
  let out := tabulate n fun j =>
    optStep x (toF32 (x.a.valN x.mem x.base j)) (toF32 (x.b.valN x.mem x.base j)) (toF32 (x.b.valN x.mem x.base (256 * r + j)))
      (toF32 (x.d.valN x.mem x.base j))
  let pad := fun (l : List Word) => ofF32s (l ++ List.replicate (256 * r - n) 0#32)
  let moments := pad (out.map (·.1)) ++ pad (out.map fun e => e.2.1)
  let rb := fun (r i : Nat) => Rnd.sr (srBits x.seed x.core x.t.srSeq (32768 + (256 * r + i)))
  let (m, qb) := x.b.putRows x.base rb 0 (chunks 256 moments) x.mem
  let (m, qw) := x.putVals x.d true (ofF32s (out.map fun e => e.2.2)) m
  { SOut.of m (15 + 4 * ceilDiv n 32) with
    ops := 1, sr := true, srElems := 3 * n, grade := qb.grade.join qw.grade, counts := qb.counts ++ qw.counts }

/-! ## Meanings -/

/-- DERIV (R328). -/
def execDeriv (core : Fin 256) (task : Fin 4) (chk : Check) (s : State) : Host.Outcome State Fault Refusal :=
  .next (s.issueSpad 0x40 derivCheck derivRun core.val task.val chk)

/-- MASK (R329). -/
def execMask (core : Fin 256) (task : Fin 4) (chk : Check) (s : State) : Host.Outcome State Fault Refusal :=
  .next (s.issueSpad 0x41 maskCheck maskRun core.val task.val chk)

/-- GSTAT (R331). -/
def execGstat (core : Fin 256) (task : Fin 4) (chk : Check) (s : State) : Host.Outcome State Fault Refusal :=
  .next (s.issueSpad 0x42 gstatCheck gstatRun core.val task.val chk)

/-- NORMBWD (R330). -/
def execNormbwd (core : Fin 256) (task : Fin 4) (chk : Check) (s : State) : Host.Outcome State Fault Refusal :=
  .next (s.issueSpad 0x43 normbwdCheck normbwdRun core.val task.val chk)

/-- SMAXBWD (R330). -/
def execSmaxbwd (core : Fin 256) (task : Fin 4) (chk : Check) (s : State) : Host.Outcome State Fault Refusal :=
  .next (s.issueSpad 0x44 smaxbwdCheck smaxbwdRun core.val task.val chk)

/-- OPTUPD (R335). -/
def execOptupd (core : Fin 256) (task : Fin 4) (chk : Check) (s : State) : Host.Outcome State Fault Refusal :=
  .next (s.issueSpad 0x45 optupdCheck optupdRun core.val task.val chk)

/-- FMTSEL (R333). -/
def execFmtsel (core : Fin 256) (task : Fin 4) (chk : Check) (s : State) : Host.Outcome State Fault Refusal :=
  .next (s.issueSpad 0x46 fmtselCheck fmtselRun core.val task.val chk)

end Sys2Proof.Machine
end

