-- ==== Sys2Proof/Machine/Dispatch.lean ====
section
/-!
DEFINITION. Sys2Proof/Machine/Dispatch.lean: one arm per command, each a direct call of its meaning.
-/
namespace Sys2Proof.Machine

def exec (i : Instr) (s : State) : Host.Outcome State Fault Refusal :=
  match i with
  | .powerOn strapBif strapPart lc up => Sys2Proof.Machine.execPowerOn strapBif strapPart lc up s
  | .deviceReady => Sys2Proof.Machine.execDeviceReady s
  | .deviceReset cause up => Sys2Proof.Machine.execDeviceReset cause up s
  | .regionReset r sramLost failed => Sys2Proof.Machine.execRegionReset r sramLost failed s
  | .portReset p cause => Sys2Proof.Machine.execPortReset p cause s
  | .flr p => Sys2Proof.Machine.execFlr p s
  | .portReady p => Sys2Proof.Machine.execPortReady p s
  | .vddHvLoss => Sys2Proof.Machine.execVddHvLoss s
  | .supplyDip rail => Sys2Proof.Machine.execSupplyDip rail s
  | .dipRecovery => Sys2Proof.Machine.execDipRecovery s
  | .droop r depth => Sys2Proof.Machine.execDroop r depth s
  | .droopRecovery r ns => Sys2Proof.Machine.execDroopRecovery r ns s
  | .pmbAlert rail statusWord => Sys2Proof.Machine.execPmbAlert rail statusWord s
  | .pmbusTelemetry readings => Sys2Proof.Machine.execPmbusTelemetry readings s
  | .beatBoundary => Sys2Proof.Machine.execBeatBoundary s
  | .cirqueBudgetEpoch regionUj hubUj => Sys2Proof.Machine.execCirqueBudgetEpoch regionUj hubUj s
  | .cirqueEstimateUpdate r uj => Sys2Proof.Machine.execCirqueEstimateUpdate r uj s
  | .conservativeEnd r => Sys2Proof.Machine.execConservativeEnd r s
  | .vfRaise r coreMv sramMv => Sys2Proof.Machine.execVfRaise r coreMv sramMv s
  | .vfAbandon r => Sys2Proof.Machine.execVfAbandon r s
  | .vfLower r => Sys2Proof.Machine.execVfLower r s
  | .temperatureRead sensors hub => Sys2Proof.Machine.execTemperatureRead sensors hub s
  | .throttleStep r => Sys2Proof.Machine.execThrottleStep r s
  | .thermTrip celsius => Sys2Proof.Machine.execThermTrip celsius s
  | .pwrBrake lowNs => Sys2Proof.Machine.execPwrBrake lowNs s
  | .brakeRelease => Sys2Proof.Machine.execBrakeRelease s
  | .ppsEdge edgeNs freq => Sys2Proof.Machine.execPpsEdge edgeNs freq s
  | .ptmDialog ok offset freq => Sys2Proof.Machine.execPtmDialog ok offset freq s
  | .timeFreqLost => Sys2Proof.Machine.execTimeFreqLost s
  | .holdoverEntered => Sys2Proof.Machine.execHoldoverEntered s
  | .holdoverExpired => Sys2Proof.Machine.execHoldoverExpired s
  | .timeCtrlWrite v => Sys2Proof.Machine.execTimeCtrlWrite v s
  | .sourceChange => Sys2Proof.Machine.execSourceChange s
  | .beatLenWrite v => Sys2Proof.Machine.execBeatLenWrite v s
  | .beatLenChange => Sys2Proof.Machine.execBeatLenChange s
  | .frameCommitGo v => Sys2Proof.Machine.execFrameCommitGo v s
  | .frameSwitch => Sys2Proof.Machine.execFrameSwitch s
  | .runEnd r late guardLeft => Sys2Proof.Machine.execRunEnd r late guardLeft s
  | .taskSwitch r slot => Sys2Proof.Machine.execTaskSwitch r slot s
  | .runStart cmd => Sys2Proof.Machine.execRunStart cmd s
  | .stepStart plan => Sys2Proof.Machine.execStepStart plan s
  | .stepComplete plan => Sys2Proof.Machine.execStepComplete plan s
  | .runComplete plan => Sys2Proof.Machine.execRunComplete plan s
  | .pageAllocation slot => Sys2Proof.Machine.execPageAllocation slot s
  | .decodeRunStart plan => Sys2Proof.Machine.execDecodeRunStart plan s
  | .prefillChunk cmd => Sys2Proof.Machine.execPrefillChunk cmd s
  | .batchStart p => Sys2Proof.Machine.execBatchStart p s
  | .batchComplete p => Sys2Proof.Machine.execBatchComplete p s
  | .corpusEpoch p => Sys2Proof.Machine.execCorpusEpoch p s
  | .corpusMeasurement p => Sys2Proof.Machine.execCorpusMeasurement p s
  | .doorbellPoll p k => Sys2Proof.Machine.execDoorbellPoll p k s
  | .msixCoalesceTimeout p cq => Sys2Proof.Machine.execMsixCoalesceTimeout p cq s
  | .streamOpen cmd => Sys2Proof.Machine.execStreamOpen cmd s
  | .streamAppend cmd => Sys2Proof.Machine.execStreamAppend cmd s
  | .streamGenerate cmd => Sys2Proof.Machine.execStreamGenerate cmd s
  | .streamClose cmd => Sys2Proof.Machine.execStreamClose cmd s
  | .queryScan cmd => Sys2Proof.Machine.execQueryScan cmd s
  | .queryRerank cmd => Sys2Proof.Machine.execQueryRerank cmd s
  | .corpusProgramNew cmd => Sys2Proof.Machine.execCorpusProgramNew cmd s
  | .corpusProgramCompact cmd => Sys2Proof.Machine.execCorpusProgramCompact cmd s
  | .corpusProgramAttach cmd => Sys2Proof.Machine.execCorpusProgramAttach cmd s
  | .corpusDeleteTomb cmd => Sys2Proof.Machine.execCorpusDeleteTomb cmd s
  | .corpusDeleteErase cmd => Sys2Proof.Machine.execCorpusDeleteErase cmd s
  | .modelInstall cmd => Sys2Proof.Machine.execModelInstall cmd s
  | .planLoad cmd => Sys2Proof.Machine.execPlanLoad cmd s
  | .planRun cmd => Sys2Proof.Machine.execPlanRun cmd s
  | .trainStep cmd => Sys2Proof.Machine.execTrainStep cmd s
  | .copyIn cmd => Sys2Proof.Machine.execCopyIn cmd s
  | .copyOut cmd => Sys2Proof.Machine.execCopyOut cmd s
  | .fence cmd => Sys2Proof.Machine.execFence cmd s
  | .fenceRing cmd => Sys2Proof.Machine.execFenceRing cmd s
  | .timeWait cmd => Sys2Proof.Machine.execTimeWait cmd s
  | .stats cmd => Sys2Proof.Machine.execStats cmd s
  | .sequencerInstruction core chk => Sys2Proof.Machine.execSequencerInstruction core chk s
  | .cmdhi core task hi => Sys2Proof.Machine.execCmdhi core task hi s
  | .nop core task chk => Sys2Proof.Machine.execNop core task chk s
  | .fill core task chk => Sys2Proof.Machine.execFill core task chk s
  | .copyw core task chk => Sys2Proof.Machine.execCopyw core task chk s
  | .dcmRd core task chk => Sys2Proof.Machine.execDcmRd core task chk s
  | .dcmWr core task chk => Sys2Proof.Machine.execDcmWr core task chk s
  | .exrdRow core task chk => Sys2Proof.Machine.execExrdRow core task chk s
  | .exrdCol core task chk => Sys2Proof.Machine.execExrdCol core task chk s
  | .put core task chk => Sys2Proof.Machine.execPut core task chk s
  | .stgIn core task chk => Sys2Proof.Machine.execStgIn core task chk s
  | .stgOut core task chk => Sys2Proof.Machine.execStgOut core task chk s
  | .mm core task chk => Sys2Proof.Machine.execMm core task chk s
  | .dcmColwr core task chk => Sys2Proof.Machine.execDcmColwr core task chk s
  | .dcmFill core task chk => Sys2Proof.Machine.execDcmFill core task chk s
  | .dcmCopy core task chk => Sys2Proof.Machine.execDcmCopy core task chk s
  | .cr core task chk => Sys2Proof.Machine.execCr core task chk s
  | .pw core task chk => Sys2Proof.Machine.execPw core task chk s
  | .pwt core task chk => Sys2Proof.Machine.execPwt core task chk s
  | .prog core task chk => Sys2Proof.Machine.execProg core task chk s
  | .erase core task chk => Sys2Proof.Machine.execErase core task chk s
  | .cal core task chk => Sys2Proof.Machine.execCal core task chk s
  | .corrsel core task chk => Sys2Proof.Machine.execCorrsel core task chk s
  | .acc core task chk => Sys2Proof.Machine.execAcc core task chk s
  | .quant core task chk => Sys2Proof.Machine.execQuant core task chk s
  | .act core task chk => Sys2Proof.Machine.execAct core task chk s
  | .rmsnorm core task chk => Sys2Proof.Machine.execRmsnorm core task chk s
  | .layernorm core task chk => Sys2Proof.Machine.execLayernorm core task chk s
  | .softmax core task chk => Sys2Proof.Machine.execSoftmax core task chk s
  | .maxidx core task chk => Sys2Proof.Machine.execMaxidx core task chk s
  | .minidx core task chk => Sys2Proof.Machine.execMinidx core task chk s
  | .topk core task chk => Sys2Proof.Machine.execTopk core task chk s
  | .merge core task chk => Sys2Proof.Machine.execMerge core task chk s
  | .sample core task chk => Sys2Proof.Machine.execSample core task chk s
  | .bscale core task chk => Sys2Proof.Machine.execBscale core task chk s
  | .valign core task chk => Sys2Proof.Machine.execValign core task chk s
  | .xdot core task chk => Sys2Proof.Machine.execXdot core task chk s
  | .deriv core task chk => Sys2Proof.Machine.execDeriv core task chk s
  | .mask core task chk => Sys2Proof.Machine.execMask core task chk s
  | .gstat core task chk => Sys2Proof.Machine.execGstat core task chk s
  | .normbwd core task chk => Sys2Proof.Machine.execNormbwd core task chk s
  | .smaxbwd core task chk => Sys2Proof.Machine.execSmaxbwd core task chk s
  | .optupd core task chk => Sys2Proof.Machine.execOptupd core task chk s
  | .fmtsel core task chk => Sys2Proof.Machine.execFmtsel core task chk s
  | .waitbeat core task chk => Sys2Proof.Machine.execWaitbeat core task chk s
  | .barrier core task chk => Sys2Proof.Machine.execBarrier core task chk s
  | .tsend core task chk => Sys2Proof.Machine.execTsend core task chk s
  | .trecv core task chk => Sys2Proof.Machine.execTrecv core task chk s
  | .token core task chk => Sys2Proof.Machine.execToken core task chk s
  | .hset core task chk => Sys2Proof.Machine.execHset core task chk s
  | .phase core task chk => Sys2Proof.Machine.execPhase core task chk s
  | .done core task chk => Sys2Proof.Machine.execDone core task chk s
  | .rebuildComplete core => Sys2Proof.Machine.execRebuildComplete core s
  | .pageProgram deck ok => Sys2Proof.Machine.execPageProgram deck ok s
  | .erasePulse deck => Sys2Proof.Machine.execErasePulse deck s
  | .pumpGrant => Sys2Proof.Machine.execPumpGrant s
  | .wearSnapshot => Sys2Proof.Machine.execWearSnapshot s
  | .readVerify deck rv => Sys2Proof.Machine.execReadVerify deck rv s
  | .refreshSwap deck => Sys2Proof.Machine.execRefreshSwap deck s
  | .configStackCompaction r => Sys2Proof.Machine.execConfigStackCompaction r s
  | .fullRetrim core stack rt => Sys2Proof.Machine.execFullRetrim core stack rt s
  | .selftestSlice r phys kind fail => Sys2Proof.Machine.execSelftestSlice r phys kind fail s
  | .screeRange r phys find => Sys2Proof.Machine.execScreeRange r phys find s
  | .escalation source inst => Sys2Proof.Machine.execEscalation source inst s
  | .replay plan => Sys2Proof.Machine.execReplay plan s
  | .coreRetirement core => Sys2Proof.Machine.execCoreRetirement core s
  | .spareCoreAdoption core => Sys2Proof.Machine.execSpareCoreAdoption core s
  | .linkFlitRetry hop exhausted => Sys2Proof.Machine.execLinkFlitRetry hop exhausted s
  | .fltAlive => Sys2Proof.Machine.execFltAlive s
  | .tamper cause => Sys2Proof.Machine.execTamper cause s
  | .hostDmaError p cmd kind => Sys2Proof.Machine.execHostDmaError p cmd kind s
  | .atomicopRequest p => Sys2Proof.Machine.execAtomicopRequest p s
  | .busMasterEnable p on => Sys2Proof.Machine.execBusMasterEnable p on s
  | .d3hotEntry p => Sys2Proof.Machine.execD3hotEntry p s
  | .d3hotExit p => Sys2Proof.Machine.execD3hotExit p s
  | .aspmL1 p enter => Sys2Proof.Machine.execAspmL1 p enter s
  | .sqEnable p ring v => Sys2Proof.Machine.execSqEnable p ring v s
  | .sqDisable p ring v => Sys2Proof.Machine.execSqDisable p ring v s
  | .cqEnable p ring v => Sys2Proof.Machine.execCqEnable p ring v s
  | .cqDisable p ring v => Sys2Proof.Machine.execCqDisable p ring v s
  | .attentionAck p => Sys2Proof.Machine.execAttentionAck p s
  | .fltAck v => Sys2Proof.Machine.execFltAck v s
  | .deckOwnerWrite deck v => Sys2Proof.Machine.execDeckOwnerWrite deck v s
  | .deckOwnerChange deck => Sys2Proof.Machine.execDeckOwnerChange deck s
  | .pwrCfgWrite v => Sys2Proof.Machine.execPwrCfgWrite v s
  | .injCtrlArm v => Sys2Proof.Machine.execInjCtrlArm v s
  | .injLock v => Sys2Proof.Machine.execInjLock v s
  | .selftestGo v => Sys2Proof.Machine.execSelftestGo v s
  | .ptCommitGo v => Sys2Proof.Machine.execPtCommitGo v s
  | .partitionTableApply => Sys2Proof.Machine.execPartitionTableApply s
  | .regionDormantEntry r v => Sys2Proof.Machine.execRegionDormantEntry r v s
  | .regionDormantExit r v => Sys2Proof.Machine.execRegionDormantExit r v s
  | .hibernateEntry => Sys2Proof.Machine.execHibernateEntry s
  | .hibernateExit => Sys2Proof.Machine.execHibernateExit s
  | .rcRegisterRead src da size => Sys2Proof.Machine.execRcRegisterRead src da size s
  | .latchedHighRead p offset => Sys2Proof.Machine.execLatchedHighRead p offset s
  | .registerWrite p bar offset size v => Sys2Proof.Machine.execRegisterWrite p bar offset size v s
  | .regRead da size => Sys2Proof.Machine.execRegRead da size s
  | .regWrite da size v => Sys2Proof.Machine.execRegWrite da size v s
  | .dumpRead da len => Sys2Proof.Machine.execDumpRead da len s
  | .deviceResetMessage up => Sys2Proof.Machine.execDeviceResetMessage up s
  | .status => Sys2Proof.Machine.execStatus s
  | .lcTransition target lc up => Sys2Proof.Machine.execLcTransition target lc up s
  | .eraseAll => Sys2Proof.Machine.execEraseAll s
  | .keySet slot owner key => Sys2Proof.Machine.execKeySet slot owner key s
  | .keyClear slot => Sys2Proof.Machine.execKeyClear slot s
  | .keyRevoke index => Sys2Proof.Machine.execKeyRevoke index s
  | .certWrite cert => Sys2Proof.Machine.execCertWrite cert s
  | .mctpControl code data => Sys2Proof.Machine.execMctpControl code data s
  | .smbusFallback => Sys2Proof.Machine.execSmbusFallback s
  | .getSensorReading sensor events => Sys2Proof.Machine.execGetSensorReading sensor events s
  | .requestUpdate imageBytes => Sys2Proof.Machine.execRequestUpdate imageBytes s
  | .requestFirmwareData offset data last => Sys2Proof.Machine.execRequestFirmwareData offset data last s
  | .applyComplete ok => Sys2Proof.Machine.execApplyComplete ok s
  | .activateFirmware up => Sys2Proof.Machine.execActivateFirmware up s
  | .fuseBlow => Sys2Proof.Machine.execFuseBlow s
  | .aliasCertSign => Sys2Proof.Machine.execAliasCertSign s
  | .getVersion => Sys2Proof.Machine.execGetVersion s
  | .getCapabilities => Sys2Proof.Machine.execGetCapabilities s
  | .negotiateAlgorithms hash asym ext => Sys2Proof.Machine.execNegotiateAlgorithms hash asym ext s
  | .getDigests => Sys2Proof.Machine.execGetDigests s
  | .getCertificate slot offset len => Sys2Proof.Machine.execGetCertificate slot offset len s
  | .challenge nonce => Sys2Proof.Machine.execChallenge nonce s
  | .getMeasurements index signed nonce => Sys2Proof.Machine.execGetMeasurements index signed nonce s
  | .respondIfReady token => Sys2Proof.Machine.execRespondIfReady token s
  | .timeFreqRestored => Sys2Proof.Machine.execTimeFreqRestored s
  | .commandCompletionWatchdog core => Sys2Proof.Machine.execCommandCompletionWatchdog core s
  | .managementWatchdogExpiry => Sys2Proof.Machine.execManagementWatchdogExpiry s
  | .jtagInstruction instr => Sys2Proof.Machine.execJtagInstruction instr s
  | .hostReadCompletion p addr data => Sys2Proof.Machine.execHostReadCompletion p addr data s
  | .dynamicAddressAssignment addr => Sys2Proof.Machine.execDynamicAddressAssignment addr s

end Sys2Proof.Machine
end

