-- ==== Sys2Proof/Machine/Tick.lean ====
section
/-!
DEFINITION. Sys2Proof/Machine/Tick.lean: what the block does when no command waits.
-/
namespace Sys2Proof.Machine

/-- An idle tick: device time advances 1 ns (R31; log entry 1, DESIGN CHOICE). A block that has tripped (R392) or stands
at L3 (R401; log entry 30, DEDUCED) does not tick. -/
def idleTick (s : State) : State :=
  if s.latches.tripped || s.latches.l3 then s else { s with time := { s.time with now := s.time.now + 1 } }

end Sys2Proof.Machine
end

