-- ==== Sys2Proof/Laws/Stable.lean ====
section
/-!
SUPPORT. Sys2Proof/Laws/Stable.lean: the part of the state that next to nothing changes, as one bundle, and the lemmas by which
`simp` carries it through updates, choices and folds. The lemma of a function f is named f_stable.
-/
namespace Sys2Proof.Machine

/-- What every command leaves alone but a few: the queue, the grade, the trip latch, the running image, the fuses, the key store and the
flash. -/
structure Stable where
  pending : List Instr
  grade : Grade
  tripped : Bool
  boot : Boot
  fuses : Fuses
  verm : Vermilion
  flash : SMap Byte

def State.stable (s : State) : Stable :=
  { pending := s.pending, grade := s.grade, tripped := s.latches.tripped, boot := s.boot, fuses := s.fuses, verm := s.verm, flash := s.flash }

/-- Equal bundles, field by field. -/
theorem stable_iff {s t : State} : t.stable = s.stable ↔
    t.pending = s.pending ∧ t.grade = s.grade ∧ t.latches.tripped = s.latches.tripped ∧ t.boot = s.boot ∧ t.fuses = s.fuses ∧
    t.verm = s.verm ∧ t.flash = s.flash := by
  simp [State.stable]

/-- An update of other fields. -/
@[simp] theorem update_stable {s : State}
    {freeCtr' out' time' frame' hub' ports' parts' overloadBeat' cmds' nextCmd' streams' slots' plans' runs' barriers'
     corpora' batches' installs' staging' cores' coreMap' phys' snaps' adoptions' retireDue' deckOwner' ownerPending'
     regions' power' faults' config' mgmt'} :
    (State.mk
      s.pending freeCtr' out' s.grade s.latches s.boot time' frame' hub' ports' parts' overloadBeat' cmds' nextCmd' streams'
      slots' plans' runs' barriers' corpora' batches' installs' staging' cores' coreMap' phys' snaps' adoptions' retireDue'
      deckOwner' ownerPending' regions' power' faults' config' s.fuses s.verm mgmt' s.flash).stable = s.stable := (rfl)

/-- An update of other fields and of other latches. -/
@[simp] theorem update_latches_stable {s : State}
    {l3 fa al freeCtr' out' time' frame' hub' ports' parts' overloadBeat' cmds' nextCmd' streams' slots' plans' runs'
     barriers' corpora' batches' installs' staging' cores' coreMap' phys' snaps' adoptions' retireDue' deckOwner'
     ownerPending' regions' power' faults' config' mgmt'} :
    (State.mk
      s.pending freeCtr' out' s.grade (Latches.mk s.latches.tripped l3 fa al) s.boot time' frame' hub' ports' parts'
      overloadBeat' cmds' nextCmd' streams' slots' plans' runs' barriers' corpora' batches' installs' staging' cores' coreMap'
      phys' snaps' adoptions' retireDue' deckOwner' ownerPending' regions' power' faults' config' s.fuses s.verm mgmt' s.flash).stable = s.stable := (rfl)

/-- What even a reset leaves alone: the queue, the grade, the fuses and the flash. -/
def Stable.lasting (x : Stable) : List Instr × Grade × Fuses × SMap Byte := (x.pending, x.grade, x.fuses, x.flash)

/-- Equal lasting parts, field by field. -/
theorem lasting_iff {s t : State} : t.stable.lasting = s.stable.lasting ↔
    t.pending = s.pending ∧ t.grade = s.grade ∧ t.fuses = s.fuses ∧ t.flash = s.flash := by
  simp [State.stable, Stable.lasting]

/-- An update that leaves the lasting part. -/
@[simp] theorem update_lasting {s : State}
    {latches' boot' verm' freeCtr' out' time' frame' hub' ports' parts' overloadBeat' cmds' nextCmd' streams' slots' plans' runs'
     barriers' corpora' batches' installs' staging' cores' coreMap' phys' snaps' adoptions' retireDue' deckOwner'
     ownerPending' regions' power' faults' config' mgmt'} :
    (State.mk
      s.pending freeCtr' out' s.grade latches' boot' time' frame' hub' ports' parts'
      overloadBeat' cmds' nextCmd' streams' slots' plans' runs' barriers' corpora' batches' installs' staging' cores' coreMap'
      phys' snaps' adoptions' retireDue' deckOwner' ownerPending' regions' power' faults' config' s.fuses verm' mgmt' s.flash).stable.lasting = s.stable.lasting := (rfl)

/-- What a device reset leaves alone: the lasting part, the trip latch and the install keys. -/
def Stable.held (x : Stable) : (List Instr × Grade × Fuses × SMap Byte) × Bool × SMap (Option (List Byte × Nat)) :=
  (x.lasting, x.tripped, x.verm.slots)

/-- Equal held parts. -/
theorem held_iff {s t : State} : t.stable.held = s.stable.held ↔
    t.stable.lasting = s.stable.lasting ∧ t.latches.tripped = s.latches.tripped ∧ t.verm.slots = s.verm.slots := by
  simp [State.stable, Stable.held]

/-- An update that leaves the install keys. -/
@[simp] theorem update_keys_held {s : State}
    {idk alk cert boot' freeCtr' out' time' frame' hub' ports' parts' overloadBeat' cmds' nextCmd' streams' slots' plans' runs'
     barriers' corpora' batches' installs' staging' cores' coreMap' phys' snaps' adoptions' retireDue' deckOwner'
     ownerPending' regions' power' faults' config' mgmt'} :
    (State.mk
      s.pending freeCtr' out' s.grade s.latches boot' time' frame' hub' ports' parts'
      overloadBeat' cmds' nextCmd' streams' slots' plans' runs' barriers' corpora' batches' installs' staging' cores' coreMap'
      phys' snaps' adoptions' retireDue' deckOwner' ownerPending' regions' power' faults' config' s.fuses (Vermilion.mk s.verm.slots idk alk cert) mgmt' s.flash).stable.held = s.stable.held := (rfl)

/-- An update of the running image. -/
@[simp] theorem update_boot_held {s : State}
    {boot' freeCtr' out' time' frame' hub' ports' parts' overloadBeat' cmds' nextCmd' streams' slots' plans' runs'
     barriers' corpora' batches' installs' staging' cores' coreMap' phys' snaps' adoptions' retireDue' deckOwner'
     ownerPending' regions' power' faults' config' mgmt'} :
    (State.mk
      s.pending freeCtr' out' s.grade s.latches boot' time' frame' hub' ports' parts'
      overloadBeat' cmds' nextCmd' streams' slots' plans' runs' barriers' corpora' batches' installs' staging' cores' coreMap'
      phys' snaps' adoptions' retireDue' deckOwner' ownerPending' regions' power' faults' config' s.fuses s.verm mgmt' s.flash).stable.held = s.stable.held := (rfl)

/-- An update of the running image and of other latches. -/
@[simp] theorem update_latches_held {s : State}
    {l3 fa al boot' freeCtr' out' time' frame' hub' ports' parts' overloadBeat' cmds' nextCmd' streams' slots' plans' runs'
     barriers' corpora' batches' installs' staging' cores' coreMap' phys' snaps' adoptions' retireDue' deckOwner'
     ownerPending' regions' power' faults' config' mgmt'} :
    (State.mk
      s.pending freeCtr' out' s.grade (Latches.mk s.latches.tripped l3 fa al) boot' time' frame' hub' ports' parts'
      overloadBeat' cmds' nextCmd' streams' slots' plans' runs' barriers' corpora' batches' installs' staging' cores' coreMap'
      phys' snaps' adoptions' retireDue' deckOwner' ownerPending' regions' power' faults' config' s.fuses s.verm mgmt' s.flash).stable.held = s.stable.held := (rfl)

@[simp] theorem ite_stable (c : Prop) [Decidable c] (a b : State) : (if c then a else b).stable = if c then a.stable else b.stable :=
  apply_ite _ _ _ _

/-- A fold of a step that keeps the bundle keeps it. -/
theorem foldl_stable {α : Type} {g : State → α → State} {x : Stable} (h : ∀ s a, (g s a).stable = s.stable) {l : List α} {s : State}
    (hs : s.stable = x) : (l.foldl g s).stable = x := by
  induction l generalizing s with
  | nil => exact hs
  | cons a l ih => exact ih (by rw [h, hs])

@[simp] theorem foldl_stable' {α : Type} (g : State → α → State) (h : ∀ s a, (g s a).stable = s.stable) (l : List α) (s : State) :
    (l.foldl g s).stable = s.stable := foldl_stable h rfl

end Sys2Proof.Machine
end

