-- ==== Sys2Proof/Laws/Frames.lean ====
section
/-!
SUPPORT. Sys2Proof/Laws/Frames.lean: for every operation on the state, that it keeps the bundle of Laws/Stable.lean: the queue, the
grade, the trip latch, the running image, the fuses, the key store and the flash. An operation that changes part of the bundle has its own
lemmas in Laws/Changes.lean.
-/
namespace Sys2Proof.Machine

/-- A fold carries along what each step keeps of it. -/
theorem foldl_keeps {α β γ : Type} (π : β → γ) {g : β → α → β} (h : ∀ b a, π (g b a) = π b) (l : List α) (b : β) :
    π (l.foldl g b) = π b := by
  induction l generalizing b with
  | nil => rfl
  | cons a l ih => exact (ih _).trans (h b a)

@[simp] theorem State.setCore_stable {x0 x1 x2} : (State.setCore x0 x1 x2).stable = x0.stable := by simp [State.setCore]
@[simp] theorem State.modCore_stable {x0 x1 x2} : (State.modCore x0 x1 x2).stable = x0.stable := by simp [State.modCore]
@[simp] theorem State.modTask_stable {x0 x1 x2 x3} : (State.modTask x0 x1 x2 x3).stable = x0.stable := by simp [State.modTask]
@[simp] theorem State.mapCores_stable {x0 x1} : (State.mapCores x0 x1).stable = x0.stable := by simp [State.mapCores]
@[simp] theorem State.setPort_stable {x0 x1 x2} : (State.setPort x0 x1 x2).stable = x0.stable := by simp [State.setPort]
@[simp] theorem State.setRegion_stable {x0 x1 x2} : (State.setRegion x0 x1 x2).stable = x0.stable := by simp [State.setRegion]
@[simp] theorem State.setDeck_stable {x0 x1 x2} : (State.setDeck x0 x1 x2).stable = x0.stable := by simp [State.setDeck]
@[simp] theorem State.setStream_stable {x0 x1 x2} : (State.setStream x0 x1 x2).stable = x0.stable := by simp [State.setStream]
@[simp] theorem State.setRun_stable {x0 x1 x2} : (State.setRun x0 x1 x2).stable = x0.stable := by simp [State.setRun]
@[simp] theorem State.endRun_stable {x0 x1} : (State.endRun x0 x1).stable = x0.stable := by simp [State.endRun]
@[simp] theorem State.setCorpus_stable {x0 x1 x2} : (State.setCorpus x0 x1 x2).stable = x0.stable := by simp [State.setCorpus]
@[simp] theorem State.setCmd_stable {x0 x1} : (State.setCmd x0 x1).stable = x0.stable := by simp [State.setCmd]
@[simp] theorem State.setPhys_stable {x0 x1 x2} : (State.setPhys x0 x1 x2).stable = x0.stable := by simp [State.setPhys]
@[simp] theorem State.setHub_stable {x0 x1 x2} : (State.setHub x0 x1 x2).stable = x0.stable := by simp [State.setHub]
@[simp] theorem State.hubOr_stable {x0 x1 x2} : (State.hubOr x0 x1 x2).stable = x0.stable := by simp [State.hubOr]
@[simp] theorem State.hubInc_stable {x0 x1 x2} : (State.hubInc x0 x1 x2).stable = x0.stable := by simp [State.hubInc]
@[simp] theorem State.setHub64_stable {x0 x1 x2} : (State.setHub64 x0 x1 x2).stable = x0.stable := by simp [State.setHub64]
@[simp] theorem State.advanceTo_stable {x0 x1} : (State.advanceTo x0 x1).stable = x0.stable := by simp [State.advanceTo]
@[simp] theorem State.tookFree_stable {x0} : (State.tookFree x0).stable = x0.stable := by simp [State.tookFree]
@[simp] theorem State.emit_stable {x0 x1} : (State.emit x0 x1).stable = x0.stable := by simp [State.emit]
@[simp] theorem State.answer_stable {x0 x1 x2} : (State.answer x0 x1 x2).stable = x0.stable := by simp [State.answer]
@[simp] theorem State.hostWrite_stable {x0 x1 x2 x3} : (State.hostWrite x0 x1 x2 x3).stable = x0.stable := by
  simp [State.hostWrite]
@[simp] theorem State.sendMsix_stable {x0 x1 x2} : (State.sendMsix x0 x1 x2).stable = x0.stable := by simp [State.sendMsix]
@[simp] theorem State.portEvent_stable {x0 x1 x2} : (State.portEvent x0 x1 x2).stable = x0.stable := by simp [State.portEvent]
@[simp] theorem State.portEvents_stable {x0 x1 x2} : (State.portEvents x0 x1 x2).stable = x0.stable := by
  simp [State.portEvents]
@[simp] theorem State.setFaultInst_stable {x0 x1} : (State.setFaultInst x0 x1).stable = x0.stable := by
  simp [State.setFaultInst]
@[simp] theorem State.countEvent_stable {x0 x1 x2} : (State.countEvent x0 x1 x2).stable = x0.stable := by
  simp [State.countEvent]
@[simp] theorem State.reportAttention_stable {x0 x1 x2 x3} : (State.reportAttention x0 x1 x2 x3).stable = x0.stable := by
  simp [State.reportAttention]
@[simp] theorem State.aerOn_stable {x0 x1 x2} : (State.aerOn x0 x1 x2).stable = x0.stable := by simp [State.aerOn]
@[simp] theorem State.fatal_stable {x0 x1} : (State.fatal x0 x1).stable = x0.stable := by simp [State.fatal]
@[simp] theorem State.severeReport_stable {x0 x1 x2} : (State.severeReport x0 x1 x2).stable = x0.stable := by
  simp [State.severeReport]
@[simp] theorem State.severeEnd_stable {x0 x1 x2} : (State.severeEnd x0 x1 x2).stable = x0.stable := by simp [State.severeEnd]
@[simp] theorem State.recordEvent_stable {x0 x1 x2 x3} : (State.recordEvent x0 x1 x2 x3).1.stable = x0.stable := by
  unfold State.recordEvent
  repeat' first | (simp; done) | split | (refine foldl_stable (fun _ _ => ?_) ?_) | simp only [ite_stable]
@[simp] theorem State.reportOnly_stable {x0 x1 x2 x3} : (State.reportOnly x0 x1 x2 x3).stable = x0.stable := by
  simp [State.reportOnly]
@[simp] theorem State.ackEvents_stable {x0 x1} : (State.ackEvents x0 x1).stable = x0.stable := by simp [State.ackEvents]
@[simp] theorem State.measured_stable {x0 x1 x2} : (State.measured x0 x1 x2).stable = x0.stable := by simp [State.measured]
@[simp] theorem State.lockAt_stable {x0 x1} : (State.lockAt x0 x1).stable = x0.stable := by simp [State.lockAt]
@[simp] theorem State.acquire_stable {x0} : (State.acquire x0).stable = x0.stable := by simp [State.acquire]
@[simp] theorem State.rejectEdge_stable {x0} : (State.rejectEdge x0).stable = x0.stable := by simp [State.rejectEdge]
@[simp] theorem State.acceptEdge_stable {x0 x1 x2} : (State.acceptEdge x0 x1 x2).stable = x0.stable := by simp [State.acceptEdge]
@[simp] theorem State.acceptAcquiring_stable {x0 x1 x2 x3 x4} : (State.acceptAcquiring x0 x1 x2 x3 x4).stable = x0.stable := by
  simp [State.acceptAcquiring]
@[simp] theorem ppsEdge_stable {x0 x1 x2} : (ppsEdge x0 x1 x2).stable = x2.stable := by
  unfold ppsEdge
  repeat' first | (simp; done) | split | (refine foldl_stable (fun _ _ => ?_) ?_) | simp only [ite_stable]
@[simp] theorem ptmDialog_stable {x0 x1 x2 x3} : (ptmDialog x0 x1 x2 x3).stable = x3.stable := by simp [ptmDialog]
@[simp] theorem timeFreqLost_stable {x0} : (timeFreqLost x0).stable = x0.stable := by simp [timeFreqLost]
@[simp] theorem timeFreqRestored_stable {x0} : (timeFreqRestored x0).stable = x0.stable := by simp [timeFreqRestored]
@[simp] theorem State.timeFault_stable {x0} : (State.timeFault x0).stable = x0.stable := by simp [State.timeFault]
@[simp] theorem holdoverEntered_stable {x0} : (holdoverEntered x0).stable = x0.stable := by simp [holdoverEntered]
@[simp] theorem holdoverExpired_stable {x0} : (holdoverExpired x0).stable = x0.stable := by
  unfold holdoverExpired
  repeat' first | (simp; done) | split | (refine foldl_stable (fun _ _ => ?_) ?_) | simp only [ite_stable]
@[simp] theorem timeCtrlWrite_stable {x0 x1} : (timeCtrlWrite x0 x1).stable = x1.stable := by simp [timeCtrlWrite]
@[simp] theorem State.applyTimeCtrl_stable {x0} : (State.applyTimeCtrl x0).stable = x0.stable := by
  unfold State.applyTimeCtrl
  repeat' first | (simp; done) | split | (refine foldl_stable (fun _ _ => ?_) ?_) | simp only [ite_stable]
@[simp] theorem sourceChange_stable {x0} : (sourceChange x0).stable = x0.stable := by
  unfold sourceChange
  repeat' first | (simp; done) | split | (refine foldl_stable (fun _ _ => ?_) ?_) | simp only [ite_stable]
@[simp] theorem State.frameError_stable {x0 x1} : (State.frameError x0 x1).stable = x0.stable := by simp [State.frameError]
@[simp] theorem beatLenWrite_stable {x0 x1} : (beatLenWrite x0 x1).stable = x1.stable := by simp [beatLenWrite]
@[simp] theorem beatLenChange_stable {x0} : (beatLenChange x0).stable = x0.stable := by
  unfold beatLenChange
  repeat' first | (simp; done) | split | (refine foldl_stable (fun _ _ => ?_) ?_) | simp only [ite_stable]
@[simp] theorem frameCommitGo_stable {x0 x1} : (frameCommitGo x0 x1).stable = x1.stable := by simp [frameCommitGo]
@[simp] theorem frameSwitch_stable {x0} : (frameSwitch x0).stable = x0.stable := by
  unfold frameSwitch
  repeat' first | (simp; done) | split | (refine foldl_stable (fun _ _ => ?_) ?_) | simp only [ite_stable]
@[simp] theorem State.startFrame_stable {x0} : (State.startFrame x0).1.stable = x0.stable := by
  unfold State.startFrame
  repeat' first | (simp; done) | split | (refine foldl_stable (fun _ _ => ?_) ?_) | simp only [ite_stable]
@[simp] theorem State.addRepair_stable {x0 x1 x2} : (State.addRepair x0 x1 x2).stable = x0.stable := by simp [State.addRepair]
@[simp] theorem State.putSwaps_stable {x0 x1} : (State.putSwaps x0 x1).stable = x0.stable := by simp [State.putSwaps]
@[simp] theorem State.putOwners_stable {x0 x1} : (State.putOwners x0 x1).stable = x0.stable := by simp [State.putOwners]
@[simp] theorem State.breakUnit_stable {x0 x1} : (State.breakUnit x0 x1).stable = x0.stable := by
  unfold State.breakUnit
  repeat' first | (simp; done) | split | (refine foldl_stable (fun _ _ => ?_) ?_) | simp only [ite_stable]
@[simp] theorem State.restartBatches_stable {x0 x1} : (State.restartBatches x0 x1).stable = x0.stable := by simp [State.restartBatches]
@[simp] theorem State.breakUnits_stable {x0 x1} : (State.breakUnits x0 x1).stable = x0.stable := by simp [State.breakUnits]
@[simp] theorem State.failRegionRuns_stable {x0 x1 x2} : (State.failRegionRuns x0 x1 x2).stable = x0.stable := by
  simp [State.failRegionRuns]
@[simp] theorem State.failRegionCmds_stable {x0 x1 x2} : (State.failRegionCmds x0 x1 x2).stable = x0.stable := by
  simp [State.failRegionCmds]
@[simp] theorem State.cutDecks_stable {x0 x1 x2} : (State.cutDecks x0 x1 x2).stable = x0.stable := by simp [State.cutDecks]
@[simp] theorem State.cutAndCount_stable {x0 x1 x2} : (State.cutAndCount x0 x1 x2).stable = x0.stable := by simp [State.cutAndCount]
@[simp] theorem State.regionOut_stable {x0 x1} : (State.regionOut x0 x1).stable = x0.stable := by simp [State.regionOut]
@[simp] theorem State.retireCore_stable {x0 x1 x2} : (State.retireCore x0 x1 x2).stable = x0.stable := by
  unfold State.retireCore
  repeat' first | (simp; done) | split | (refine foldl_stable (fun _ _ => ?_) ?_) | simp only [ite_stable]
@[simp] theorem State.retireLater_stable {x0 x1 x2} : (State.retireLater x0 x1 x2).stable = x0.stable := by
  unfold State.retireLater
  repeat' first | (simp; done) | split | (refine foldl_stable (fun _ _ => ?_) ?_) | simp only [ite_stable]
@[simp] theorem State.loseDcm_stable {x0 x1 x2} : (State.loseDcm x0 x1 x2).stable = x0.stable := by simp [State.loseDcm]
@[simp] theorem State.softRepair_stable {x0 x1 x2 x3 x4} : (State.softRepair x0 x1 x2 x3 x4).stable = x0.stable := by
  simp [State.softRepair]
@[simp] theorem State.serveRefresh_stable {x0 x1 x2} : (State.serveRefresh x0 x1 x2).stable = x0.stable := by
  unfold State.serveRefresh
  repeat' first | (simp; done) | split | (refine foldl_stable (fun _ _ => ?_) ?_) | simp only [ite_stable]
@[simp] theorem State.scheduleRefresh_stable {x0 x1} : (State.scheduleRefresh x0 x1).stable = x0.stable := by
  simp [State.scheduleRefresh]
@[simp] theorem State.wearRetire_stable {x0 x1} : (State.wearRetire x0 x1).stable = x0.stable := by simp [State.wearRetire]
@[simp] theorem State.abandonRefresh_stable {x0 x1} : (State.abandonRefresh x0 x1).stable = x0.stable := by
  unfold State.abandonRefresh
  repeat' first | (simp; done) | split | (refine foldl_stable (fun _ _ => ?_) ?_) | simp only [ite_stable]
@[simp] theorem State.standIn_stable {x0 x1} : (State.standIn x0 x1).stable = x0.stable := by simp [State.standIn]
@[simp] theorem State.retireDeck_stable {x0 x1} : (State.retireDeck x0 x1).stable = x0.stable := by simp [State.retireDeck]
@[simp] theorem State.converterFailed_stable {x0 x1 x2} : (State.converterFailed x0 x1 x2).stable = x0.stable := by
  simp [State.converterFailed]
@[simp] theorem State.handleSevere_stable {x0 x1 x2} : (State.handleSevere x0 x1 x2).stable = x0.stable := by
  unfold State.handleSevere
  repeat' first | (simp; done) | split | (refine foldl_stable (fun _ _ => ?_) ?_) | simp only [ite_stable]
@[simp] theorem State.faultEvent_stable {x0 x1 x2 x3} : (State.faultEvent x0 x1 x2 x3).stable = x0.stable := by
  simp [State.faultEvent]
@[simp] theorem State.snapUnit_stable {x0 x1} : (State.snapUnit x0 x1).stable = x0.stable := by
  unfold State.snapUnit
  repeat' first | (simp; done) | split | (refine foldl_stable (fun _ _ => ?_) ?_) | simp only [ite_stable]
@[simp] theorem State.arriveBarrier_stable {x0 x1 x2 x3 x4} : (State.arriveBarrier x0 x1 x2 x3 x4).stable = x0.stable := by
  unfold State.arriveBarrier
  repeat' first | (simp; done) | split | (refine foldl_stable (fun _ _ => ?_) ?_) | simp only [ite_stable]
@[simp] theorem State.applyFx_stable {x0 x1 x2 x3 x4} : (State.applyFx x0 x1 x2 x3 x4).stable = x0.stable := by
  unfold State.applyFx
  repeat' first | (simp; done) | split | (refine foldl_stable (fun _ _ => ?_) ?_) | simp only [ite_stable]
@[simp] theorem State.applyFxs_stable {x0 x1 x2 x3 x4} : (State.applyFxs x0 x1 x2 x3 x4).stable = x0.stable := by
  simp [State.applyFxs]
@[simp] theorem State.finishCmd_stable {x0 x1 x2} : (State.finishCmd x0 x1 x2).stable = x0.stable := by simp [State.finishCmd]
@[simp] theorem State.failCmd_stable {x0 x1 x2} : (State.failCmd x0 x1 x2).stable = x0.stable := by simp [State.failCmd]
@[simp] theorem State.discardCmd_stable {x0 x1} : (State.discardCmd x0 x1).stable = x0.stable := by simp [State.discardCmd]
@[simp] theorem State.consumeInjection_stable {x0} : (State.consumeInjection x0).stable = x0.stable := by
  simp [State.consumeInjection]
@[simp] theorem State.stayCmd_stable {x0 x1 x2} : (State.stayCmd x0 x1 x2).stable = x0.stable := by
  unfold State.stayCmd
  repeat' first | (simp; done) | split | (refine foldl_stable (fun _ _ => ?_) ?_) | simp only [ite_stable]
@[simp] theorem State.sees_stable {x0 x1 x2 x3} : (State.sees x0 x1 x2 x3).stable = x0.stable := by
  unfold State.sees
  repeat' first | (simp; done) | split | (refine foldl_stable (fun _ _ => ?_) ?_) | simp only [ite_stable]
@[simp] theorem State.issue_stable {x0 x1 x2 x3 x4 x5 x6 x7} : (State.issue x0 x1 x2 x3 x4 x5 x6 x7).stable = x7.stable := by
  unfold State.issue
  repeat' first | (simp; done) | split | (refine foldl_stable (fun _ _ => ?_) ?_) | simp only [ite_stable]
@[simp] theorem State.issueSpad_stable {x0 x1 x2 x3 x4 x5 x6} : (State.issueSpad x0 x1 x2 x3 x4 x5 x6).stable = x6.stable := by
  simp [State.issueSpad]
@[simp] theorem State.stageFrom_stable {x0} : (State.stageFrom x0).stable = x0.stable := by simp [State.stageFrom]
@[simp] theorem ptCommitGo_stable {x0 x1} : (ptCommitGo x0 x1).stable = x1.stable := by simp [ptCommitGo]
@[simp] theorem State.applyTable_stable {x0} : (State.applyTable x0).stable = x0.stable := by
  unfold State.applyTable
  repeat' first | (simp; done) | split | (refine foldl_stable (fun _ _ => ?_) ?_) | simp only [ite_stable]
@[simp] theorem partitionTableApply_stable {x0} : (partitionTableApply x0).stable = x0.stable := by simp [partitionTableApply]
@[simp] theorem certWrite_stable {x0 x1} : (certWrite x0 x1).stable = x1.stable := by simp [certWrite]
@[simp] theorem requestUpdate_stable {x0 x1} : (requestUpdate x0 x1).stable = x1.stable := by
  unfold requestUpdate
  repeat' first | (simp; done) | split | (refine foldl_stable (fun _ _ => ?_) ?_) | simp only [ite_stable]
@[simp] theorem requestFirmwareData_stable {x0 x1 x2 x3} : (requestFirmwareData x0 x1 x2 x3).stable = x3.stable := by
  unfold requestFirmwareData
  repeat' first | (simp; done) | split | (refine foldl_stable (fun _ _ => ?_) ?_) | simp only [ite_stable]
@[simp] theorem State.notReady_stable {x0 x1 x2} : (State.notReady x0 x1 x2).stable = x0.stable := by simp [State.notReady]
@[simp] theorem State.signedAnswer_stable {x0 x1 x2} : (State.signedAnswer x0 x1 x2).stable = x0.stable := by
  simp [State.signedAnswer]
@[simp] theorem spdmServe_stable {x0 x1 x2} : (spdmServe x0 x1 x2).stable = x2.stable := by
  unfold spdmServe
  repeat' first | (simp; done) | split | (refine foldl_stable (fun _ _ => ?_) ?_) | simp only [ite_stable]
@[simp] theorem getVersion_stable {x0} : (getVersion x0).stable = x0.stable := by simp [getVersion]
@[simp] theorem getCapabilities_stable {x0} : (getCapabilities x0).stable = x0.stable := by simp [getCapabilities]
@[simp] theorem negotiateAlgorithms_stable {x0 x1} : (negotiateAlgorithms x0 x1).stable = x1.stable := by
  simp [negotiateAlgorithms]
@[simp] theorem getDigests_stable {x0} : (getDigests x0).stable = x0.stable := by simp [getDigests]
@[simp] theorem getCertificate_stable {x0 x1 x2 x3} : (getCertificate x0 x1 x2 x3).stable = x3.stable := by
  simp [getCertificate]
@[simp] theorem respondIfReady_stable {x0 x1} : (respondIfReady x0 x1).stable = x1.stable := by
  unfold respondIfReady
  repeat' first | (simp; done) | split | (refine foldl_stable (fun _ _ => ?_) ?_) | simp only [ite_stable]
@[simp] theorem getSensorReading_stable {x0 x1 x2} : (getSensorReading x0 x1 x2).stable = x2.stable := by
  unfold getSensorReading
  repeat' first | (simp; done) | split | (refine foldl_stable (fun _ _ => ?_) ?_) | simp only [ite_stable]
@[simp] theorem mctpControl_stable {x0 x1} : (mctpControl x0 x1).stable = x1.stable := by simp [mctpControl]
@[simp] theorem State.setSideband_stable {s b} : (State.setSideband s b).stable = s.stable := (rfl)
@[simp] theorem smbusFallback_stable {s} : (smbusFallback s).stable = s.stable := by
  unfold smbusFallback
  split
  · rfl
  · simp
@[simp] theorem dynamicAddress_stable {x0 x1} : (dynamicAddress x0 x1).stable = x1.stable := by simp [dynamicAddress]
@[simp] theorem State.zeroise_stable {s} : (State.zeroise s).stable = s.stable := by simp [State.zeroise]
@[simp] theorem managementWatchdogExpiry_stable {x0} : (managementWatchdogExpiry x0).stable = x0.stable := by
  simp [managementWatchdogExpiry]
@[simp] theorem State.programFail_stable {x0 x1 x2 x3} : (State.programFail x0 x1 x2 x3).stable = x0.stable := by
  unfold State.programFail
  repeat' first | (simp; done) | split | (refine foldl_stable (fun _ _ => ?_) ?_) | simp only [ite_stable]
@[simp] theorem pageProgram_stable {x0 x1 x2} : (pageProgram x0 x1 x2).stable = x2.stable := by
  unfold pageProgram
  repeat' first | (simp; done) | split | (refine foldl_stable (fun _ _ => ?_) ?_) | simp only [ite_stable]
@[simp] theorem State.serveRefreshIf_stable {x0 x1 x2} : (State.serveRefreshIf x0 x1 x2).stable = x0.stable := by
  simp [State.serveRefreshIf]
@[simp] theorem State.eraseEnd_stable {x0 x1 x2} : (State.eraseEnd x0 x1 x2).stable = x0.stable := by
  unfold State.eraseEnd
  repeat' first | (simp; done) | split | (refine foldl_stable (fun _ _ => ?_) ?_) | simp only [ite_stable]
@[simp] theorem State.patchLine_stable {x0 x1 x2} : (State.patchLine x0 x1 x2).stable = x0.stable := by
  unfold State.patchLine
  repeat' first | (simp; done) | split | (refine foldl_stable (fun _ _ => ?_) ?_) | simp only [ite_stable]
@[simp] theorem State.eraseRecord_stable {x0 x1 x2 x3} : (State.eraseRecord x0 x1 x2 x3).stable = x0.stable := by
  unfold State.eraseRecord
  repeat' first | (simp; done) | split | (refine foldl_stable (fun _ _ => ?_) ?_) | simp only [ite_stable]
@[simp] theorem State.erasePulseDone_stable {x0 x1 x2 x3} : (State.erasePulseDone x0 x1 x2 x3).stable = x0.stable := by
  unfold State.erasePulseDone
  repeat' first | (simp; done) | split | (refine foldl_stable (fun _ _ => ?_) ?_) | simp only [ite_stable]
@[simp] theorem State.trimColumns_stable {x0 x1} : (State.trimColumns x0 x1).stable = x0.stable := by
  unfold State.trimColumns
  repeat' first | (simp; done) | split | (refine foldl_stable (fun _ _ => ?_) ?_) | simp only [ite_stable]
@[simp] theorem State.trimDeck_stable {x0 x1 x2} : (State.trimDeck x0 x1 x2).stable = x0.stable := by
  unfold State.trimDeck
  repeat' first | (simp; done) | split | (refine foldl_stable (fun _ _ => ?_) ?_) | simp only [ite_stable]
@[simp] theorem State.retrimEnd_stable {x0 x1 x2 x3} : (State.retrimEnd x0 x1 x2 x3).stable = x0.stable := by
  unfold State.retrimEnd
  repeat' first | (simp; done) | split | (refine foldl_stable (fun _ _ => ?_) ?_) | simp only [ite_stable]
@[simp] theorem erasePulse_stable {x0 x1} : (erasePulse x0 x1).stable = x1.stable := by
  unfold erasePulse
  repeat' first | (simp; done) | split | (refine foldl_stable (fun _ _ => ?_) ?_) | simp only [ite_stable]
@[simp] theorem pumpGrant_stable {x0} : (pumpGrant x0).stable = x0.stable := by
  unfold pumpGrant
  repeat' first | (simp; done) | split | (refine foldl_stable (fun _ _ => ?_) ?_) | simp only [ite_stable]
@[simp] theorem State.snapWear_stable {x0} : (State.snapWear x0).stable = x0.stable := by simp [State.snapWear]
@[simp] theorem wearSnapshot_stable {x0} : (wearSnapshot x0).stable = x0.stable := by simp [wearSnapshot]
@[simp] theorem readVerify_stable {x0 x1 x2} : (readVerify x0 x1 x2).stable = x2.stable := by simp [readVerify]
@[simp] theorem refreshSwap_stable {x0 x1} : (refreshSwap x0 x1).stable = x1.stable := by
  unfold refreshSwap
  repeat' first | (simp; done) | split | (refine foldl_stable (fun _ _ => ?_) ?_) | simp only [ite_stable]
@[simp] theorem configStackCompaction_stable {x0 x1} : (configStackCompaction x0 x1).stable = x1.stable := by
  simp [configStackCompaction]
@[simp] theorem fullRetrim_stable {x0 x1 x2 x3} : (fullRetrim x0 x1 x2 x3).stable = x3.stable := by
  unfold fullRetrim
  repeat' first | (simp; done) | split | (refine foldl_stable (fun _ _ => ?_) ?_) | simp only [ite_stable]
@[simp] theorem rebuildComplete_stable {x0 x1} : (rebuildComplete x0 x1).stable = x1.stable := by
  unfold rebuildComplete
  repeat' first | (simp; done) | split | (refine foldl_stable (fun _ _ => ?_) ?_) | simp only [ite_stable]
@[simp] theorem deckOwnerWrite_stable {x0 x1 x2} : (deckOwnerWrite x0 x1 x2).stable = x2.stable := by simp [deckOwnerWrite]
@[simp] theorem deckOwnerChange_stable {x0 x1} : (deckOwnerChange x0 x1).stable = x1.stable := by
  unfold deckOwnerChange
  repeat' first | (simp; done) | split | (refine foldl_stable (fun _ _ => ?_) ?_) | simp only [ite_stable]
@[simp] theorem eraseAll_stable {x0} : (eraseAll x0).stable = x0.stable := by simp [eraseAll]
@[simp] theorem escalation_stable {x0 x1 x2} : (escalation x0 x1 x2).stable = x2.stable := by
  unfold escalation
  repeat' first | (simp; done) | split | (refine foldl_stable (fun _ _ => ?_) ?_) | simp only [ite_stable]
@[simp] theorem attentionAck_stable {x0 x1} : (attentionAck x0 x1).stable = x1.stable := by
  unfold attentionAck
  repeat' first | (simp; done) | split | (refine foldl_stable (fun _ _ => ?_) ?_) | simp only [ite_stable]
@[simp] theorem fltAck_stable {x0 x1} : (fltAck x0 x1).stable = x1.stable := by simp [fltAck]
@[simp] theorem replay_stable {x0 x1} : (replay x0 x1).stable = x1.stable := by
  unfold replay
  repeat' first | (simp; done) | split | (refine foldl_stable (fun _ _ => ?_) ?_) | simp only [ite_stable]
@[simp] theorem coreRetirement_stable {x0 x1} : (coreRetirement x0 x1).stable = x1.stable := by
  unfold coreRetirement
  repeat' first | (simp; done) | split | (refine foldl_stable (fun _ _ => ?_) ?_) | simp only [ite_stable]
@[simp] theorem spareCoreAdoption_stable {x0 x1} : (spareCoreAdoption x0 x1).stable = x1.stable := by
  unfold spareCoreAdoption
  repeat' first | (simp; done) | split | (refine foldl_stable (fun _ _ => ?_) ?_) | simp only [ite_stable]
@[simp] theorem commandCompletionWatchdog_stable {x0 x1} : (commandCompletionWatchdog x0 x1).stable = x1.stable := by
  simp [commandCompletionWatchdog]
@[simp] theorem linkFlitRetry_stable {x0 x1 x2} : (linkFlitRetry x0 x1 x2).stable = x2.stable := by simp [linkFlitRetry]
@[simp] theorem fltAlive_stable {x0} : (fltAlive x0).stable = x0.stable := by simp [fltAlive]
@[simp] theorem injCtrlArm_stable {x0 x1} : (injCtrlArm x0 x1).stable = x1.stable := by simp [injCtrlArm]
@[simp] theorem injLock_stable {x0 x1} : (injLock x0 x1).stable = x1.stable := by simp [injLock]
@[simp] theorem selftestGo_stable {x0 x1} : (selftestGo x0 x1).stable = x1.stable := by simp [selftestGo]
@[simp] theorem State.selftestFail_stable {x0 x1 x2 x3 x4 x5} : (State.selftestFail x0 x1 x2 x3 x4 x5).stable = x0.stable := by
  simp [State.selftestFail]
@[simp] theorem State.recordFail_stable {x0 x1} : (State.recordFail x0 x1).stable = x0.stable := by simp [State.recordFail]
@[simp] theorem State.countSlice_stable {x0 x1 x2} : (State.countSlice x0 x1 x2).stable = x0.stable := by simp [State.countSlice]
@[simp] theorem State.destroyTarget_stable {x0 x1 x2 x3 x4} : (State.destroyTarget x0 x1 x2 x3 x4).stable = x0.stable := by
  unfold State.destroyTarget
  repeat' first | (simp; done) | split
@[simp] theorem selftestSlice_stable {x0 x1 x2 x3 x4} : (selftestSlice x0 x1 x2 x3 x4).stable = x4.stable := by
  unfold selftestSlice
  repeat' first | (simp; done) | split | (refine foldl_stable (fun _ _ => ?_) ?_) | simp only [ite_stable]
@[simp] theorem State.remapRow_stable {x0 x1 x2 x3} : (State.remapRow x0 x1 x2 x3).stable = x0.stable := by
  simp [State.remapRow]
@[simp] theorem State.screeFail_stable {x0 x1 x2 x3} : (State.screeFail x0 x1 x2 x3).stable = x0.stable := by
  unfold State.screeFail
  repeat' first | (simp; done) | split | (refine foldl_stable (fun _ _ => ?_) ?_) | simp only [ite_stable]
@[simp] theorem screeRange_stable {x0 x1 x2 x3} : (screeRange x0 x1 x2 x3).stable = x3.stable := by
  unfold screeRange
  repeat' first | (simp; done) | split | (refine foldl_stable (fun _ _ => ?_) ?_) | simp only [ite_stable]
@[simp] theorem State.command_stable {x0 x1 x2} : (State.command x0 x1 x2).stable = x0.stable := by simp [State.command]
@[simp] theorem State.seekPoint_stable {x0 x1 x2} : (State.seekPoint x0 x1 x2).stable = x0.stable := by simp [State.seekPoint]
@[simp] theorem State.setLevels_stable {x0} : (State.setLevels x0).stable = x0.stable := by simp [State.setLevels]
@[simp] theorem cirqueEstimateUpdate_stable {x0 x1 x2} : (cirqueEstimateUpdate x0 x1 x2).stable = x2.stable := by
  unfold cirqueEstimateUpdate
  repeat' first | (simp; done) | split | (refine foldl_stable (fun _ _ => ?_) ?_) | simp only [ite_stable]
@[simp] theorem State.choose_stable {x0 x1 x2} : (State.choose x0 x1 x2).stable = x0.stable := by simp [State.choose]
@[simp] theorem State.disagree_stable {x0 x1 x2} : (State.disagree x0 x1 x2).stable = x0.stable := by simp [State.disagree]
@[simp] theorem State.remember_stable {s h n} : (State.remember s h n).stable = s.stable := (rfl)
@[simp] theorem cirqueBudgetEpoch_stable {l n s} : (cirqueBudgetEpoch l n s).stable = s.stable := by
  simp [cirqueBudgetEpoch]
@[simp] theorem conservativeEnd_stable {x0 x1} : (conservativeEnd x0 x1).stable = x1.stable := by
  unfold conservativeEnd
  repeat' first | (simp; done) | split | (refine foldl_stable (fun _ _ => ?_) ?_) | simp only [ite_stable]
@[simp] theorem pwrCfgWrite_stable {x0 x1} : (pwrCfgWrite x0 x1).stable = x1.stable := by simp [pwrCfgWrite]
@[simp] theorem State.applyPwrCfg_stable {x0} : (State.applyPwrCfg x0).stable = x0.stable := by
  unfold State.applyPwrCfg
  repeat' first | (simp; done) | split | (refine foldl_stable (fun _ _ => ?_) ?_) | simp only [ite_stable]
@[simp] theorem vfRaise_stable {x0 x1 x2 x3} : (vfRaise x0 x1 x2 x3).stable = x3.stable := by
  unfold vfRaise
  repeat' first | (simp; done) | split | (refine foldl_stable (fun _ _ => ?_) ?_) | simp only [ite_stable]
@[simp] theorem vfAbandon_stable {x0 x1} : (vfAbandon x0 x1).stable = x1.stable := by
  unfold vfAbandon
  repeat' first | (simp; done) | split | (refine foldl_stable (fun _ _ => ?_) ?_) | simp only [ite_stable]
@[simp] theorem vfLower_stable {x0 x1} : (vfLower x0 x1).stable = x1.stable := by
  unfold vfLower
  repeat' first | (simp; done) | split | (refine foldl_stable (fun _ _ => ?_) ?_) | simp only [ite_stable]
@[simp] theorem droop_stable {x0 x1 x2} : (droop x0 x1 x2).stable = x2.stable := by simp [droop]
@[simp] theorem droopRecovery_stable {x0 x1 x2} : (droopRecovery x0 x1 x2).stable = x2.stable := by
  unfold droopRecovery
  repeat' first | (simp; done) | split | (refine foldl_stable (fun _ _ => ?_) ?_) | simp only [ite_stable]
@[simp] theorem supplyDip_stable {x0 x1} : (supplyDip x0 x1).stable = x1.stable := by simp [supplyDip]
@[simp] theorem dipRecovery_stable {x0} : (dipRecovery x0).stable = x0.stable := by
  unfold dipRecovery
  repeat' first | (simp; done) | split | (refine foldl_stable (fun _ _ => ?_) ?_) | simp only [ite_stable]
@[simp] theorem pmbAlert_stable {x0 x1 x2} : (pmbAlert x0 x1 x2).stable = x2.stable := by simp [pmbAlert]
@[simp] theorem pmbusTelemetry_stable {x0 x1} : (pmbusTelemetry x0 x1).stable = x1.stable := by simp [pmbusTelemetry]
@[simp] theorem State.thermRegion_stable {x0 x1 x2} : (State.thermRegion x0 x1 x2).stable = x0.stable := by
  simp [State.thermRegion]
/-- Readings below the trip of R390 leave the bundle. -/
theorem temperatureRead_stable {x0 x1 x2} (cool : ∀ c ∈ x0 ++ x1, c < 120) : (temperatureRead x0 x1 x2).stable = x2.stable := by
  have h : ((x0 ++ x1).any fun c => decide (120 ≤ c)) = false := by
    rw [List.any_eq_false]
    intro c hc
    simpa using cool c hc
  unfold temperatureRead
  rw [h]
  simp
@[simp] theorem throttleStep_stable {x0 x1} : (throttleStep x0 x1).stable = x1.stable := by simp [throttleStep]
@[simp] theorem pwrBrake_stable {x0 x1} : (pwrBrake x0 x1).stable = x1.stable := by simp [pwrBrake]
@[simp] theorem brakeRelease_stable {x0} : (brakeRelease x0).stable = x0.stable := by simp [brakeRelease]
@[simp] theorem State.writeEntry_stable {x0 x1} : (State.writeEntry x0 x1).stable = x0.stable := by simp [State.writeEntry]
@[simp] theorem State.headWord_stable {x0 x1 x2} : (State.headWord x0 x1 x2).stable = x0.stable := by simp [State.headWord]
@[simp] theorem State.signal_stable {x0 x1 x2 x3} : (State.signal x0 x1 x2 x3).stable = x0.stable := by simp [State.signal]
@[simp] theorem State.writeEntries_stable {x0 x1} : (State.writeEntries x0 x1).stable = x0.stable := by
  simp [State.writeEntries]
@[simp] theorem State.countCompletion_stable {x0 x1 x2 x3} : (State.countCompletion x0 x1 x2 x3).stable = x0.stable := by
  simp [State.countCompletion]
@[simp] theorem State.bookOut_stable {x0 x1 x2} : (State.bookOut x0 x1 x2).stable = x0.stable := by
  unfold State.bookOut
  repeat' first | (simp; done) | split | (refine foldl_stable (fun _ _ => ?_) ?_) | simp only [ite_stable]
@[simp] theorem State.completeAll_stable {x0 x1} : (State.completeAll x0 x1).stable = x0.stable := by simp [State.completeAll]
@[simp] theorem State.complete_stable {x0 x1 x2} : (State.complete x0 x1 x2).stable = x0.stable := by simp [State.complete]
@[simp] theorem State.allocPage_stable {x0 x1} : (State.allocPage x0 x1).stable = x0.stable := by
  unfold State.allocPage
  repeat' first | (simp; done) | split | (refine foldl_stable (fun _ _ => ?_) ?_) | simp only [ite_stable]
@[simp] theorem State.admitStream_stable {x0 x1} : (State.admitStream x0 x1).stable = x0.stable := by
  unfold State.admitStream
  repeat' first | (simp; done) | split | (refine foldl_stable (fun _ _ => ?_) ?_) | simp only [ite_stable]
@[simp] theorem State.admitCmd_stable {x0 x1} : (State.admitCmd x0 x1).stable = x0.stable := by simp [State.admitCmd]
@[simp] theorem State.holdRing_stable {x0 x1 x2 x3} : (State.holdRing x0 x1 x2 x3).stable = x0.stable := by
  unfold State.holdRing
  repeat' first | (simp; done) | split | (refine foldl_stable (fun _ _ => ?_) ?_) | simp only [ite_stable]
@[simp] theorem State.passHead_stable {x0 x1 x2} : (State.passHead x0 x1 x2).stable = x0.stable := by simp [State.passHead]
@[simp] theorem State.reserve_stable {x0 x1 x2} : (State.reserve x0 x1 x2).stable = x0.stable := by simp [State.reserve]
@[simp] theorem State.doStats_stable {x0 x1} : (State.doStats x0 x1).1.stable = x0.stable := by simp [State.doStats]
@[simp] theorem State.examine_stable {x0 x1 x2} : (State.examine x0 x1 x2).1.stable = x0.stable := by
  unfold State.examine
  repeat' first | (simp; done) | split | (refine foldl_stable (fun _ _ => ?_) ?_) | simp only [ite_stable]
@[simp] theorem State.serveRing_stable {p n w a} : (State.serveRing p n w a).1.stable = a.1.stable := by
  induction w generalizing a with
  | zero => rfl
  | succ w ih =>
    obtain ⟨s, left, es⟩ := a
    simp only [State.serveRing]
    split
    · rfl
    · have h := State.examine_stable (x0 := s) (x1 := p) (x2 := n)
      split <;> rename_i e <;> simp only [e] at h
      · simpa [ih] using h
      · exact h
@[simp] theorem State.serveRound_stable {p order a} : (State.serveRound p order a).1.stable = a.1.stable :=
  foldl_keeps (fun b : State × Nat × List Entry => b.1.stable) (fun _ _ => State.serveRing_stable) order a
@[simp] theorem State.serveRounds_stable {p fuel order a} : (State.serveRounds p fuel order a).1.stable = a.1.stable := by
  induction fuel generalizing order a with
  | zero => rfl
  | succ f ih =>
    simp only [State.serveRounds]
    split
    · simp
    · simp [ih]
@[simp] theorem State.serveRings_stable {s p} : (State.serveRings s p).stable = s.stable := by
  simp only [State.serveRings]
  split
  · rfl
  · exact State.writeEntries_stable.trans (State.serveRounds_stable.trans State.setPort_stable)
@[simp] theorem State.poll_stable {s p} : (State.poll s p).stable = s.stable := by
  unfold State.poll
  exact foldl_stable (fun _ _ => State.headWord_stable) (State.serveRings_stable.trans State.setPort_stable)
@[simp] theorem State.send_stable {x0 x1 x2} : (State.send x0 x1 x2).stable = x0.stable := by
  unfold State.send
  repeat' first | (simp; done) | split | (refine foldl_stable (fun _ _ => ?_) ?_) | simp only [ite_stable]
@[simp] theorem State.flushPort_stable {x0 x1} : (State.flushPort x0 x1).stable = x0.stable := by simp [State.flushPort]
@[simp] theorem State.resumePort_stable {s p} : (State.resumePort s p).stable = s.stable := by simp [State.resumePort]
@[simp] theorem doorbellPoll_stable {p k s} : (doorbellPoll p k s).stable = s.stable := by
  simp [doorbellPoll]
@[simp] theorem msixCoalesceTimeout_stable {x0 x1 x2} : (msixCoalesceTimeout x0 x1 x2).stable = x2.stable := by
  simp [msixCoalesceTimeout]
@[simp] theorem State.setupError_stable {x0 x1 x2 x3} : (State.setupError x0 x1 x2 x3).stable = x0.stable := by
  simp [State.setupError]
@[simp] theorem State.writeSqCfg_stable {x0 x1 x2 x3} : (State.writeSqCfg x0 x1 x2 x3).stable = x0.stable := by
  simp [State.writeSqCfg]
@[simp] theorem State.writeCqCfg_stable {x0 x1 x2 x3} : (State.writeCqCfg x0 x1 x2 x3).stable = x0.stable := by
  simp [State.writeCqCfg]
@[simp] theorem sqEnable_stable {x0 x1 x2 x3} : (sqEnable x0 x1 x2 x3).stable = x3.stable := by simp [sqEnable]
@[simp] theorem sqDisable_stable {x0 x1 x2 x3} : (sqDisable x0 x1 x2 x3).stable = x3.stable := by simp [sqDisable]
@[simp] theorem cqEnable_stable {x0 x1 x2 x3} : (cqEnable x0 x1 x2 x3).stable = x3.stable := by simp [cqEnable]
@[simp] theorem cqDisable_stable {x0 x1 x2 x3} : (cqDisable x0 x1 x2 x3).stable = x3.stable := by simp [cqDisable]
@[simp] theorem hostReadCompletion_stable {x0 x1 x2 x3} : (hostReadCompletion x0 x1 x2 x3).stable = x3.stable := by
  simp [hostReadCompletion]
theorem State.hubStart_stable {s c t} (h : State.hubStart s c = some t) : t.stable = s.stable := by
  simp only [State.hubStart] at h
  split at h
  · cases h; simp
  · cases h
@[simp] theorem State.endAborted_stable {x0 x1 x2 x3} : (State.endAborted x0 x1 x2 x3).stable = x0.stable := by
  unfold State.endAborted
  repeat' first | (simp; done) | split | (refine foldl_stable (fun _ _ => ?_) ?_) | simp only [ite_stable]
@[simp] theorem State.trimPages_stable {x0 x1} : (State.trimPages x0 x1).stable = x0.stable := by simp [State.trimPages]
@[simp] theorem State.endGen_stable {x0 x1 x2 x3} : (State.endGen x0 x1 x2 x3).stable = x0.stable := by simp [State.endGen]
@[simp] theorem State.failGen_stable {x0 x1 x2} : (State.failGen x0 x1 x2).stable = x0.stable := by simp [State.failGen]
@[simp] theorem State.freeSlotOf_stable {x0 x1} : (State.freeSlotOf x0 x1).stable = x0.stable := by
  unfold State.freeSlotOf
  repeat' first | (simp; done) | split | (refine foldl_stable (fun _ _ => ?_) ?_) | simp only [ite_stable]
@[simp] theorem State.failStream_stable {x0 x1} : (State.failStream x0 x1).stable = x0.stable := by simp [State.failStream]
@[simp] theorem streamOpen_stable {id s} : (streamOpen id s).stable = s.stable := by
  unfold streamOpen
  split
  · rfl
  · split
    · rfl
    · rename_i h
      rw [← State.hubStart_stable h]
      split <;> simp
theorem State.reservePages_stable {s c t} (h : State.reservePages s c = some t) : t.stable = s.stable := by
  simp only [State.reservePages] at h
  split at h
  · cases h; simp
  · cases h
@[simp] theorem State.begin__stable {x0 x1} : (State.begin_ x0 x1).stable = x0.stable := by simp [State.begin_]
@[simp] theorem streamAppend_stable {id s} : (streamAppend id s).stable = s.stable := by
  simp only [streamAppend]
  split
  · rfl
  · split
    · rfl
    · split
      · simp
      · split
        · rfl
        · rename_i h
          rw [← State.reservePages_stable h]
          split
          · simp
          · split <;> simp
@[simp] theorem State.takeParams_stable {x0 x1} : (State.takeParams x0 x1).stable = x0.stable := by simp [State.takeParams]
@[simp] theorem streamGenerate_stable {id s} : (streamGenerate id s).stable = s.stable := by
  unfold streamGenerate
  split
  · rfl
  · rename_i c _
    have h : (match s.reservePages c with
        | some s => (s.takeParams c).begin_ c
        | none => s).stable = s.stable := by
      split
      · rename_i h
        rw [← State.reservePages_stable h]
        simp
      · rfl
    split
    · rfl
    · simp only [ite_stable]
      repeat' first | exact h | (simp; done) | split
@[simp] theorem State.unloadPlan_stable {x0 x1} : (State.unloadPlan x0 x1).stable = x0.stable := by
  unfold State.unloadPlan
  repeat' first | (simp; done) | split | (refine foldl_stable (fun _ _ => ?_) ?_) | simp only [ite_stable]
@[simp] theorem State.release_stable {x0 x1} : (State.release x0 x1).stable = x0.stable := by simp [State.release]
@[simp] theorem fence_stable {ring id s} : (fence ring id s).stable = s.stable := by
  unfold fence
  split
  · rfl
  · split
    · rfl
    · split
      · rfl
      · rename_i h
        rw [← State.hubStart_stable h]
        simp
@[simp] theorem timeWait_stable {id s} : (timeWait id s).stable = s.stable := by
  unfold timeWait
  split
  · rfl
  · split
    · rfl
    · rename_i h
      rw [← State.hubStart_stable h]
      simp
@[simp] theorem stats_stable {x0 x1} : (stats x0 x1).stable = x1.stable := by
  unfold stats
  repeat' first | (simp; done) | split | (refine foldl_stable (fun _ _ => ?_) ?_) | simp only [ite_stable]
@[simp] theorem copyIn_stable {x0 x1} : (copyIn x0 x1).stable = x1.stable := by
  unfold copyIn
  repeat' first | (simp; done) | split | (refine foldl_stable (fun _ _ => ?_) ?_) | simp only [ite_stable]
@[simp] theorem copyOut_stable {x0 x1} : (copyOut x0 x1).stable = x1.stable := by
  unfold copyOut
  repeat' first | (simp; done) | split | (refine foldl_stable (fun _ _ => ?_) ?_) | simp only [ite_stable]
@[simp] theorem State.startRun_stable {x0 x1 x2 x3 x4} : (State.startRun x0 x1 x2 x3 x4).stable = x0.stable := by
  simp [State.startRun]
@[simp] theorem State.stopRun_stable {x0 x1 x2} : (State.stopRun x0 x1 x2).stable = x0.stable := by simp [State.stopRun]
@[simp] theorem planRun_stable {x0 x1} : (planRun x0 x1).stable = x1.stable := by
  unfold planRun
  repeat' first | (simp; done) | split | (refine foldl_stable (fun _ _ => ?_) ?_) | simp only [ite_stable]
@[simp] theorem trainStep_stable {x0 x1} : (trainStep x0 x1).stable = x1.stable := by
  unfold trainStep
  repeat' first | (simp; done) | split | (refine foldl_stable (fun _ _ => ?_) ?_) | simp only [ite_stable]
@[simp] theorem runStart_stable {x0 x1} : (runStart x0 x1).stable = x1.stable := by
  unfold runStart
  repeat' first | (simp; done) | split | (refine foldl_stable (fun _ _ => ?_) ?_) | simp only [ite_stable]
@[simp] theorem pageAllocation_stable {x0 x1} : (pageAllocation x0 x1).stable = x1.stable := by
  unfold pageAllocation
  repeat' first | (simp; done) | split | (refine foldl_stable (fun _ _ => ?_) ?_) | simp only [ite_stable]
@[simp] theorem decodeRunStart_stable {x0 x1} : (decodeRunStart x0 x1).stable = x1.stable := by
  unfold decodeRunStart
  repeat' first | (simp; done) | split | (refine foldl_stable (fun _ _ => ?_) ?_) | simp only [ite_stable]
@[simp] theorem prefillChunk_stable {x0 x1} : (prefillChunk x0 x1).stable = x1.stable := by
  unfold prefillChunk
  repeat' first | (simp; done) | split | (refine foldl_stable (fun _ _ => ?_) ?_) | simp only [ite_stable]
@[simp] theorem stepStart_stable {x0 x1} : (stepStart x0 x1).stable = x1.stable := by
  unfold stepStart
  repeat' first | (simp; done) | split | (refine foldl_stable (fun _ _ => ?_) ?_) | simp only [ite_stable]
@[simp] theorem State.addUnits_stable {x0 x1 x2} : (State.addUnits x0 x1 x2).stable = x0.stable := by simp [State.addUnits]
@[simp] theorem State.writeWords_stable {x0 x1 x2} : (State.writeWords x0 x1 x2).stable = x0.stable := by
  unfold State.writeWords
  repeat' first | (simp; done) | split | (refine foldl_stable (fun _ _ => ?_) ?_) | simp only [ite_stable]
@[simp] theorem State.endTrain_stable {x0 x1 x2 x3} : (State.endTrain x0 x1 x2 x3).stable = x0.stable := by
  simp [State.endTrain]
@[simp] theorem State.endRunCmd_stable {x0 x1 x2 x3} : (State.endRunCmd x0 x1 x2 x3).stable = x0.stable := by
  simp [State.endRunCmd]
@[simp] theorem State.failRun_stable {x0 x1 x2 x3 x4} : (State.failRun x0 x1 x2 x3 x4).stable = x0.stable := by
  unfold State.failRun
  repeat' first | (simp; done) | split | (refine foldl_stable (fun _ _ => ?_) ?_) | simp only [ite_stable]
@[simp] theorem State.endNow_stable {x0 x1} : (State.endNow x0 x1).stable = x0.stable := by
  unfold State.endNow
  repeat' first | (simp; done) | split
@[simp] theorem streamClose_stable {id s} : (streamClose id s).stable = s.stable := by
  simp only [streamClose]
  split
  · rfl
  · split
    · rfl
    · rename_i t h
      have h : t.stable = s.stable := by
        split at h
        · cases h; exact State.advanceTo_stable
        · exact State.hubStart_stable h
      split
      · rfl
      · split <;> simp [h]
@[simp] theorem State.writeToken_stable {x0 x1 x2 x3} : (State.writeToken x0 x1 x2 x3).stable = x0.stable := by
  simp [State.writeToken]
@[simp] theorem State.deliver_stable {x0 x1 x2 x3} : (State.deliver x0 x1 x2 x3).stable = x0.stable := by
  unfold State.deliver
  repeat' first | (simp; done) | split | (refine foldl_stable (fun _ _ => ?_) ?_) | simp only [ite_stable]
@[simp] theorem State.cached_stable {x0 x1 x2} : (State.cached x0 x1 x2).stable = x0.stable := by simp [State.cached]
@[simp] theorem State.finishJoined_stable {x0 x1 x2 x3} : (State.finishJoined x0 x1 x2 x3).stable = x0.stable := by
  unfold State.finishJoined
  repeat' first | (simp; done) | split | (refine foldl_stable (fun _ _ => ?_) ?_) | simp only [ite_stable]
@[simp] theorem State.finishStep_stable {x0 x1 x2 x3} : (State.finishStep x0 x1 x2 x3).stable = x0.stable := by
  simp [State.finishStep]
@[simp] theorem stepComplete_stable {x0 x1} : (stepComplete x0 x1).stable = x1.stable := by
  unfold stepComplete
  repeat' first | (simp; done) | split | (refine foldl_stable (fun _ _ => ?_) ?_) | simp only [ite_stable]
@[simp] theorem runComplete_stable {x0 x1} : (runComplete x0 x1).stable = x1.stable := by
  unfold runComplete
  repeat' first | (simp; done) | split | (refine foldl_stable (fun _ _ => ?_) ?_) | simp only [ite_stable]
@[simp] theorem State.writeTables_stable {x0 x1 x2 x3} : (State.writeTables x0 x1 x2 x3).stable = x0.stable := by
  simp [State.writeTables]
@[simp] theorem State.setTomb_stable {x0 x1 x2} : (State.setTomb x0 x1 x2).stable = x0.stable := by
  unfold State.setTomb
  repeat' first | (simp; done) | split | (refine foldl_stable (fun _ _ => ?_) ?_) | simp only [ite_stable]
@[simp] theorem State.fitService_stable {x0 x1} : (State.fitService x0 x1).stable = x0.stable := by
  unfold State.fitService
  repeat' first | (simp; done) | split | (refine foldl_stable (fun _ _ => ?_) ?_) | simp only [ite_stable]
@[simp] theorem State.giveProgram_stable {x0 x1 x2 x3 x4 x5 x6} : (State.giveProgram x0 x1 x2 x3 x4 x5 x6).stable = x0.stable := by
  simp [State.giveProgram]
@[simp] theorem State.dropPrograms_stable {x0 x1} : (State.dropPrograms x0 x1).stable = x0.stable := by
  simp [State.dropPrograms]
@[simp] theorem State.eraseDecks_stable {x0 x1 x2} : (State.eraseDecks x0 x1 x2).stable = x0.stable := by
  simp [State.eraseDecks]
@[simp] theorem State.startInstall_stable {x0 x1} : (State.startInstall x0 x1).stable = x0.stable := by
  unfold State.startInstall
  repeat' first | (simp; done) | split | (refine foldl_stable (fun _ _ => ?_) ?_) | simp only [ite_stable]
@[simp] theorem State.endInstall_stable {x0 x1} : (State.endInstall x0 x1).stable = x0.stable := by simp [State.endInstall]
@[simp] theorem modelInstall_stable {x0 x1} : (modelInstall x0 x1).stable = x1.stable := by
  unfold modelInstall
  repeat' first | (simp; done) | split | (refine foldl_stable (fun _ _ => ?_) ?_) | simp only [ite_stable]
@[simp] theorem State.programVectors_stable {x0 x1 x2 x3} : (State.programVectors x0 x1 x2 x3).stable = x0.stable := by
  simp [State.programVectors]
@[simp] theorem State.programPackage_stable {x0 x1 x2} : (State.programPackage x0 x1 x2).stable = x0.stable := by
  unfold State.programPackage
  repeat' first | (simp; done) | split | (refine foldl_stable (fun _ _ => ?_) ?_) | simp only [ite_stable]
@[simp] theorem State.joinDecks_stable {s c decks tomb last} : (State.joinDecks s c decks tomb last).stable = s.stable := by
  simp only [State.joinDecks]
  split
  · rfl
  · exact State.setCorpus_stable.trans (foldl_keeps (fun b : State × Corpus × List (Nat × Nat) => b.1.stable) (fun _ _ => by simp) _ _)
@[simp] theorem State.settleProgram_stable {s c} : (State.settleProgram s c).stable = s.stable := by
  unfold State.settleProgram
  repeat' first | (simp; done) | split
@[simp] theorem State.failProgram_stable {x0 x1 x2} : (State.failProgram x0 x1 x2).stable = x0.stable := by
  unfold State.failProgram
  repeat' first | (simp; done) | split | (refine foldl_stable (fun _ _ => ?_) ?_) | simp only [ite_stable]
theorem State.programRow_stable {s c start} (h : ∀ s : State, (start s).stable = s.stable) : (State.programRow s c start).stable = s.stable := by
  unfold State.programRow
  repeat' first | (simp [h]; done) | split
@[simp] theorem corpusProgramNew_stable {id s} : (corpusProgramNew id s).stable = s.stable := by
  unfold corpusProgramNew
  split
  · rfl
  · refine State.programRow_stable fun s => ?_
    repeat' first | (simp; done) | split
@[simp] theorem corpusProgramCompact_stable {id s} : (corpusProgramCompact id s).stable = s.stable := by
  unfold corpusProgramCompact
  split
  · rfl
  · refine State.programRow_stable fun s => ?_
    split
    · simp
    · dsimp only
      split
      · simp
      · simp
      · simp
      · split <;> simp
@[simp] theorem corpusProgramAttach_stable {id s} : (corpusProgramAttach id s).stable = s.stable := by
  unfold corpusProgramAttach
  repeat' first | (simp; done) | split
@[simp] theorem State.addChange_stable {x0 x1 x2 x3 x4} : (State.addChange x0 x1 x2 x3 x4).stable = x0.stable := by
  simp [State.addChange]
@[simp] theorem corpusDeleteTomb_stable {x0 x1} : (corpusDeleteTomb x0 x1).stable = x1.stable := by
  unfold corpusDeleteTomb
  repeat' first | (simp; done) | split | (refine foldl_stable (fun _ _ => ?_) ?_) | simp only [ite_stable]
@[simp] theorem corpusDeleteErase_stable {x0 x1} : (corpusDeleteErase x0 x1).stable = x1.stable := by
  unfold corpusDeleteErase
  repeat' first | (simp; done) | split | (refine foldl_stable (fun _ _ => ?_) ?_) | simp only [ite_stable]
@[simp] theorem State.eraseRemoved_stable {x0 x1 x2} : (State.eraseRemoved x0 x1 x2).stable = x0.stable := by
  unfold State.eraseRemoved
  repeat' first | (simp; done) | split | (refine foldl_stable (fun _ _ => ?_) ?_) | simp only [ite_stable]
@[simp] theorem State.applyChange_stable {x0 x1 x2} : (State.applyChange x0 x1 x2).stable = x0.stable := by
  unfold State.applyChange
  repeat' first | (simp; done) | split | (refine foldl_stable (fun _ _ => ?_) ?_) | simp only [ite_stable]
@[simp] theorem corpusEpoch_stable {p s} : (corpusEpoch p s).stable = s.stable := by
  unfold corpusEpoch
  have h := foldl_stable (g := fun s c => State.settleProgram s c) (fun _ _ => State.settleProgram_stable)
    (l := s.cmds.filter fun c => c.op == 0x20 && c.part == p && decide (c.phase = .running)) (s := s) rfl
  split
  · rfl
  · dsimp only
    generalize (s.cmds.filter _).foldl _ s = t at h
    split
    · exact h
    · split
      · exact h
      · simp [h]
@[simp] theorem corpusMeasurement_stable {x0 x1} : (corpusMeasurement x0 x1).stable = x1.stable := by
  unfold corpusMeasurement
  repeat' first | (simp; done) | split | (refine foldl_stable (fun _ _ => ?_) ?_) | simp only [ite_stable]
@[simp] theorem State.fetchQuery_stable {x0 x1} : (State.fetchQuery x0 x1).stable = x0.stable := by simp [State.fetchQuery]
@[simp] theorem query_stable {x0 x1 x2} : (query x0 x1 x2).stable = x2.stable := by
  unfold query
  repeat' first | (simp; done) | split | (refine foldl_stable (fun _ _ => ?_) ?_) | simp only [ite_stable]
@[simp] theorem State.scanDeck_stable {s k q e n} : (State.scanDeck s k q e n).2.2.stable = s.stable := by simp [State.scanDeck]
@[simp] theorem State.scan_stable {s k q n} : (State.scan s k q n).2.2.stable = s.stable := by
  unfold State.scan
  refine foldl_keeps (fun b : List Hit × Grade2 × State => b.2.2.stable) (fun b a => ?_) _ (([] : List Hit), Grade2.none, s)
  simp
@[simp] theorem State.readColumn_stable {x0 x1 x2 x3} : (State.readColumn x0 x1 x2 x3).stable = x0.stable := by
  unfold State.readColumn
  repeat' first | (simp; done) | split | (refine foldl_stable (fun _ _ => ?_) ?_) | simp only [ite_stable]
@[simp] theorem State.serveQuery_stable {s k reads shift q} : (State.serveQuery s k reads shift q).1.stable = s.stable := by
  unfold State.serveQuery
  split <;> simp
@[simp] theorem State.answerQuery_stable {s k epoch reads shift q} : (State.answerQuery s k epoch reads shift q).1.stable = s.stable := by
  have h := @State.serveQuery_stable s k reads shift q
  unfold State.answerQuery
  generalize s.serveQuery k reads shift q = a at h
  obtain ⟨t, g, entries, bad⟩ := a
  cases bad <;> simp_all
@[simp] theorem State.countAborted_stable {x0 x1} : (State.countAborted x0 x1).stable = x0.stable := by
  unfold State.countAborted
  repeat' first | (simp; done) | split | (refine foldl_stable (fun _ _ => ?_) ?_) | simp only [ite_stable]
@[simp] theorem State.batchAnswer_stable {s k b reads shift q} : (State.batchAnswer s k b reads shift q).1.stable = s.stable := by
  unfold State.batchAnswer
  repeat' first | (simp; done) | split
@[simp] theorem batchStart_stable {x0 x1} : (batchStart x0 x1).stable = x1.stable := by
  unfold batchStart
  repeat' first | (simp; done) | split | (refine foldl_stable (fun _ _ => ?_) ?_) | simp only [ite_stable]
@[simp] theorem batchComplete_stable {p reads s} : (batchComplete p reads s).stable = s.stable := by
  unfold batchComplete
  split
  · split
    · rfl
    · simp only [State.setCorpus_stable, State.countAborted_stable, State.completeAll_stable]
      exact foldl_keeps (fun b : State × List (Cmd × Result) => b.1.stable) (fun _ _ => by simp) _ _
  · rfl
@[simp] theorem State.stageContainer_stable {x0 x1 x2} : (State.stageContainer x0 x1 x2).stable = x0.stable := by
  simp [State.stageContainer]
@[simp] theorem State.loadPlan_stable {x0 x1 x2 x3 x4 x5} : (State.loadPlan x0 x1 x2 x3 x4 x5).stable = x0.stable := by
  simp [State.loadPlan]
@[simp] theorem planLoad_stable {id s} : (planLoad id s).stable = s.stable := by
  simp only [planLoad]
  split
  · rfl
  · split
    · rfl
    · split
      · rfl
      · rename_i h
        rw [← State.hubStart_stable h]
        repeat' first | (simp; done) | split
@[simp] theorem State.failDeckCmds_stable {x0 x1 x2} : (State.failDeckCmds x0 x1 x2).stable = x0.stable := by
  simp [State.failDeckCmds]
@[simp] theorem State.failTileJobs_stable {x0 x1} : (State.failTileJobs x0 x1).stable = x0.stable := by
  unfold State.failTileJobs
  repeat' first | (simp; done) | split | (refine foldl_stable (fun _ _ => ?_) ?_) | simp only [ite_stable]
@[simp] theorem State.resumeRefresh_stable {x0 x1} : (State.resumeRefresh x0 x1).stable = x0.stable := by
  simp [State.resumeRefresh]
@[simp] theorem vddHvLoss_stable {x0} : (vddHvLoss x0).stable = x0.stable := by simp [vddHvLoss]
@[simp] theorem State.calibrate_stable {x0 x1} : (State.calibrate x0 x1).stable = x0.stable := by simp [State.calibrate]
@[simp] theorem State.calibrateFind_stable {x0 x1 x2} : (State.calibrateFind x0 x1 x2).stable = x0.stable := by simp [State.calibrateFind]
@[simp] theorem State.restartRegion_stable {x0 x1 x2} : (State.restartRegion x0 x1 x2).stable = x0.stable := by
  simp [State.restartRegion]
@[simp] theorem State.regionOff_stable {x0 x1 x2} : (State.regionOff x0 x1 x2).stable = x0.stable := by simp [State.regionOff]
@[simp] theorem State.regionOn_stable {x0 x1 x2} : (State.regionOn x0 x1 x2).stable = x0.stable := by simp [State.regionOn]
@[simp] theorem State.settleSleep_stable {x0} : (State.settleSleep x0).stable = x0.stable := by simp [State.settleSleep]
@[simp] theorem regionPmWrite_stable {x0 x1 x2} : (regionPmWrite x0 x1 x2).stable = x2.stable := by
  unfold regionPmWrite
  repeat' first | (simp; done) | split | (refine foldl_stable (fun _ _ => ?_) ?_) | simp only [ite_stable]
@[simp] theorem hibWrite_stable {x0 x1} : (hibWrite x0 x1).stable = x1.stable := by
  unfold hibWrite
  repeat' first | (simp; done) | split | (refine foldl_stable (fun _ _ => ?_) ?_) | simp only [ite_stable]
@[simp] theorem State.reopen_stable {x0 x1} : (State.reopen x0 x1).stable = x0.stable := by simp [State.reopen]
@[simp] theorem State.endRunOf_stable {x0 x1 x2} : (State.endRunOf x0 x1 x2).stable = x0.stable := by
  unfold State.endRunOf
  repeat' first | (simp; done) | split | (refine foldl_stable (fun _ _ => ?_) ?_) | simp only [ite_stable]
@[simp] theorem State.endCmd_stable {x0 x1 x2} : (State.endCmd x0 x1 x2).stable = x0.stable := by
  unfold State.endCmd
  repeat' first | (simp; done) | split | (refine foldl_stable (fun _ _ => ?_) ?_) | simp only [ite_stable]
@[simp] theorem State.testDeadlines_stable {x0} : (State.testDeadlines x0).stable = x0.stable := by
  unfold State.testDeadlines
  repeat' first | (simp; done) | split | (refine foldl_stable (fun _ _ => ?_) ?_) | simp only [ite_stable]
@[simp] theorem State.slewStep_stable {x0} : (State.slewStep x0).stable = x0.stable := by simp [State.slewStep]
@[simp] theorem State.predictBeat_stable {x0} : (State.predictBeat x0).stable = x0.stable := by simp [State.predictBeat]
@[simp] theorem State.takeTimeCtrl_stable {x0} : (State.takeTimeCtrl x0).stable = x0.stable := by
  unfold State.takeTimeCtrl
  repeat' first | (simp; done) | split | (refine foldl_stable (fun _ _ => ?_) ?_) | simp only [ite_stable]
@[simp] theorem State.atBoundary_stable {x0} : (State.atBoundary x0).stable = x0.stable := by simp [State.atBoundary]
@[simp] theorem beatBoundary_stable {x0} : (beatBoundary x0).stable = x0.stable := by simp [beatBoundary]
@[simp] theorem taskSwitch_stable {x0 x1 x2} : (taskSwitch x0 x1 x2).stable = x2.stable := by simp [taskSwitch]
@[simp] theorem runEnd_stable {x0 x1 x2 x3} : (runEnd x0 x1 x2 x3).stable = x3.stable := by
  unfold runEnd
  repeat' first | (simp; done) | split | (refine foldl_stable (fun _ _ => ?_) ?_) | simp only [ite_stable]
@[simp] theorem busMasterEnable_stable {x0 x1 x2} : (busMasterEnable x0 x1 x2).stable = x2.stable := by simp [busMasterEnable]
@[simp] theorem d3hot_stable {x0 x1 x2} : (d3hot x0 x1 x2).stable = x2.stable := by simp [d3hot]
@[simp] theorem aspmL1_stable {x0 x1 x2} : (aspmL1 x0 x1 x2).stable = x2.stable := by simp [aspmL1]
@[simp] theorem atomicopRequest_stable {x0 x1} : (atomicopRequest x0 x1).stable = x1.stable := by simp [atomicopRequest]
@[simp] theorem State.cutCmd_stable {x0 x1} : (State.cutCmd x0 x1).stable = x0.stable := by
  unfold State.cutCmd
  repeat' first | (simp; done) | split | (refine foldl_stable (fun _ _ => ?_) ?_) | simp only [ite_stable]
@[simp] theorem State.resetPort_stable {x0 x1 x2} : (State.resetPort x0 x1 x2).stable = x0.stable := by simp [State.resetPort]
@[simp] theorem portReset_stable {x0 x1} : (portReset x0 x1).stable = x1.stable := by simp [portReset]
@[simp] theorem flr_stable {x0 x1} : (flr x0 x1).stable = x1.stable := by simp [flr]
@[simp] theorem portReady_stable {x0 x1} : (portReady x0 x1).stable = x1.stable := by simp [portReady]
@[simp] theorem hostDmaError_stable {x0 x1 x2} : (hostDmaError x0 x1 x2).stable = x2.stable := by
  unfold hostDmaError
  repeat' first | (simp; done) | split | (refine foldl_stable (fun _ _ => ?_) ?_) | simp only [ite_stable]
@[simp] theorem State.failPhys_stable {x0 x1} : (State.failPhys x0 x1).stable = x0.stable := by simp [State.failPhys]
@[simp] theorem State.bindCore_stable {x0 x1} : (State.bindCore x0 x1).stable = x0.stable := by
  unfold State.bindCore
  repeat' first | (simp; done) | split | (refine foldl_stable (fun _ _ => ?_) ?_) | simp only [ite_stable]
@[simp] theorem State.failBlocks_stable {x0 x1} : (State.failBlocks x0 x1).stable = x0.stable := by
  unfold State.failBlocks
  repeat' first | (simp; done) | split | (refine foldl_stable (fun _ _ => ?_) ?_) | simp only [ite_stable]
@[simp] theorem State.startRegions_stable {x0 x1 x2} : (State.startRegions x0 x1 x2).stable = x0.stable := by
  simp [State.startRegions]
@[simp] theorem State.applyRepair_stable {x0 x1} : (State.applyRepair x0 x1).stable = x0.stable := by
  unfold State.applyRepair
  repeat' first | (simp; done) | split | (refine foldl_stable (fun _ _ => ?_) ?_) | simp only [ite_stable]
@[simp] theorem State.replayRepairs_stable {x0 x1 x2} : (State.replayRepairs x0 x1 x2).stable = x0.stable := by
  simp [State.replayRepairs]
@[simp] theorem State.loseWear_stable {x0 x1} : (State.loseWear x0 x1).stable = x0.stable := by simp [State.loseWear]
@[simp] theorem State.readConfig_stable {x0} : (State.readConfig x0).stable = x0.stable := by simp [State.readConfig]
@[simp] theorem State.takeBaselines_stable {s} : (State.takeBaselines s).stable = s.stable := by simp [State.takeBaselines]
@[simp] theorem State.startPoints_stable {s} : (State.startPoints s).stable = s.stable := by simp [State.startPoints]
@[simp] theorem State.reloadCore_stable {x0 x1} : (State.reloadCore x0 x1).stable = x0.stable := by simp [State.reloadCore]
@[simp] theorem State.resetRegion_stable {x0 x1 x2 x3} : (State.resetRegion x0 x1 x2 x3).stable = x0.stable := by
  simp [State.resetRegion]
@[simp] theorem regionReset_stable {x0 x1 x2 x3} : (regionReset x0 x1 x2 x3).stable = x3.stable := by simp [regionReset]
@[simp] theorem State.writeLimit_stable {x0 x1} : (State.writeLimit x0 x1).stable = x0.stable := by simp [State.writeLimit]
@[simp] theorem State.writeTamper_stable {x0 x1} : (State.writeTamper x0 x1).stable = x0.stable := by simp [State.writeTamper]
@[simp] theorem State.hubWrite_stable {x0 x1 x2} : (State.hubWrite x0 x1 x2).stable = x0.stable := by simp [State.hubWrite]
@[simp] theorem State.coreWrite_stable {x0 x1 x2 x3} : (State.coreWrite x0 x1 x2 x3).stable = x0.stable := by
  simp [State.coreWrite]
@[simp] theorem State.clearRc_stable {x0 x1} : (State.clearRc x0 x1).stable = x0.stable := by
  unfold State.clearRc
  repeat' first | (simp; done) | split | (refine foldl_stable (fun _ _ => ?_) ?_) | simp only [ite_stable]
@[simp] theorem State.writeReg_stable {x0 x1 x2} : (State.writeReg x0 x1 x2).stable = x0.stable := by
  unfold State.writeReg
  repeat' first | (simp; done) | split | (refine foldl_stable (fun _ _ => ?_) ?_) | simp only [ite_stable]
@[simp] theorem regRead_stable {x0 x1 x2} : (regRead x0 x1 x2).stable = x2.stable := by
  unfold regRead
  repeat' first | (simp; done) | split | (refine foldl_stable (fun _ _ => ?_) ?_) | simp only [ite_stable]
@[simp] theorem regWrite_stable {x0 x1 x2 x3} : (regWrite x0 x1 x2 x3).stable = x3.stable := by
  unfold regWrite
  repeat' first | (simp; done) | split | (refine foldl_stable (fun _ _ => ?_) ?_) | simp only [ite_stable]
@[simp] theorem dumpRead_stable {x0 x1 x2} : (dumpRead x0 x1 x2).stable = x2.stable := by
  unfold dumpRead
  repeat' first | (simp; done) | split | (refine foldl_stable (fun _ _ => ?_) ?_) | simp only [ite_stable]
@[simp] theorem status_stable {x0} : (status x0).stable = x0.stable := by simp [status]
@[simp] theorem State.barRead4_stable {x0 x1 x2} : (State.barRead4 x0 x1 x2).stable = x0.stable := by
  unfold State.barRead4
  repeat' first | (simp; done) | split | (refine foldl_stable (fun _ _ => ?_) ?_) | simp only [ite_stable]
@[simp] theorem State.barRead_stable {x0 x1 x2 x3} : (State.barRead x0 x1 x2 x3).stable = x0.stable := by simp [State.barRead]
@[simp] theorem State.writeWide_stable {x0 x1 x2 x3 x4} : (State.writeWide x0 x1 x2 x3 x4).stable = x0.stable := by
  simp [State.writeWide]
@[simp] theorem State.writeEvents_stable {x0 x1 x2} : (State.writeEvents x0 x1 x2).stable = x0.stable := by
  simp [State.writeEvents]
@[simp] theorem State.barWrite4_stable {x0 x1 x2 x3} : (State.barWrite4 x0 x1 x2 x3).stable = x0.stable := by
  unfold State.barWrite4
  repeat' first | (simp; done) | split | (refine foldl_stable (fun _ _ => ?_) ?_) | simp only [ite_stable]
@[simp] theorem State.bar0Write_stable {x0 x1 x2 x3 x4} : (State.bar0Write x0 x1 x2 x3 x4).stable = x0.stable := by
  unfold State.bar0Write
  repeat' first | (simp; done) | split | (refine foldl_stable (fun _ _ => ?_) ?_) | simp only [ite_stable]
@[simp] theorem State.msixWrite4_stable {x0 x1 x2 x3} : (State.msixWrite4 x0 x1 x2 x3).stable = x0.stable := by
  simp [State.msixWrite4]
@[simp] theorem State.bar2Write_stable {x0 x1 x2 x3 x4} : (State.bar2Write x0 x1 x2 x3 x4).stable = x0.stable := by
  simp [State.bar2Write]
@[simp] theorem registerWrite_stable {x0 x1 x2 x3 x4 x5} : (registerWrite x0 x1 x2 x3 x4 x5).stable = x5.stable := by
  unfold registerWrite
  repeat' first | (simp; done) | split | (refine foldl_stable (fun _ _ => ?_) ?_) | simp only [ite_stable]
@[simp] theorem rcRegisterRead_stable {x0 x1 x2 x3} : (rcRegisterRead x0 x1 x2 x3).stable = x3.stable := by
  unfold rcRegisterRead
  repeat' first | (simp; done) | split | (refine foldl_stable (fun _ _ => ?_) ?_) | simp only [ite_stable]
@[simp] theorem latchedHighRead_stable {x0 x1 x2} : (latchedHighRead x0 x1 x2).stable = x2.stable := by simp [latchedHighRead]
@[simp] theorem State.seqHalt_stable {x0 x1 x2} : (State.seqHalt x0 x1 x2).stable = x0.stable := by simp [State.seqHalt]
@[simp] theorem State.seqLoadError_stable {x0 x1 x2} : (State.seqLoadError x0 x1 x2).stable = x0.stable := by
  simp [State.seqLoadError]
@[simp] theorem State.seqRetire_stable {s core task chk i t mem w} : (State.seqRetire s core task chk i t mem w).stable = s.stable := by
  simp [State.seqRetire]
@[simp] theorem sequencerInstruction_stable {core chk s} : (sequencerInstruction core chk s).stable = s.stable := by
  unfold sequencerInstruction
  split
  · rfl
  · extract_lets c task t
    cases t.seq with
    | stallPush w => exact State.modTask_stable
    | running =>
      dsimp only
      generalize c.rvFetch t = a
      obtain ⟨i, len⟩ := a
      dsimp only
      generalize s.rvExec core task len t (c.seen fun _ => s.seqCycle core) i = r
      cases r with
      | none => exact State.seqHalt_stable
      | some v =>
        obtain ⟨t', mem, w⟩ := v
        dsimp only
        split
        · exact State.seqLoadError_stable
        · exact State.seqRetire_stable
    | _ => rfl
@[simp] theorem cmdhi_stable {x0 x1 x2 x3} : (cmdhi x0 x1 x2 x3).stable = x3.stable := by simp [cmdhi]
@[simp] theorem idleTick_stable {x0} : (idleTick x0).stable = x0.stable := by simp [idleTick]

end Sys2Proof.Machine
end

