-- ==== Sys2Proof/Laws/Maps.lean ====
section
/-!
SUPPORT. Sys2Proof/Laws/Maps.lean: sparse maps and memories: a read after a write, and that every operation keeps the canonical form.
-/
namespace Sys2Proof.Machine

variable {α : Type} {d v : α} {m : SMap α} {k j : Nat}

/-! ## Reads after writes, for every list -/

@[simp] theorem sget_nil : sget d [] k = d := rfl

@[simp] theorem sget_sdel_same : sget d (sdel m k) k = d := by
  induction m with
  | nil => rfl
  | cons e m ih => simp only [sdel]; split <;> simp_all [sget]

theorem sget_sdel_other (h : j ≠ k) : sget d (sdel m k) j = sget d m j := by
  induction m with
  | nil => rfl
  | cons e m ih => simp only [sdel]; split <;> simp_all [sget, eq_comm]

@[simp] theorem sget_sins_same : sget d (sins m k v) k = v := by
  induction m with
  | nil => simp [sins, sget]
  | cons e m ih => simp only [sins]; split; · simp [sget]
                   split <;> simp_all [sget]

theorem sget_sins_other (h : j ≠ k) : sget d (sins m k v) j = sget d m j := by
  induction m with
  | nil => simp [sins, sget, Ne.symm h]
  | cons e m ih =>
    simp only [sins]
    split
    · simp_all [sget, eq_comm]
    · split <;> simp_all [sget, eq_comm]

theorem sget_sdel : sget d (sdel m k) j = if j = k then d else sget d m j := by
  split
  · simp_all
  · exact sget_sdel_other ‹_›

theorem sget_sins : sget d (sins m k v) j = if j = k then v else sget d m j := by
  split
  · simp_all
  · exact sget_sins_other ‹_›

/-- A read after a write gives the value written; every other key reads as before. -/
@[simp] theorem sget_sput [DecidableEq α] : sget d (sput d m k v) j = if j = k then v else sget d m j := by
  unfold sput
  split
  · subst_vars; exact sget_sdel
  · exact sget_sins

@[simp] theorem sget_smod [DecidableEq α] {f : α → α} :
    sget d (smod d m k f) j = if j = k then f (sget d m k) else sget d m j := sget_sput

@[simp] theorem Mem.byte_put {m : Mem} {a b : Nat} {x : Byte} : (Mem.put m a x).byte b = if b = a then x else m.byte b := sget_sput

/-- What a write of bytes leaves at an address. -/
theorem Mem.byte_write {m : Mem} {a b : Nat} {bs : List Byte} :
    (Mem.write m a bs).byte b = if a ≤ b ∧ b < a + bs.length then bs.getD (b - a) 0 else m.byte b := by
  induction bs generalizing m a with
  | nil => simp [Mem.write]
  | cons x bs ih =>
    simp only [Mem.write, ih, Mem.byte_put, List.length_cons]
    by_cases h : b = a
    · subst h; simp
    · by_cases h' : a ≤ b
      · obtain ⟨i, rfl⟩ : ∃ i, b = a + (i + 1) := ⟨b - a - 1, by omega⟩
        simp only [show a + (i + 1) - (a + 1) = i by omega, show a + (i + 1) - a = i + 1 by omega, List.getD_cons_succ]
        split <;> split <;> first | rfl | omega
      · rw [if_neg (by omega), if_neg h, if_neg (by omega)]

/-- A write leaves every byte outside the written ones alone. -/
theorem Mem.byte_write_outside {m : Mem} {a b : Nat} {bs : List Byte} (h : b < a ∨ a + bs.length ≤ b) :
    (Mem.write m a bs).byte b = m.byte b := by
  rw [Mem.byte_write, if_neg (by omega)]

/-! ## The canonical form -/

theorem risingFrom_weaken {lo lo' : Nat} (h : lo' ≤ lo) (hm : risingFrom (some lo) m = true) : risingFrom (some lo') m = true := by
  cases m with
  | nil => rfl
  | cons e m => simp_all [risingFrom]; omega

theorem risingFrom_some {o : Option Nat} {m : SMap α} : risingFrom o m = true → ∀ e ∈ m, ∀ lo ∈ o, lo < e.1 := by
  induction m generalizing o with
  | nil => simp
  | cons e m ih =>
    intro h x hx lo hlo
    cases o with
    | none => cases hlo
    | some lo' =>
      cases hlo
      simp only [risingFrom, Bool.and_eq_true, decide_eq_true_eq] at h
      rcases List.mem_cons.1 hx with rfl | hx
      · exact h.1
      · exact h.1.trans (ih h.2 x hx _ rfl)

theorem rising_cons {o : Option Nat} {e : Nat × α} :
    risingFrom o (e :: m) = true ↔ (∀ lo ∈ o, lo < e.1) ∧ risingFrom (some e.1) m = true := by
  cases o <;> simp [risingFrom]

theorem rising_sdel {o : Option Nat} (h : risingFrom o m = true) : risingFrom o (sdel m k) = true := by
  induction m generalizing o with
  | nil => rfl
  | cons e m ih =>
    obtain ⟨h1, h2⟩ := rising_cons.1 h
    simp only [sdel]
    split
    · have := ih h2
      cases o with
      | none => revert this; cases sdel m k <;> simp [risingFrom]
      | some lo => exact risingFrom_weaken (h1 lo rfl).le this
    · exact rising_cons.2 ⟨h1, ih h2⟩

theorem rising_sins {o : Option Nat} (h : risingFrom o m = true) (ho : ∀ lo ∈ o, lo < k) : risingFrom o (sins m k v) = true := by
  induction m generalizing o with
  | nil => exact rising_cons.2 ⟨ho, rfl⟩
  | cons e m ih =>
    obtain ⟨h1, h2⟩ := rising_cons.1 h
    simp only [sins]
    split
    · subst_vars; exact rising_cons.2 ⟨h1, h2⟩
    · split
      · exact rising_cons.2 ⟨ho, rising_cons.2 ⟨by simpa, h2⟩⟩
      · exact rising_cons.2 ⟨h1, ih h2 (by simp; omega)⟩

theorem mem_sdel {e : Nat × α} : e ∈ sdel m k → e ∈ m := by
  induction m with
  | nil => simp [sdel]
  | cons x m ih => simp only [sdel]; split <;> simp_all; tauto

theorem mem_sins {e : Nat × α} : e ∈ sins m k v → e = (k, v) ∨ e ∈ m := by
  induction m with
  | nil => simp [sins]
  | cons x m ih =>
    simp only [sins]
    split
    · simp; tauto
    · split
      · simp
      · simp only [List.mem_cons]; tauto

theorem swf_iff [DecidableEq α] : swf d m = true ↔ risingFrom none m = true ∧ ∀ e ∈ m, e.2 ≠ d := by
  simp [swf]

/-- A write keeps the canonical form. -/
theorem swf_sput [DecidableEq α] (h : swf d m = true) : swf d (sput d m k v) = true := by
  obtain ⟨h1, h2⟩ := swf_iff.1 h
  unfold sput
  split
  · exact swf_iff.2 ⟨rising_sdel h1, fun e he => h2 e (mem_sdel he)⟩
  · refine swf_iff.2 ⟨rising_sins h1 (by simp), fun e he => ?_⟩
    rcases mem_sins he with rfl | he
    · assumption
    · exact h2 e he

theorem swf_smod [DecidableEq α] {f : α → α} (h : swf d m = true) : swf d (smod d m k f) = true := swf_sput h

/-- Removing entries keeps the canonical form. -/
theorem swf_filter [DecidableEq α] {p : Nat × α → Bool} (h : swf d m = true) : swf d (m.filter p) = true := by
  obtain ⟨h1, h2⟩ := swf_iff.1 h
  refine swf_iff.2 ⟨?_, fun e he => h2 e (List.mem_filter.1 he).1⟩
  have key : ∀ (m : SMap α) o, risingFrom o m = true → risingFrom o (m.filter p) = true := by
    intro m
    induction m with
    | nil => simp
    | cons e m ih =>
      intro o h
      obtain ⟨h1, h2⟩ := rising_cons.1 h
      rw [List.filter_cons]
      split
      · exact rising_cons.2 ⟨h1, ih _ h2⟩
      · have := ih _ h2
        cases o with
        | none => revert this; cases m.filter p <;> simp [risingFrom]
        | some lo => exact risingFrom_weaken (h1 lo rfl).le this
  exact key m none h1

theorem Mem.wf_put {m : Mem} {a : Nat} {x : Byte} (h : m.wf = true) : (Mem.put m a x).wf = true := swf_sput h

theorem Mem.wf_write {m : Mem} {a : Nat} {bs : List Byte} (h : m.wf = true) : (Mem.write m a bs).wf = true := by
  induction bs generalizing m a with
  | nil => exact h
  | cons x bs ih => exact ih (Mem.wf_put h)

theorem Mem.wf_putNum {m : Mem} {a n x : Nat} (h : m.wf = true) : (Mem.putNum m a n x).wf = true := Mem.wf_write h

theorem Mem.wf_clear {m : Mem} {a n : Nat} (h : m.wf = true) : (Mem.clear m a n).wf = true := swf_filter h

@[simp] theorem Mem.wf_nil : Mem.wf [] = true := rfl

end Sys2Proof.Machine
end

