-- ==== Sys2Proof/Laws/State.lean ====
section
/-!
SUPPORT. Sys2Proof/Laws/State.lean: what each update of the state leaves alone, field by field, and what a component reads as after it.
-/
namespace Sys2Proof.Machine

variable {s : State}

/-! ## The fields that an update leaves alone -/

@[simp] theorem State.setCore_fields {n : Nat} {c : Core} :
    (s.setCore n c).pending = s.pending ∧ (s.setCore n c).freeCtr = s.freeCtr ∧ (s.setCore n c).out = s.out ∧
    (s.setCore n c).grade = s.grade ∧ (s.setCore n c).latches = s.latches ∧ (s.setCore n c).boot = s.boot ∧
    (s.setCore n c).time = s.time ∧ (s.setCore n c).frame = s.frame ∧ (s.setCore n c).hub = s.hub ∧
    (s.setCore n c).ports = s.ports ∧ (s.setCore n c).parts = s.parts ∧ (s.setCore n c).overloadBeat = s.overloadBeat ∧
    (s.setCore n c).cmds = s.cmds ∧ (s.setCore n c).nextCmd = s.nextCmd ∧ (s.setCore n c).streams = s.streams ∧
    (s.setCore n c).slots = s.slots ∧ (s.setCore n c).plans = s.plans ∧ (s.setCore n c).runs = s.runs ∧
    (s.setCore n c).barriers = s.barriers ∧ (s.setCore n c).corpora = s.corpora ∧ (s.setCore n c).batches = s.batches ∧
    (s.setCore n c).installs = s.installs ∧ (s.setCore n c).staging = s.staging ∧ (s.setCore n c).coreMap = s.coreMap ∧
    (s.setCore n c).phys = s.phys ∧ (s.setCore n c).snaps = s.snaps ∧ (s.setCore n c).adoptions = s.adoptions ∧
    (s.setCore n c).retireDue = s.retireDue ∧ (s.setCore n c).deckOwner = s.deckOwner ∧
    (s.setCore n c).ownerPending = s.ownerPending ∧ (s.setCore n c).regions = s.regions ∧ (s.setCore n c).power = s.power ∧
    (s.setCore n c).faults = s.faults ∧ (s.setCore n c).config = s.config ∧ (s.setCore n c).fuses = s.fuses ∧
    (s.setCore n c).verm = s.verm ∧ (s.setCore n c).mgmt = s.mgmt ∧ (s.setCore n c).flash = s.flash := by
  refine ⟨?_, ?_, ?_, ?_, ?_, ?_, ?_, ?_, ?_, ?_, ?_, ?_, ?_, ?_, ?_, ?_, ?_, ?_, ?_, ?_, ?_, ?_, ?_, ?_, ?_, ?_, ?_, ?_, ?_, ?_, ?_, ?_, ?_, ?_, ?_, ?_, ?_, ?_⟩ <;> rfl

@[simp] theorem State.modCore_fields {n : Nat} {f : Core → Core} :
    (s.modCore n f).pending = s.pending ∧ (s.modCore n f).freeCtr = s.freeCtr ∧ (s.modCore n f).out = s.out ∧
    (s.modCore n f).grade = s.grade ∧ (s.modCore n f).latches = s.latches ∧ (s.modCore n f).boot = s.boot ∧
    (s.modCore n f).time = s.time ∧ (s.modCore n f).frame = s.frame ∧ (s.modCore n f).hub = s.hub ∧
    (s.modCore n f).ports = s.ports ∧ (s.modCore n f).parts = s.parts ∧ (s.modCore n f).overloadBeat = s.overloadBeat ∧
    (s.modCore n f).cmds = s.cmds ∧ (s.modCore n f).nextCmd = s.nextCmd ∧ (s.modCore n f).streams = s.streams ∧
    (s.modCore n f).slots = s.slots ∧ (s.modCore n f).plans = s.plans ∧ (s.modCore n f).runs = s.runs ∧
    (s.modCore n f).barriers = s.barriers ∧ (s.modCore n f).corpora = s.corpora ∧ (s.modCore n f).batches = s.batches ∧
    (s.modCore n f).installs = s.installs ∧ (s.modCore n f).staging = s.staging ∧ (s.modCore n f).coreMap = s.coreMap ∧
    (s.modCore n f).phys = s.phys ∧ (s.modCore n f).snaps = s.snaps ∧ (s.modCore n f).adoptions = s.adoptions ∧
    (s.modCore n f).retireDue = s.retireDue ∧ (s.modCore n f).deckOwner = s.deckOwner ∧
    (s.modCore n f).ownerPending = s.ownerPending ∧ (s.modCore n f).regions = s.regions ∧ (s.modCore n f).power = s.power ∧
    (s.modCore n f).faults = s.faults ∧ (s.modCore n f).config = s.config ∧ (s.modCore n f).fuses = s.fuses ∧
    (s.modCore n f).verm = s.verm ∧ (s.modCore n f).mgmt = s.mgmt ∧ (s.modCore n f).flash = s.flash := by
  refine ⟨?_, ?_, ?_, ?_, ?_, ?_, ?_, ?_, ?_, ?_, ?_, ?_, ?_, ?_, ?_, ?_, ?_, ?_, ?_, ?_, ?_, ?_, ?_, ?_, ?_, ?_, ?_, ?_, ?_, ?_, ?_, ?_, ?_, ?_, ?_, ?_, ?_, ?_⟩ <;> rfl

@[simp] theorem State.modTask_fields {n t : Nat} {f : Task → Task} :
    (s.modTask n t f).pending = s.pending ∧ (s.modTask n t f).freeCtr = s.freeCtr ∧ (s.modTask n t f).out = s.out ∧
    (s.modTask n t f).grade = s.grade ∧ (s.modTask n t f).latches = s.latches ∧ (s.modTask n t f).boot = s.boot ∧
    (s.modTask n t f).time = s.time ∧ (s.modTask n t f).frame = s.frame ∧ (s.modTask n t f).hub = s.hub ∧
    (s.modTask n t f).ports = s.ports ∧ (s.modTask n t f).parts = s.parts ∧ (s.modTask n t f).overloadBeat = s.overloadBeat ∧
    (s.modTask n t f).cmds = s.cmds ∧ (s.modTask n t f).nextCmd = s.nextCmd ∧ (s.modTask n t f).streams = s.streams ∧
    (s.modTask n t f).slots = s.slots ∧ (s.modTask n t f).plans = s.plans ∧ (s.modTask n t f).runs = s.runs ∧
    (s.modTask n t f).barriers = s.barriers ∧ (s.modTask n t f).corpora = s.corpora ∧ (s.modTask n t f).batches = s.batches ∧
    (s.modTask n t f).installs = s.installs ∧ (s.modTask n t f).staging = s.staging ∧ (s.modTask n t f).coreMap = s.coreMap ∧
    (s.modTask n t f).phys = s.phys ∧ (s.modTask n t f).snaps = s.snaps ∧ (s.modTask n t f).adoptions = s.adoptions ∧
    (s.modTask n t f).retireDue = s.retireDue ∧ (s.modTask n t f).deckOwner = s.deckOwner ∧
    (s.modTask n t f).ownerPending = s.ownerPending ∧ (s.modTask n t f).regions = s.regions ∧ (s.modTask n t f).power = s.power ∧
    (s.modTask n t f).faults = s.faults ∧ (s.modTask n t f).config = s.config ∧ (s.modTask n t f).fuses = s.fuses ∧
    (s.modTask n t f).verm = s.verm ∧ (s.modTask n t f).mgmt = s.mgmt ∧ (s.modTask n t f).flash = s.flash := by
  refine ⟨?_, ?_, ?_, ?_, ?_, ?_, ?_, ?_, ?_, ?_, ?_, ?_, ?_, ?_, ?_, ?_, ?_, ?_, ?_, ?_, ?_, ?_, ?_, ?_, ?_, ?_, ?_, ?_, ?_, ?_, ?_, ?_, ?_, ?_, ?_, ?_, ?_, ?_⟩ <;> rfl

@[simp] theorem State.mapCores_fields {f : Nat → Core → Core} :
    (s.mapCores f).pending = s.pending ∧ (s.mapCores f).freeCtr = s.freeCtr ∧ (s.mapCores f).out = s.out ∧
    (s.mapCores f).grade = s.grade ∧ (s.mapCores f).latches = s.latches ∧ (s.mapCores f).boot = s.boot ∧
    (s.mapCores f).time = s.time ∧ (s.mapCores f).frame = s.frame ∧ (s.mapCores f).hub = s.hub ∧ (s.mapCores f).ports = s.ports ∧
    (s.mapCores f).parts = s.parts ∧ (s.mapCores f).overloadBeat = s.overloadBeat ∧ (s.mapCores f).cmds = s.cmds ∧
    (s.mapCores f).nextCmd = s.nextCmd ∧ (s.mapCores f).streams = s.streams ∧ (s.mapCores f).slots = s.slots ∧
    (s.mapCores f).plans = s.plans ∧ (s.mapCores f).runs = s.runs ∧ (s.mapCores f).barriers = s.barriers ∧
    (s.mapCores f).corpora = s.corpora ∧ (s.mapCores f).batches = s.batches ∧ (s.mapCores f).installs = s.installs ∧
    (s.mapCores f).staging = s.staging ∧ (s.mapCores f).coreMap = s.coreMap ∧ (s.mapCores f).phys = s.phys ∧
    (s.mapCores f).snaps = s.snaps ∧ (s.mapCores f).adoptions = s.adoptions ∧ (s.mapCores f).retireDue = s.retireDue ∧
    (s.mapCores f).deckOwner = s.deckOwner ∧ (s.mapCores f).ownerPending = s.ownerPending ∧ (s.mapCores f).regions = s.regions ∧
    (s.mapCores f).power = s.power ∧ (s.mapCores f).faults = s.faults ∧ (s.mapCores f).config = s.config ∧
    (s.mapCores f).fuses = s.fuses ∧ (s.mapCores f).verm = s.verm ∧ (s.mapCores f).mgmt = s.mgmt ∧
    (s.mapCores f).flash = s.flash := by
  refine ⟨?_, ?_, ?_, ?_, ?_, ?_, ?_, ?_, ?_, ?_, ?_, ?_, ?_, ?_, ?_, ?_, ?_, ?_, ?_, ?_, ?_, ?_, ?_, ?_, ?_, ?_, ?_, ?_, ?_, ?_, ?_, ?_, ?_, ?_, ?_, ?_, ?_, ?_⟩ <;> rfl

@[simp] theorem State.setPort_fields {p : Nat} {x : Port} :
    (s.setPort p x).pending = s.pending ∧ (s.setPort p x).freeCtr = s.freeCtr ∧ (s.setPort p x).out = s.out ∧
    (s.setPort p x).grade = s.grade ∧ (s.setPort p x).latches = s.latches ∧ (s.setPort p x).boot = s.boot ∧
    (s.setPort p x).time = s.time ∧ (s.setPort p x).frame = s.frame ∧ (s.setPort p x).hub = s.hub ∧
    (s.setPort p x).parts = s.parts ∧ (s.setPort p x).overloadBeat = s.overloadBeat ∧ (s.setPort p x).cmds = s.cmds ∧
    (s.setPort p x).nextCmd = s.nextCmd ∧ (s.setPort p x).streams = s.streams ∧ (s.setPort p x).slots = s.slots ∧
    (s.setPort p x).plans = s.plans ∧ (s.setPort p x).runs = s.runs ∧ (s.setPort p x).barriers = s.barriers ∧
    (s.setPort p x).corpora = s.corpora ∧ (s.setPort p x).batches = s.batches ∧ (s.setPort p x).installs = s.installs ∧
    (s.setPort p x).staging = s.staging ∧ (s.setPort p x).cores = s.cores ∧ (s.setPort p x).coreMap = s.coreMap ∧
    (s.setPort p x).phys = s.phys ∧ (s.setPort p x).snaps = s.snaps ∧ (s.setPort p x).adoptions = s.adoptions ∧
    (s.setPort p x).retireDue = s.retireDue ∧ (s.setPort p x).deckOwner = s.deckOwner ∧
    (s.setPort p x).ownerPending = s.ownerPending ∧ (s.setPort p x).regions = s.regions ∧ (s.setPort p x).power = s.power ∧
    (s.setPort p x).faults = s.faults ∧ (s.setPort p x).config = s.config ∧ (s.setPort p x).fuses = s.fuses ∧
    (s.setPort p x).verm = s.verm ∧ (s.setPort p x).mgmt = s.mgmt ∧ (s.setPort p x).flash = s.flash := by
  refine ⟨?_, ?_, ?_, ?_, ?_, ?_, ?_, ?_, ?_, ?_, ?_, ?_, ?_, ?_, ?_, ?_, ?_, ?_, ?_, ?_, ?_, ?_, ?_, ?_, ?_, ?_, ?_, ?_, ?_, ?_, ?_, ?_, ?_, ?_, ?_, ?_, ?_, ?_⟩ <;> rfl

@[simp] theorem State.setRegion_fields {r : Nat} {x : Region} :
    (s.setRegion r x).pending = s.pending ∧ (s.setRegion r x).freeCtr = s.freeCtr ∧ (s.setRegion r x).out = s.out ∧
    (s.setRegion r x).grade = s.grade ∧ (s.setRegion r x).latches = s.latches ∧ (s.setRegion r x).boot = s.boot ∧
    (s.setRegion r x).time = s.time ∧ (s.setRegion r x).frame = s.frame ∧ (s.setRegion r x).hub = s.hub ∧
    (s.setRegion r x).ports = s.ports ∧ (s.setRegion r x).parts = s.parts ∧ (s.setRegion r x).overloadBeat = s.overloadBeat ∧
    (s.setRegion r x).cmds = s.cmds ∧ (s.setRegion r x).nextCmd = s.nextCmd ∧ (s.setRegion r x).streams = s.streams ∧
    (s.setRegion r x).slots = s.slots ∧ (s.setRegion r x).plans = s.plans ∧ (s.setRegion r x).runs = s.runs ∧
    (s.setRegion r x).barriers = s.barriers ∧ (s.setRegion r x).corpora = s.corpora ∧ (s.setRegion r x).batches = s.batches ∧
    (s.setRegion r x).installs = s.installs ∧ (s.setRegion r x).staging = s.staging ∧ (s.setRegion r x).cores = s.cores ∧
    (s.setRegion r x).coreMap = s.coreMap ∧ (s.setRegion r x).phys = s.phys ∧ (s.setRegion r x).snaps = s.snaps ∧
    (s.setRegion r x).adoptions = s.adoptions ∧ (s.setRegion r x).retireDue = s.retireDue ∧
    (s.setRegion r x).deckOwner = s.deckOwner ∧ (s.setRegion r x).ownerPending = s.ownerPending ∧
    (s.setRegion r x).power = s.power ∧ (s.setRegion r x).faults = s.faults ∧ (s.setRegion r x).config = s.config ∧
    (s.setRegion r x).fuses = s.fuses ∧ (s.setRegion r x).verm = s.verm ∧ (s.setRegion r x).mgmt = s.mgmt ∧
    (s.setRegion r x).flash = s.flash := by
  refine ⟨?_, ?_, ?_, ?_, ?_, ?_, ?_, ?_, ?_, ?_, ?_, ?_, ?_, ?_, ?_, ?_, ?_, ?_, ?_, ?_, ?_, ?_, ?_, ?_, ?_, ?_, ?_, ?_, ?_, ?_, ?_, ?_, ?_, ?_, ?_, ?_, ?_, ?_⟩ <;> rfl

@[simp] theorem State.setDeck_fields {i : Nat} {x : Deck} :
    (s.setDeck i x).pending = s.pending ∧ (s.setDeck i x).freeCtr = s.freeCtr ∧ (s.setDeck i x).out = s.out ∧
    (s.setDeck i x).grade = s.grade ∧ (s.setDeck i x).latches = s.latches ∧ (s.setDeck i x).boot = s.boot ∧
    (s.setDeck i x).time = s.time ∧ (s.setDeck i x).frame = s.frame ∧ (s.setDeck i x).hub = s.hub ∧
    (s.setDeck i x).ports = s.ports ∧ (s.setDeck i x).parts = s.parts ∧ (s.setDeck i x).overloadBeat = s.overloadBeat ∧
    (s.setDeck i x).cmds = s.cmds ∧ (s.setDeck i x).nextCmd = s.nextCmd ∧ (s.setDeck i x).streams = s.streams ∧
    (s.setDeck i x).slots = s.slots ∧ (s.setDeck i x).plans = s.plans ∧ (s.setDeck i x).runs = s.runs ∧
    (s.setDeck i x).barriers = s.barriers ∧ (s.setDeck i x).corpora = s.corpora ∧ (s.setDeck i x).batches = s.batches ∧
    (s.setDeck i x).installs = s.installs ∧ (s.setDeck i x).staging = s.staging ∧ (s.setDeck i x).coreMap = s.coreMap ∧
    (s.setDeck i x).phys = s.phys ∧ (s.setDeck i x).snaps = s.snaps ∧ (s.setDeck i x).adoptions = s.adoptions ∧
    (s.setDeck i x).retireDue = s.retireDue ∧ (s.setDeck i x).deckOwner = s.deckOwner ∧
    (s.setDeck i x).ownerPending = s.ownerPending ∧ (s.setDeck i x).regions = s.regions ∧ (s.setDeck i x).power = s.power ∧
    (s.setDeck i x).faults = s.faults ∧ (s.setDeck i x).config = s.config ∧ (s.setDeck i x).fuses = s.fuses ∧
    (s.setDeck i x).verm = s.verm ∧ (s.setDeck i x).mgmt = s.mgmt ∧ (s.setDeck i x).flash = s.flash := by
  refine ⟨?_, ?_, ?_, ?_, ?_, ?_, ?_, ?_, ?_, ?_, ?_, ?_, ?_, ?_, ?_, ?_, ?_, ?_, ?_, ?_, ?_, ?_, ?_, ?_, ?_, ?_, ?_, ?_, ?_, ?_, ?_, ?_, ?_, ?_, ?_, ?_, ?_, ?_⟩ <;> rfl

@[simp] theorem State.setStream_fields {n : Nat} {x : Stream} :
    (s.setStream n x).pending = s.pending ∧ (s.setStream n x).freeCtr = s.freeCtr ∧ (s.setStream n x).out = s.out ∧
    (s.setStream n x).grade = s.grade ∧ (s.setStream n x).latches = s.latches ∧ (s.setStream n x).boot = s.boot ∧
    (s.setStream n x).time = s.time ∧ (s.setStream n x).frame = s.frame ∧ (s.setStream n x).hub = s.hub ∧
    (s.setStream n x).ports = s.ports ∧ (s.setStream n x).parts = s.parts ∧ (s.setStream n x).overloadBeat = s.overloadBeat ∧
    (s.setStream n x).cmds = s.cmds ∧ (s.setStream n x).nextCmd = s.nextCmd ∧ (s.setStream n x).slots = s.slots ∧
    (s.setStream n x).plans = s.plans ∧ (s.setStream n x).runs = s.runs ∧ (s.setStream n x).barriers = s.barriers ∧
    (s.setStream n x).corpora = s.corpora ∧ (s.setStream n x).batches = s.batches ∧ (s.setStream n x).installs = s.installs ∧
    (s.setStream n x).staging = s.staging ∧ (s.setStream n x).cores = s.cores ∧ (s.setStream n x).coreMap = s.coreMap ∧
    (s.setStream n x).phys = s.phys ∧ (s.setStream n x).snaps = s.snaps ∧ (s.setStream n x).adoptions = s.adoptions ∧
    (s.setStream n x).retireDue = s.retireDue ∧ (s.setStream n x).deckOwner = s.deckOwner ∧
    (s.setStream n x).ownerPending = s.ownerPending ∧ (s.setStream n x).regions = s.regions ∧ (s.setStream n x).power = s.power ∧
    (s.setStream n x).faults = s.faults ∧ (s.setStream n x).config = s.config ∧ (s.setStream n x).fuses = s.fuses ∧
    (s.setStream n x).verm = s.verm ∧ (s.setStream n x).mgmt = s.mgmt ∧ (s.setStream n x).flash = s.flash := by
  refine ⟨?_, ?_, ?_, ?_, ?_, ?_, ?_, ?_, ?_, ?_, ?_, ?_, ?_, ?_, ?_, ?_, ?_, ?_, ?_, ?_, ?_, ?_, ?_, ?_, ?_, ?_, ?_, ?_, ?_, ?_, ?_, ?_, ?_, ?_, ?_, ?_, ?_, ?_⟩ <;> rfl

@[simp] theorem State.setRun_fields {n : Nat} {r : Run} :
    (s.setRun n r).pending = s.pending ∧ (s.setRun n r).freeCtr = s.freeCtr ∧ (s.setRun n r).out = s.out ∧
    (s.setRun n r).grade = s.grade ∧ (s.setRun n r).latches = s.latches ∧ (s.setRun n r).boot = s.boot ∧
    (s.setRun n r).time = s.time ∧ (s.setRun n r).frame = s.frame ∧ (s.setRun n r).hub = s.hub ∧ (s.setRun n r).ports = s.ports ∧
    (s.setRun n r).parts = s.parts ∧ (s.setRun n r).overloadBeat = s.overloadBeat ∧ (s.setRun n r).cmds = s.cmds ∧
    (s.setRun n r).nextCmd = s.nextCmd ∧ (s.setRun n r).streams = s.streams ∧ (s.setRun n r).slots = s.slots ∧
    (s.setRun n r).plans = s.plans ∧ (s.setRun n r).barriers = s.barriers ∧ (s.setRun n r).corpora = s.corpora ∧
    (s.setRun n r).batches = s.batches ∧ (s.setRun n r).installs = s.installs ∧ (s.setRun n r).staging = s.staging ∧
    (s.setRun n r).cores = s.cores ∧ (s.setRun n r).coreMap = s.coreMap ∧ (s.setRun n r).phys = s.phys ∧
    (s.setRun n r).snaps = s.snaps ∧ (s.setRun n r).adoptions = s.adoptions ∧ (s.setRun n r).retireDue = s.retireDue ∧
    (s.setRun n r).deckOwner = s.deckOwner ∧ (s.setRun n r).ownerPending = s.ownerPending ∧ (s.setRun n r).regions = s.regions ∧
    (s.setRun n r).power = s.power ∧ (s.setRun n r).faults = s.faults ∧ (s.setRun n r).config = s.config ∧
    (s.setRun n r).fuses = s.fuses ∧ (s.setRun n r).verm = s.verm ∧ (s.setRun n r).mgmt = s.mgmt ∧
    (s.setRun n r).flash = s.flash := by
  refine ⟨?_, ?_, ?_, ?_, ?_, ?_, ?_, ?_, ?_, ?_, ?_, ?_, ?_, ?_, ?_, ?_, ?_, ?_, ?_, ?_, ?_, ?_, ?_, ?_, ?_, ?_, ?_, ?_, ?_, ?_, ?_, ?_, ?_, ?_, ?_, ?_, ?_, ?_⟩ <;> rfl

@[simp] theorem State.endRun_fields {n : Nat} :
    (s.endRun n).pending = s.pending ∧ (s.endRun n).freeCtr = s.freeCtr ∧ (s.endRun n).out = s.out ∧ (s.endRun n).grade = s.grade ∧
    (s.endRun n).latches = s.latches ∧ (s.endRun n).boot = s.boot ∧ (s.endRun n).time = s.time ∧ (s.endRun n).frame = s.frame ∧
    (s.endRun n).hub = s.hub ∧ (s.endRun n).ports = s.ports ∧ (s.endRun n).parts = s.parts ∧
    (s.endRun n).overloadBeat = s.overloadBeat ∧ (s.endRun n).cmds = s.cmds ∧ (s.endRun n).nextCmd = s.nextCmd ∧
    (s.endRun n).streams = s.streams ∧ (s.endRun n).slots = s.slots ∧ (s.endRun n).plans = s.plans ∧
    (s.endRun n).barriers = s.barriers ∧ (s.endRun n).corpora = s.corpora ∧ (s.endRun n).batches = s.batches ∧
    (s.endRun n).installs = s.installs ∧ (s.endRun n).staging = s.staging ∧ (s.endRun n).cores = s.cores ∧
    (s.endRun n).coreMap = s.coreMap ∧ (s.endRun n).phys = s.phys ∧ (s.endRun n).snaps = s.snaps ∧
    (s.endRun n).adoptions = s.adoptions ∧ (s.endRun n).retireDue = s.retireDue ∧ (s.endRun n).deckOwner = s.deckOwner ∧
    (s.endRun n).ownerPending = s.ownerPending ∧ (s.endRun n).regions = s.regions ∧ (s.endRun n).power = s.power ∧
    (s.endRun n).faults = s.faults ∧ (s.endRun n).config = s.config ∧ (s.endRun n).fuses = s.fuses ∧ (s.endRun n).verm = s.verm ∧
    (s.endRun n).mgmt = s.mgmt ∧ (s.endRun n).flash = s.flash := by
  refine ⟨?_, ?_, ?_, ?_, ?_, ?_, ?_, ?_, ?_, ?_, ?_, ?_, ?_, ?_, ?_, ?_, ?_, ?_, ?_, ?_, ?_, ?_, ?_, ?_, ?_, ?_, ?_, ?_, ?_, ?_, ?_, ?_, ?_, ?_, ?_, ?_, ?_, ?_⟩ <;> rfl

@[simp] theorem State.setCorpus_fields {p : Nat} {c : Corpus} :
    (s.setCorpus p c).pending = s.pending ∧ (s.setCorpus p c).freeCtr = s.freeCtr ∧ (s.setCorpus p c).out = s.out ∧
    (s.setCorpus p c).grade = s.grade ∧ (s.setCorpus p c).latches = s.latches ∧ (s.setCorpus p c).boot = s.boot ∧
    (s.setCorpus p c).time = s.time ∧ (s.setCorpus p c).frame = s.frame ∧ (s.setCorpus p c).hub = s.hub ∧
    (s.setCorpus p c).ports = s.ports ∧ (s.setCorpus p c).parts = s.parts ∧ (s.setCorpus p c).overloadBeat = s.overloadBeat ∧
    (s.setCorpus p c).cmds = s.cmds ∧ (s.setCorpus p c).nextCmd = s.nextCmd ∧ (s.setCorpus p c).streams = s.streams ∧
    (s.setCorpus p c).slots = s.slots ∧ (s.setCorpus p c).plans = s.plans ∧ (s.setCorpus p c).runs = s.runs ∧
    (s.setCorpus p c).barriers = s.barriers ∧ (s.setCorpus p c).batches = s.batches ∧ (s.setCorpus p c).installs = s.installs ∧
    (s.setCorpus p c).staging = s.staging ∧ (s.setCorpus p c).cores = s.cores ∧ (s.setCorpus p c).coreMap = s.coreMap ∧
    (s.setCorpus p c).phys = s.phys ∧ (s.setCorpus p c).snaps = s.snaps ∧ (s.setCorpus p c).adoptions = s.adoptions ∧
    (s.setCorpus p c).retireDue = s.retireDue ∧ (s.setCorpus p c).deckOwner = s.deckOwner ∧
    (s.setCorpus p c).ownerPending = s.ownerPending ∧ (s.setCorpus p c).regions = s.regions ∧ (s.setCorpus p c).power = s.power ∧
    (s.setCorpus p c).faults = s.faults ∧ (s.setCorpus p c).config = s.config ∧ (s.setCorpus p c).fuses = s.fuses ∧
    (s.setCorpus p c).verm = s.verm ∧ (s.setCorpus p c).mgmt = s.mgmt ∧ (s.setCorpus p c).flash = s.flash := by
  refine ⟨?_, ?_, ?_, ?_, ?_, ?_, ?_, ?_, ?_, ?_, ?_, ?_, ?_, ?_, ?_, ?_, ?_, ?_, ?_, ?_, ?_, ?_, ?_, ?_, ?_, ?_, ?_, ?_, ?_, ?_, ?_, ?_, ?_, ?_, ?_, ?_, ?_, ?_⟩ <;> rfl

@[simp] theorem State.setCmd_fields {c : Cmd} :
    (s.setCmd c).pending = s.pending ∧ (s.setCmd c).freeCtr = s.freeCtr ∧ (s.setCmd c).out = s.out ∧ (s.setCmd c).grade = s.grade ∧
    (s.setCmd c).latches = s.latches ∧ (s.setCmd c).boot = s.boot ∧ (s.setCmd c).time = s.time ∧ (s.setCmd c).frame = s.frame ∧
    (s.setCmd c).hub = s.hub ∧ (s.setCmd c).ports = s.ports ∧ (s.setCmd c).parts = s.parts ∧
    (s.setCmd c).overloadBeat = s.overloadBeat ∧ (s.setCmd c).nextCmd = s.nextCmd ∧ (s.setCmd c).streams = s.streams ∧
    (s.setCmd c).slots = s.slots ∧ (s.setCmd c).plans = s.plans ∧ (s.setCmd c).runs = s.runs ∧ (s.setCmd c).barriers = s.barriers ∧
    (s.setCmd c).corpora = s.corpora ∧ (s.setCmd c).batches = s.batches ∧ (s.setCmd c).installs = s.installs ∧
    (s.setCmd c).staging = s.staging ∧ (s.setCmd c).cores = s.cores ∧ (s.setCmd c).coreMap = s.coreMap ∧
    (s.setCmd c).phys = s.phys ∧ (s.setCmd c).snaps = s.snaps ∧ (s.setCmd c).adoptions = s.adoptions ∧
    (s.setCmd c).retireDue = s.retireDue ∧ (s.setCmd c).deckOwner = s.deckOwner ∧ (s.setCmd c).ownerPending = s.ownerPending ∧
    (s.setCmd c).regions = s.regions ∧ (s.setCmd c).power = s.power ∧ (s.setCmd c).faults = s.faults ∧
    (s.setCmd c).config = s.config ∧ (s.setCmd c).fuses = s.fuses ∧ (s.setCmd c).verm = s.verm ∧ (s.setCmd c).mgmt = s.mgmt ∧
    (s.setCmd c).flash = s.flash := by
  refine ⟨?_, ?_, ?_, ?_, ?_, ?_, ?_, ?_, ?_, ?_, ?_, ?_, ?_, ?_, ?_, ?_, ?_, ?_, ?_, ?_, ?_, ?_, ?_, ?_, ?_, ?_, ?_, ?_, ?_, ?_, ?_, ?_, ?_, ?_, ?_, ?_, ?_, ?_⟩ <;> rfl

@[simp] theorem State.setPhys_fields {p : Nat} {x : Phys} :
    (s.setPhys p x).pending = s.pending ∧ (s.setPhys p x).freeCtr = s.freeCtr ∧ (s.setPhys p x).out = s.out ∧
    (s.setPhys p x).grade = s.grade ∧ (s.setPhys p x).latches = s.latches ∧ (s.setPhys p x).boot = s.boot ∧
    (s.setPhys p x).time = s.time ∧ (s.setPhys p x).frame = s.frame ∧ (s.setPhys p x).hub = s.hub ∧
    (s.setPhys p x).ports = s.ports ∧ (s.setPhys p x).parts = s.parts ∧ (s.setPhys p x).overloadBeat = s.overloadBeat ∧
    (s.setPhys p x).cmds = s.cmds ∧ (s.setPhys p x).nextCmd = s.nextCmd ∧ (s.setPhys p x).streams = s.streams ∧
    (s.setPhys p x).slots = s.slots ∧ (s.setPhys p x).plans = s.plans ∧ (s.setPhys p x).runs = s.runs ∧
    (s.setPhys p x).barriers = s.barriers ∧ (s.setPhys p x).corpora = s.corpora ∧ (s.setPhys p x).batches = s.batches ∧
    (s.setPhys p x).installs = s.installs ∧ (s.setPhys p x).staging = s.staging ∧ (s.setPhys p x).cores = s.cores ∧
    (s.setPhys p x).coreMap = s.coreMap ∧ (s.setPhys p x).snaps = s.snaps ∧ (s.setPhys p x).adoptions = s.adoptions ∧
    (s.setPhys p x).retireDue = s.retireDue ∧ (s.setPhys p x).deckOwner = s.deckOwner ∧
    (s.setPhys p x).ownerPending = s.ownerPending ∧ (s.setPhys p x).regions = s.regions ∧ (s.setPhys p x).power = s.power ∧
    (s.setPhys p x).faults = s.faults ∧ (s.setPhys p x).config = s.config ∧ (s.setPhys p x).fuses = s.fuses ∧
    (s.setPhys p x).verm = s.verm ∧ (s.setPhys p x).mgmt = s.mgmt ∧ (s.setPhys p x).flash = s.flash := by
  refine ⟨?_, ?_, ?_, ?_, ?_, ?_, ?_, ?_, ?_, ?_, ?_, ?_, ?_, ?_, ?_, ?_, ?_, ?_, ?_, ?_, ?_, ?_, ?_, ?_, ?_, ?_, ?_, ?_, ?_, ?_, ?_, ?_, ?_, ?_, ?_, ?_, ?_, ?_⟩ <;> rfl

@[simp] theorem State.setHub_fields {o : Nat} {v : Word} :
    (s.setHub o v).pending = s.pending ∧ (s.setHub o v).freeCtr = s.freeCtr ∧ (s.setHub o v).out = s.out ∧
    (s.setHub o v).grade = s.grade ∧ (s.setHub o v).latches = s.latches ∧ (s.setHub o v).boot = s.boot ∧
    (s.setHub o v).time = s.time ∧ (s.setHub o v).frame = s.frame ∧ (s.setHub o v).ports = s.ports ∧
    (s.setHub o v).parts = s.parts ∧ (s.setHub o v).overloadBeat = s.overloadBeat ∧ (s.setHub o v).cmds = s.cmds ∧
    (s.setHub o v).nextCmd = s.nextCmd ∧ (s.setHub o v).streams = s.streams ∧ (s.setHub o v).slots = s.slots ∧
    (s.setHub o v).plans = s.plans ∧ (s.setHub o v).runs = s.runs ∧ (s.setHub o v).barriers = s.barriers ∧
    (s.setHub o v).corpora = s.corpora ∧ (s.setHub o v).batches = s.batches ∧ (s.setHub o v).installs = s.installs ∧
    (s.setHub o v).staging = s.staging ∧ (s.setHub o v).cores = s.cores ∧ (s.setHub o v).coreMap = s.coreMap ∧
    (s.setHub o v).phys = s.phys ∧ (s.setHub o v).snaps = s.snaps ∧ (s.setHub o v).adoptions = s.adoptions ∧
    (s.setHub o v).retireDue = s.retireDue ∧ (s.setHub o v).deckOwner = s.deckOwner ∧
    (s.setHub o v).ownerPending = s.ownerPending ∧ (s.setHub o v).regions = s.regions ∧ (s.setHub o v).power = s.power ∧
    (s.setHub o v).faults = s.faults ∧ (s.setHub o v).config = s.config ∧ (s.setHub o v).fuses = s.fuses ∧
    (s.setHub o v).verm = s.verm ∧ (s.setHub o v).mgmt = s.mgmt ∧ (s.setHub o v).flash = s.flash := by
  refine ⟨?_, ?_, ?_, ?_, ?_, ?_, ?_, ?_, ?_, ?_, ?_, ?_, ?_, ?_, ?_, ?_, ?_, ?_, ?_, ?_, ?_, ?_, ?_, ?_, ?_, ?_, ?_, ?_, ?_, ?_, ?_, ?_, ?_, ?_, ?_, ?_, ?_, ?_⟩ <;> rfl

@[simp] theorem State.hubOr_fields {o : Nat} {v : Word} :
    (s.hubOr o v).pending = s.pending ∧ (s.hubOr o v).freeCtr = s.freeCtr ∧ (s.hubOr o v).out = s.out ∧
    (s.hubOr o v).grade = s.grade ∧ (s.hubOr o v).latches = s.latches ∧ (s.hubOr o v).boot = s.boot ∧ (s.hubOr o v).time = s.time ∧
    (s.hubOr o v).frame = s.frame ∧ (s.hubOr o v).ports = s.ports ∧ (s.hubOr o v).parts = s.parts ∧
    (s.hubOr o v).overloadBeat = s.overloadBeat ∧ (s.hubOr o v).cmds = s.cmds ∧ (s.hubOr o v).nextCmd = s.nextCmd ∧
    (s.hubOr o v).streams = s.streams ∧ (s.hubOr o v).slots = s.slots ∧ (s.hubOr o v).plans = s.plans ∧
    (s.hubOr o v).runs = s.runs ∧ (s.hubOr o v).barriers = s.barriers ∧ (s.hubOr o v).corpora = s.corpora ∧
    (s.hubOr o v).batches = s.batches ∧ (s.hubOr o v).installs = s.installs ∧ (s.hubOr o v).staging = s.staging ∧
    (s.hubOr o v).cores = s.cores ∧ (s.hubOr o v).coreMap = s.coreMap ∧ (s.hubOr o v).phys = s.phys ∧
    (s.hubOr o v).snaps = s.snaps ∧ (s.hubOr o v).adoptions = s.adoptions ∧ (s.hubOr o v).retireDue = s.retireDue ∧
    (s.hubOr o v).deckOwner = s.deckOwner ∧ (s.hubOr o v).ownerPending = s.ownerPending ∧ (s.hubOr o v).regions = s.regions ∧
    (s.hubOr o v).power = s.power ∧ (s.hubOr o v).faults = s.faults ∧ (s.hubOr o v).config = s.config ∧
    (s.hubOr o v).fuses = s.fuses ∧ (s.hubOr o v).verm = s.verm ∧ (s.hubOr o v).mgmt = s.mgmt ∧ (s.hubOr o v).flash = s.flash := by
  refine ⟨?_, ?_, ?_, ?_, ?_, ?_, ?_, ?_, ?_, ?_, ?_, ?_, ?_, ?_, ?_, ?_, ?_, ?_, ?_, ?_, ?_, ?_, ?_, ?_, ?_, ?_, ?_, ?_, ?_, ?_, ?_, ?_, ?_, ?_, ?_, ?_, ?_, ?_⟩ <;> rfl

@[simp] theorem State.hubInc_fields {o k : Nat} :
    (s.hubInc o k).pending = s.pending ∧ (s.hubInc o k).freeCtr = s.freeCtr ∧ (s.hubInc o k).out = s.out ∧
    (s.hubInc o k).grade = s.grade ∧ (s.hubInc o k).latches = s.latches ∧ (s.hubInc o k).boot = s.boot ∧
    (s.hubInc o k).time = s.time ∧ (s.hubInc o k).frame = s.frame ∧ (s.hubInc o k).ports = s.ports ∧
    (s.hubInc o k).parts = s.parts ∧ (s.hubInc o k).overloadBeat = s.overloadBeat ∧ (s.hubInc o k).cmds = s.cmds ∧
    (s.hubInc o k).nextCmd = s.nextCmd ∧ (s.hubInc o k).streams = s.streams ∧ (s.hubInc o k).slots = s.slots ∧
    (s.hubInc o k).plans = s.plans ∧ (s.hubInc o k).runs = s.runs ∧ (s.hubInc o k).barriers = s.barriers ∧
    (s.hubInc o k).corpora = s.corpora ∧ (s.hubInc o k).batches = s.batches ∧ (s.hubInc o k).installs = s.installs ∧
    (s.hubInc o k).staging = s.staging ∧ (s.hubInc o k).cores = s.cores ∧ (s.hubInc o k).coreMap = s.coreMap ∧
    (s.hubInc o k).phys = s.phys ∧ (s.hubInc o k).snaps = s.snaps ∧ (s.hubInc o k).adoptions = s.adoptions ∧
    (s.hubInc o k).retireDue = s.retireDue ∧ (s.hubInc o k).deckOwner = s.deckOwner ∧
    (s.hubInc o k).ownerPending = s.ownerPending ∧ (s.hubInc o k).regions = s.regions ∧ (s.hubInc o k).power = s.power ∧
    (s.hubInc o k).faults = s.faults ∧ (s.hubInc o k).config = s.config ∧ (s.hubInc o k).fuses = s.fuses ∧
    (s.hubInc o k).verm = s.verm ∧ (s.hubInc o k).mgmt = s.mgmt ∧ (s.hubInc o k).flash = s.flash := by
  refine ⟨?_, ?_, ?_, ?_, ?_, ?_, ?_, ?_, ?_, ?_, ?_, ?_, ?_, ?_, ?_, ?_, ?_, ?_, ?_, ?_, ?_, ?_, ?_, ?_, ?_, ?_, ?_, ?_, ?_, ?_, ?_, ?_, ?_, ?_, ?_, ?_, ?_, ?_⟩ <;> rfl

@[simp] theorem State.setHub64_fields {o n : Nat} :
    (s.setHub64 o n).pending = s.pending ∧ (s.setHub64 o n).freeCtr = s.freeCtr ∧ (s.setHub64 o n).out = s.out ∧
    (s.setHub64 o n).grade = s.grade ∧ (s.setHub64 o n).latches = s.latches ∧ (s.setHub64 o n).boot = s.boot ∧
    (s.setHub64 o n).time = s.time ∧ (s.setHub64 o n).frame = s.frame ∧ (s.setHub64 o n).ports = s.ports ∧
    (s.setHub64 o n).parts = s.parts ∧ (s.setHub64 o n).overloadBeat = s.overloadBeat ∧ (s.setHub64 o n).cmds = s.cmds ∧
    (s.setHub64 o n).nextCmd = s.nextCmd ∧ (s.setHub64 o n).streams = s.streams ∧ (s.setHub64 o n).slots = s.slots ∧
    (s.setHub64 o n).plans = s.plans ∧ (s.setHub64 o n).runs = s.runs ∧ (s.setHub64 o n).barriers = s.barriers ∧
    (s.setHub64 o n).corpora = s.corpora ∧ (s.setHub64 o n).batches = s.batches ∧ (s.setHub64 o n).installs = s.installs ∧
    (s.setHub64 o n).staging = s.staging ∧ (s.setHub64 o n).cores = s.cores ∧ (s.setHub64 o n).coreMap = s.coreMap ∧
    (s.setHub64 o n).phys = s.phys ∧ (s.setHub64 o n).snaps = s.snaps ∧ (s.setHub64 o n).adoptions = s.adoptions ∧
    (s.setHub64 o n).retireDue = s.retireDue ∧ (s.setHub64 o n).deckOwner = s.deckOwner ∧
    (s.setHub64 o n).ownerPending = s.ownerPending ∧ (s.setHub64 o n).regions = s.regions ∧ (s.setHub64 o n).power = s.power ∧
    (s.setHub64 o n).faults = s.faults ∧ (s.setHub64 o n).config = s.config ∧ (s.setHub64 o n).fuses = s.fuses ∧
    (s.setHub64 o n).verm = s.verm ∧ (s.setHub64 o n).mgmt = s.mgmt ∧ (s.setHub64 o n).flash = s.flash := by
  refine ⟨?_, ?_, ?_, ?_, ?_, ?_, ?_, ?_, ?_, ?_, ?_, ?_, ?_, ?_, ?_, ?_, ?_, ?_, ?_, ?_, ?_, ?_, ?_, ?_, ?_, ?_, ?_, ?_, ?_, ?_, ?_, ?_, ?_, ?_, ?_, ?_, ?_, ?_⟩ <;> rfl

@[simp] theorem State.advanceTo_fields {t : Nat} :
    (s.advanceTo t).pending = s.pending ∧ (s.advanceTo t).freeCtr = s.freeCtr ∧ (s.advanceTo t).out = s.out ∧
    (s.advanceTo t).grade = s.grade ∧ (s.advanceTo t).latches = s.latches ∧ (s.advanceTo t).boot = s.boot ∧
    (s.advanceTo t).frame = s.frame ∧ (s.advanceTo t).hub = s.hub ∧ (s.advanceTo t).ports = s.ports ∧
    (s.advanceTo t).parts = s.parts ∧ (s.advanceTo t).overloadBeat = s.overloadBeat ∧ (s.advanceTo t).cmds = s.cmds ∧
    (s.advanceTo t).nextCmd = s.nextCmd ∧ (s.advanceTo t).streams = s.streams ∧ (s.advanceTo t).slots = s.slots ∧
    (s.advanceTo t).plans = s.plans ∧ (s.advanceTo t).runs = s.runs ∧ (s.advanceTo t).barriers = s.barriers ∧
    (s.advanceTo t).corpora = s.corpora ∧ (s.advanceTo t).batches = s.batches ∧ (s.advanceTo t).installs = s.installs ∧
    (s.advanceTo t).staging = s.staging ∧ (s.advanceTo t).cores = s.cores ∧ (s.advanceTo t).coreMap = s.coreMap ∧
    (s.advanceTo t).phys = s.phys ∧ (s.advanceTo t).snaps = s.snaps ∧ (s.advanceTo t).adoptions = s.adoptions ∧
    (s.advanceTo t).retireDue = s.retireDue ∧ (s.advanceTo t).deckOwner = s.deckOwner ∧
    (s.advanceTo t).ownerPending = s.ownerPending ∧ (s.advanceTo t).regions = s.regions ∧ (s.advanceTo t).power = s.power ∧
    (s.advanceTo t).faults = s.faults ∧ (s.advanceTo t).config = s.config ∧ (s.advanceTo t).fuses = s.fuses ∧
    (s.advanceTo t).verm = s.verm ∧ (s.advanceTo t).mgmt = s.mgmt ∧ (s.advanceTo t).flash = s.flash := by
  refine ⟨?_, ?_, ?_, ?_, ?_, ?_, ?_, ?_, ?_, ?_, ?_, ?_, ?_, ?_, ?_, ?_, ?_, ?_, ?_, ?_, ?_, ?_, ?_, ?_, ?_, ?_, ?_, ?_, ?_, ?_, ?_, ?_, ?_, ?_, ?_, ?_, ?_, ?_⟩ <;> rfl

@[simp] theorem State.tookFree_fields  :
    (s.tookFree).pending = s.pending ∧ (s.tookFree).out = s.out ∧ (s.tookFree).grade = s.grade ∧ (s.tookFree).latches = s.latches ∧
    (s.tookFree).boot = s.boot ∧ (s.tookFree).time = s.time ∧ (s.tookFree).frame = s.frame ∧ (s.tookFree).hub = s.hub ∧
    (s.tookFree).ports = s.ports ∧ (s.tookFree).parts = s.parts ∧ (s.tookFree).overloadBeat = s.overloadBeat ∧
    (s.tookFree).cmds = s.cmds ∧ (s.tookFree).nextCmd = s.nextCmd ∧ (s.tookFree).streams = s.streams ∧
    (s.tookFree).slots = s.slots ∧ (s.tookFree).plans = s.plans ∧ (s.tookFree).runs = s.runs ∧ (s.tookFree).barriers = s.barriers ∧
    (s.tookFree).corpora = s.corpora ∧ (s.tookFree).batches = s.batches ∧ (s.tookFree).installs = s.installs ∧
    (s.tookFree).staging = s.staging ∧ (s.tookFree).cores = s.cores ∧ (s.tookFree).coreMap = s.coreMap ∧
    (s.tookFree).phys = s.phys ∧ (s.tookFree).snaps = s.snaps ∧ (s.tookFree).adoptions = s.adoptions ∧
    (s.tookFree).retireDue = s.retireDue ∧ (s.tookFree).deckOwner = s.deckOwner ∧ (s.tookFree).ownerPending = s.ownerPending ∧
    (s.tookFree).regions = s.regions ∧ (s.tookFree).power = s.power ∧ (s.tookFree).faults = s.faults ∧
    (s.tookFree).config = s.config ∧ (s.tookFree).fuses = s.fuses ∧ (s.tookFree).verm = s.verm ∧ (s.tookFree).mgmt = s.mgmt ∧
    (s.tookFree).flash = s.flash := by
  refine ⟨?_, ?_, ?_, ?_, ?_, ?_, ?_, ?_, ?_, ?_, ?_, ?_, ?_, ?_, ?_, ?_, ?_, ?_, ?_, ?_, ?_, ?_, ?_, ?_, ?_, ?_, ?_, ?_, ?_, ?_, ?_, ?_, ?_, ?_, ?_, ?_, ?_, ?_⟩ <;> rfl

@[simp] theorem State.emit_fields {m : Msg} :
    (s.emit m).pending = s.pending ∧ (s.emit m).freeCtr = s.freeCtr ∧ (s.emit m).grade = s.grade ∧ (s.emit m).latches = s.latches ∧
    (s.emit m).boot = s.boot ∧ (s.emit m).time = s.time ∧ (s.emit m).frame = s.frame ∧ (s.emit m).hub = s.hub ∧
    (s.emit m).ports = s.ports ∧ (s.emit m).parts = s.parts ∧ (s.emit m).overloadBeat = s.overloadBeat ∧ (s.emit m).cmds = s.cmds ∧
    (s.emit m).nextCmd = s.nextCmd ∧ (s.emit m).streams = s.streams ∧ (s.emit m).slots = s.slots ∧ (s.emit m).plans = s.plans ∧
    (s.emit m).runs = s.runs ∧ (s.emit m).barriers = s.barriers ∧ (s.emit m).corpora = s.corpora ∧ (s.emit m).batches = s.batches ∧
    (s.emit m).installs = s.installs ∧ (s.emit m).staging = s.staging ∧ (s.emit m).cores = s.cores ∧
    (s.emit m).coreMap = s.coreMap ∧ (s.emit m).phys = s.phys ∧ (s.emit m).snaps = s.snaps ∧ (s.emit m).adoptions = s.adoptions ∧
    (s.emit m).retireDue = s.retireDue ∧ (s.emit m).deckOwner = s.deckOwner ∧ (s.emit m).ownerPending = s.ownerPending ∧
    (s.emit m).regions = s.regions ∧ (s.emit m).power = s.power ∧ (s.emit m).faults = s.faults ∧ (s.emit m).config = s.config ∧
    (s.emit m).fuses = s.fuses ∧ (s.emit m).verm = s.verm ∧ (s.emit m).mgmt = s.mgmt ∧ (s.emit m).flash = s.flash := by
  refine ⟨?_, ?_, ?_, ?_, ?_, ?_, ?_, ?_, ?_, ?_, ?_, ?_, ?_, ?_, ?_, ?_, ?_, ?_, ?_, ?_, ?_, ?_, ?_, ?_, ?_, ?_, ?_, ?_, ?_, ?_, ?_, ?_, ?_, ?_, ?_, ?_, ?_, ?_⟩ <;> rfl

@[simp] theorem State.answer_fields {code : Nat} {data : List Byte} :
    (s.answer code data).pending = s.pending ∧ (s.answer code data).freeCtr = s.freeCtr ∧ (s.answer code data).grade = s.grade ∧
    (s.answer code data).latches = s.latches ∧ (s.answer code data).boot = s.boot ∧ (s.answer code data).time = s.time ∧
    (s.answer code data).frame = s.frame ∧ (s.answer code data).hub = s.hub ∧ (s.answer code data).ports = s.ports ∧
    (s.answer code data).parts = s.parts ∧ (s.answer code data).overloadBeat = s.overloadBeat ∧
    (s.answer code data).cmds = s.cmds ∧ (s.answer code data).nextCmd = s.nextCmd ∧ (s.answer code data).streams = s.streams ∧
    (s.answer code data).slots = s.slots ∧ (s.answer code data).plans = s.plans ∧ (s.answer code data).runs = s.runs ∧
    (s.answer code data).barriers = s.barriers ∧ (s.answer code data).corpora = s.corpora ∧
    (s.answer code data).batches = s.batches ∧ (s.answer code data).installs = s.installs ∧
    (s.answer code data).staging = s.staging ∧ (s.answer code data).cores = s.cores ∧ (s.answer code data).coreMap = s.coreMap ∧
    (s.answer code data).phys = s.phys ∧ (s.answer code data).snaps = s.snaps ∧ (s.answer code data).adoptions = s.adoptions ∧
    (s.answer code data).retireDue = s.retireDue ∧ (s.answer code data).deckOwner = s.deckOwner ∧
    (s.answer code data).ownerPending = s.ownerPending ∧ (s.answer code data).regions = s.regions ∧
    (s.answer code data).power = s.power ∧ (s.answer code data).faults = s.faults ∧ (s.answer code data).config = s.config ∧
    (s.answer code data).fuses = s.fuses ∧ (s.answer code data).verm = s.verm ∧ (s.answer code data).mgmt = s.mgmt ∧
    (s.answer code data).flash = s.flash := by
  refine ⟨?_, ?_, ?_, ?_, ?_, ?_, ?_, ?_, ?_, ?_, ?_, ?_, ?_, ?_, ?_, ?_, ?_, ?_, ?_, ?_, ?_, ?_, ?_, ?_, ?_, ?_, ?_, ?_, ?_, ?_, ?_, ?_, ?_, ?_, ?_, ?_, ?_, ?_⟩ <;> rfl

/-! ## Components after an update -/

@[simp] theorem State.core_setCore {n m : Nat} {c : Core} : (s.setCore n c).core m = if m = n then c else s.core m := sget_sput

@[simp] theorem State.core_modCore {n m : Nat} {f : Core → Core} :
    (s.modCore n f).core m = if m = n then f (s.core n) else s.core m := sget_sput

@[simp] theorem Core.task_setTask_same {c : Core} {t : Nat} {k : Task} (h : t < c.tasks.length) : (c.setTask t k).task t = k := by
  simp [Core.task, Core.setTask, List.getD, h]

@[simp] theorem Core.task_setTask_other {c : Core} {t u : Nat} {k : Task} (h : u ≠ t) : (c.setTask t k).task u = c.task u := by
  simp [Core.task, Core.setTask, List.getD, List.getElem?_set_ne (Ne.symm h)]

@[simp] theorem State.port_setPort {p : Nat} {x : Port} (h : p < s.ports.length) : (s.setPort p x).port p = x := by
  simp [State.port, State.setPort, List.getD, h]

@[simp] theorem State.port_setPort_other {p q : Nat} {x : Port} (h : q ≠ p) : (s.setPort p x).port q = s.port q := by
  simp [State.port, State.setPort, List.getD, List.getElem?_set_ne (Ne.symm h)]

@[simp] theorem State.region_setRegion {r : Nat} {x : Region} (h : r < s.regions.length) : (s.setRegion r x).region r = x := by
  simp [State.region, State.setRegion, List.getD, h]

@[simp] theorem State.region_setRegion_other {r q : Nat} {x : Region} (h : q ≠ r) : (s.setRegion r x).region q = s.region q := by
  simp [State.region, State.setRegion, List.getD, List.getElem?_set_ne (Ne.symm h)]

@[simp] theorem State.hubWord_setHub {o j : Nat} {v : Word} : (s.setHub o v).hubWord j = if j = o then v else s.hubWord j := by
  unfold State.hubWord State.setHub
  split
  · subst_vars; simp
  · simp only [sput]
    split
    · exact sget_sdel_other ‹_›
    · exact sget_sins_other ‹_›

@[simp] theorem State.hubWord_hubOr {o j : Nat} {v : Word} :
    (s.hubOr o v).hubWord j = if j = o then s.hubWord o ||| v else s.hubWord j := State.hubWord_setHub

@[simp] theorem State.hubWord_hubInc {o j k : Nat} :
    (s.hubInc o k).hubWord j = if j = o then satAdd (s.hubWord o) k else s.hubWord j := State.hubWord_setHub

@[simp] theorem State.stream_setStream {n m : Nat} {x : Stream} : (s.setStream n x).stream m = if m = n then x else s.stream m := sget_sput

@[simp] theorem State.physCore_setPhys {p q : Nat} {x : Phys} : (s.setPhys p x).physCore q = if q = p then x else s.physCore q := sget_sput

@[simp] theorem Core.deck_setDeck {c : Core} {i j : Nat} {x : Deck} : (c.setDeck i x).deck j = if j = i then x else c.deck j := sget_sput

@[simp] theorem Core.stack_setStack {c : Core} {i j : Nat} {x : Stack} : (c.setStack i x).stack j = if j = i then x else c.stack j := sget_sput

@[simp] theorem Core.dcmInfo_setDcmInfo {c : Core} {i j : Nat} {x : Dcm} :
    (c.setDcmInfo i x).dcmInfo j = if j = i then x else c.dcmInfo j := sget_sput

theorem State.deck_setDeck_same {i : Nat} {x : Deck} : (s.setDeck i x).deck i = x := by simp [State.deck, State.setDeck]

@[simp] theorem Port.sq_setSq {p : Port} {n m : Nat} {x : SubRing} : (p.setSq n x).sq m = if m = n then x else p.sq m := sget_sput

@[simp] theorem Port.cq_setCq {p : Port} {n m : Nat} {x : CplRing} : (p.setCq n x).cq m = if m = n then x else p.cq m := sget_sput

@[simp] theorem Core.reg_setReg {c : Core} {o j : Nat} {v : Word} : (c.setReg o v).reg j = if j = o then v else c.reg j := by
  unfold Core.reg Core.setReg
  split
  · subst_vars; simp
  · simp only [sput]
    split
    · exact sget_sdel_other ‹_›
    · exact sget_sins_other ‹_›

/-- Device time never falls (R31). -/
theorem State.now_le_advanceTo {t : Nat} : s.time.now ≤ (s.advanceTo t).time.now := by
  simp only [State.advanceTo]
  split <;> omega

/-- Device time reaches the instant (R31). -/
theorem State.le_now_advanceTo {t : Nat} : t ≤ (s.advanceTo t).time.now := by
  simp only [State.advanceTo]
  split <;> omega

end Sys2Proof.Machine
end

