-- ==== Sys2Proof/Laws/Changes.lean ====
section
/-!
SUPPORT. Sys2Proof/Laws/Changes.lean: the operations that change part of the bundle of Laws/Stable.lean, and what each of them keeps of it.
-/
namespace Sys2Proof.Machine

/-! ## Resets: the lasting part stays -/

@[simp] theorem State.deriveKeys_lasting {s : State} : s.deriveKeys.stable.lasting = s.stable.lasting := by
  unfold State.deriveKeys
  split <;> simp

@[simp] theorem State.bootRom_lasting {s : State} {up} : (s.bootRom up).stable.lasting = s.stable.lasting := by
  unfold State.bootRom
  split <;> simp

/-- An answer changes neither the update nor the flash. -/
theorem cutUpdate_answer {s : State} {c b} : (s.answer c b).cutUpdate.stable = s.cutUpdate.stable := (rfl)

/-- With the image written there is no write to cut. -/
theorem cutUpdate_applied {s : State} {m} (h : s.mgmt.update = .applied) : (s.emit m).cutUpdate.stable = s.stable := by
  simp [State.cutUpdate, State.cutFlash, Mgmt.applying, State.emit, h, State.stable]

@[simp] theorem State.clearAll_lasting {s : State} {p} : (s.clearAll p).stable.lasting = s.stable.lasting := by
  simp [State.clearAll]

@[simp] theorem State.startUp_lasting {s : State} {up} : (s.startUp up).stable.lasting = s.stable.lasting := by
  unfold State.startUp
  extract_lets a
  have h : a.stable.lasting = s.stable.lasting := by simp [a]
  split <;> simp [h]

@[simp] theorem powerOn_lasting {b p lc up} {s : State} : (powerOn b p lc up s).stable.lasting = s.cutUpdate.stable.lasting := by
  simp [powerOn]

@[simp] theorem State.resetDevice_lasting {s : State} {c up} : (s.resetDevice c up).stable.lasting = s.cutUpdate.stable.lasting := by
  simp [State.resetDevice]

theorem deviceReset_lasting {c up} {s : State} :
    (deviceReset c up s).stable.lasting = s.stable.lasting ∨ (deviceReset c up s).stable.lasting = s.cutUpdate.stable.lasting := by
  unfold deviceReset
  split <;> simp

theorem deviceResetMessage_lasting {up} {s : State} :
    (deviceResetMessage up s).stable.lasting = s.stable.lasting ∨
      (deviceResetMessage up s).stable.lasting = s.cutUpdate.stable.lasting := by
  unfold deviceResetMessage
  split <;> simp [cutUpdate_answer]

@[simp] theorem activateFirmware_lasting {up} {s : State} : (activateFirmware up s).stable.lasting = s.stable.lasting := by
  unfold activateFirmware
  split
  · rfl
  · rename_i h
    rw [State.resetDevice_lasting, cutUpdate_applied (by simpa using fun k => h (.inr (.inr k)))]

@[simp] theorem deviceReady_lasting {s : State} : (deviceReady s).stable.lasting = s.stable.lasting := by
  unfold deviceReady
  split <;> simp

/-! ## Device resets: the install keys and the trip latch stay too -/

@[simp] theorem State.deriveKeys_held {s : State} : s.deriveKeys.stable.held = s.stable.held := by
  unfold State.deriveKeys
  split <;> simp

@[simp] theorem State.bootRom_held {s : State} {up} : (s.bootRom up).stable.held = s.stable.held := by
  unfold State.bootRom
  split <;> simp

@[simp] theorem State.clearAll_held {s : State} {p} : (s.clearAll p).stable.held = s.stable.held := by
  simp [State.clearAll]

@[simp] theorem State.startUp_held {s : State} {up} : (s.startUp up).stable.held = s.stable.held := by
  unfold State.startUp
  extract_lets a
  have h : a.stable.held = s.stable.held := by simp [a]
  split <;> simp [h]

@[simp] theorem State.resetDevice_held {s : State} {c up} : (s.resetDevice c up).stable.held = s.cutUpdate.stable.held := by
  simp [State.resetDevice]

theorem deviceReset_held {c up} {s : State} :
    (deviceReset c up s).stable.held = s.stable.held ∨ (deviceReset c up s).stable.held = s.cutUpdate.stable.held := by
  unfold deviceReset
  split <;> simp

theorem deviceResetMessage_held {up} {s : State} :
    (deviceResetMessage up s).stable.held = s.stable.held ∨ (deviceResetMessage up s).stable.held = s.cutUpdate.stable.held := by
  unfold deviceResetMessage
  split <;> simp [cutUpdate_answer]

@[simp] theorem activateFirmware_held {up} {s : State} : (activateFirmware up s).stable.held = s.stable.held := by
  unfold activateFirmware
  split
  · rfl
  · rename_i h
    rw [State.resetDevice_held, cutUpdate_applied (by simpa using fun k => h (.inr (.inr k)))]

@[simp] theorem deviceReady_held {s : State} : (deviceReady s).stable.held = s.stable.held := by
  unfold deviceReady
  split <;> simp

@[simp] theorem aliasCertSign_held {s : State} : (aliasCertSign s).stable.held = s.stable.held := by
  unfold aliasCertSign
  split
  · split
    · rfl
    · simp
  · rfl

/-! ## Keys, certificate, tamper and trip: the lasting part stays -/

@[simp] theorem keySet_lasting {n o k} {s : State} : (keySet n o k s).stable.lasting = s.stable.lasting := by
  unfold keySet
  repeat' first | (simp; done) | split

@[simp] theorem keyClear_lasting {n} {s : State} : (keyClear n s).stable.lasting = s.stable.lasting := by
  unfold keyClear
  repeat' first | (simp; done) | split

@[simp] theorem aliasCertSign_lasting {s : State} : (aliasCertSign s).stable.lasting = s.stable.lasting := by
  unfold aliasCertSign
  split
  · split
    · rfl
    · simp
  · rfl

@[simp] theorem tamper_lasting {c} {s : State} : (tamper c s).stable.lasting = s.stable.lasting := by
  unfold tamper
  split
  · rfl
  · extract_lets a b z d
    have h : d.stable.lasting = s.stable.lasting := by simp [d, b, a]
    clear_value d
    cases z
    · exact h
    · simpa using h

@[simp] theorem thermTrip_lasting {c} {s : State} : (thermTrip c s).stable.lasting = s.stable.lasting := by
  unfold thermTrip
  split <;> simp

/-- TEMPERATURE_READ at most trips: it leaves the bundle but for the trip latch, which it can only set. -/
theorem temperatureRead_trips {xs ys} {s : State} :
    (temperatureRead xs ys s).stable = s.stable ∨ (temperatureRead xs ys s).stable = { s.stable with tripped := true } := by
  by_cases cool : ∀ c ∈ xs ++ ys, c < 120
  · exact .inl (temperatureRead_stable cool)
  · have h : ((xs ++ ys).any fun c => decide (120 ≤ c)) = true := by
      obtain ⟨c, hc, hot⟩ : ∃ c ∈ xs ++ ys, ¬c < 120 := by simpa only [not_forall, exists_prop] using cool
      exact List.any_eq_true.mpr ⟨c, hc, by simpa using hot⟩
    unfold temperatureRead
    by_cases hd : s.dead = true
    · simp [hd]
    · rw [if_neg hd, if_pos h]
      unfold thermTrip
      split
      · exact .inl rfl
      · exact .inr rfl

/-! ## The operations that change the lasting part -/

/-- KEY_REVOKE changes the fuses' revocation bits and nothing else of the bundle. -/
theorem keyRevoke_keeps {n} {s : State} : (keyRevoke n s).pending = s.pending ∧ (keyRevoke n s).grade = s.grade ∧
    (keyRevoke n s).flash = s.flash ∧
    ((keyRevoke n s).fuses = s.fuses ∨ (keyRevoke n s).fuses = { s.fuses with revoked := s.fuses.revoked.set n true }) := by
  simp only [keyRevoke, State.answer, State.emit]
  split
  · simp
  · split <;> simp

/-- FUSE_BLOW changes the fuses' SVN by at most one. -/
theorem fuseBlow_keeps {s : State} : (fuseBlow s).pending = s.pending ∧ (fuseBlow s).grade = s.grade ∧ (fuseBlow s).flash = s.flash ∧
    ((fuseBlow s).fuses = s.fuses ∨
      s.fuses.svn < s.boot.svn ∧ (fuseBlow s).fuses = { s.fuses with svn := s.fuses.svn + 1 }) := by
  unfold fuseBlow
  split
  · simp
  · rename_i h
    simp only [State.advanceTo, true_and]
    exact .inr ⟨by omega, trivial⟩

/-- APPLY_COMPLETE writes the flash. -/
theorem applyComplete_keeps {b} {s : State} : (applyComplete b s).pending = s.pending ∧ (applyComplete b s).grade = s.grade ∧
    (applyComplete b s).fuses = s.fuses := by
  simp only [applyComplete, State.emit, State.tookFree]
  split
  · split
    · simp
    · split <;> simp
  · simp

/-- LC_TRANSITION changes the life-cycle state, as R425 allows, and the secret. -/
theorem lcTransition_keeps {target lc up} {s : State} :
    (lcTransition target lc up s).pending = s.pending ∧ (lcTransition target lc up s).grade = s.grade ∧
    ((lcTransition target lc up s).flash = s.flash ∨ (lcTransition target lc up s).flash = s.cutFlash) ∧
    ((lcTransition target lc up s).fuses = s.fuses ∨ lifeAllowed s.fuses.life target = true ∧
      (lcTransition target lc up s).fuses =
        { s.fuses with life := target, secret := if target = .provisioned then Config.entropy s.freeCtr else s.fuses.secret }) := by
  unfold lcTransition
  split
  · simp
  · split
    · simp [State.answer, State.emit]
    · rename_i h
      have e := lasting_iff.1 (State.resetDevice_lasting (c := .lc) (up := up) (s := (s.lcMove target).answer ccSuccess
        (if target = .provisioned then Config.slhDsaPublic (identityKey (s.lcMove target).fuses.secret) else [])))
      refine ⟨e.1, e.2.1, .inr e.2.2.2, .inr ⟨?_, e.2.2.1⟩⟩
      simpa using fun k => h (.inr (.inr (.inl k)))

/-- Parity bytes keep the canonical form. -/
theorem Mem.wf_flip {m : Mem} {a : Nat} {b : Byte} (h : m.wf = true) : (Mem.flip m a b).wf = true := Mem.wf_put h

end Sys2Proof.Machine
end

