-- ==== Sys2Proof/Safety.lean ====
section
/-!
DEFINITION. Sys2Proof/Safety.lean: what counts as a safe step and a safe run, and the tile commands with what a command at the head of
its task's segment meets, in the words that claims use.
-/
namespace Sys2Proof.Machine

/-- A step that stops neither with a fault nor with a refusal. -/
def StepOk (s : State) : Prop := ∃ t, step s = .next t

/-- n steps from s, none of which stops, lead to t. -/
def Runs : Nat → State → State → Prop
  | 0, s, t => s = t
  | n + 1, s, t => ∃ u, step s = .next u ∧ Runs n u t

/-! ## Tile commands (R243-R256) -/

/-- A tile command of the table: its opcode, the core and task whose head it issues, what the checker says of its operand reads, the check
made at issue and what it does where it executes. -/
structure TileRow where
  op : Nat
  core : Nat
  task : Nat
  chk : Check
  check : Ctx → Option CErr
  run : Ctx → Out

/-- A command of the drain, the row engine or the copy engine within its own scratchpad. -/
def spadRow (op core task : Nat) (chk : Check) (check : Ctx → Option CErr) (run : Ctx → SOut) : TileRow :=
  ⟨op, core, task, chk, fun x => firstErr [check x, x.spadCheck], fun x => (run x).toOut x⟩

/-- The tile command that a row of the table issues (R246-R254, R325-R337). -/
def tileRow : Instr → Option TileRow
  | .nop c t k => some ⟨0x00, c, t, k, nopCheck, nopRun⟩
  | .fill c t k => some ⟨0x01, c, t, k, fillCheck, fillRun⟩
  | .copyw c t k => some ⟨0x02, c, t, k, copywCheck, copywRun⟩
  | .dcmRd c t k => some ⟨0x03, c, t, k, dcmRdCheck, dcmRdRun⟩
  | .dcmWr c t k => some ⟨0x04, c, t, k, dcmWrCheck, dcmWrRun⟩
  | .exrdRow c t k => some ⟨0x05, c, t, k, exrdRowCheck, exrdRowRun⟩
  | .exrdCol c t k => some ⟨0x06, c, t, k, exrdColCheck, exrdColRun⟩
  | .put c t k => some ⟨0x07, c, t, k, putCheck, putRun⟩
  | .stgIn c t k => some ⟨0x08, c, t, k, stgInCheck, stgInRun⟩
  | .stgOut c t k => some ⟨0x09, c, t, k, stgOutCheck, stgOutRun⟩
  | .mm c t k => some ⟨0x10, c, t, k, mmCheck, mmRun⟩
  | .dcmColwr c t k => some ⟨0x11, c, t, k, colwrCheck, colwrRun⟩
  | .dcmFill c t k => some ⟨0x12, c, t, k, dcmFillCheck, dcmFillRun⟩
  | .dcmCopy c t k => some ⟨0x13, c, t, k, dcmCopyCheck, dcmCopyRun⟩
  | .cr c t k => some ⟨0x20, c, t, k, crCheck, crRun⟩
  | .pw c t k => some ⟨0x21, c, t, k, pwCheck, pwRun⟩
  | .pwt c t k => some ⟨0x22, c, t, k, pwtCheck, pwtRun⟩
  | .prog c t k => some ⟨0x23, c, t, k, progCheck, progRun⟩
  | .erase c t k => some ⟨0x24, c, t, k, eraseCheck, eraseRun⟩
  | .cal c t k => some ⟨0x25, c, t, k, (fun _ => some (CErr.plain stAccessDenied)), (fun x => Out.of x.c 0)⟩
  | .corrsel c t k => some ⟨0x26, c, t, k, (fun x => firstErr [corrselCheck x, x.spadCheck]), corrselRun⟩
  | .acc c t k => some (spadRow 0x30 c t k accCheck accRun)
  | .quant c t k => some (spadRow 0x31 c t k quantCheck quantRun)
  | .act c t k => some (spadRow 0x32 c t k actCheck actRun)
  | .rmsnorm c t k => some (spadRow 0x33 c t k (normCheck false) rmsnormRun)
  | .layernorm c t k => some (spadRow 0x34 c t k (normCheck true) layernormRun)
  | .softmax c t k => some (spadRow 0x35 c t k softmaxCheck softmaxRun)
  | .maxidx c t k => some (spadRow 0x36 c t k idxCheck (idxRun true))
  | .minidx c t k => some (spadRow 0x37 c t k idxCheck (idxRun false))
  | .topk c t k => some (spadRow 0x38 c t k topkCheck topkRun)
  | .merge c t k => some (spadRow 0x39 c t k mergeCheck mergeRun)
  | .sample c t k => some (spadRow 0x3A c t k sampleCheck sampleRun)
  | .bscale c t k => some (spadRow 0x3B c t k bscaleCheck bscaleRun)
  | .valign c t k => some (spadRow 0x3C c t k valignCheck valignRun)
  | .xdot c t k => some (spadRow 0x3D c t k xdotCheck xdotRun)
  | .deriv c t k => some (spadRow 0x40 c t k derivCheck derivRun)
  | .mask c t k => some (spadRow 0x41 c t k maskCheck maskRun)
  | .gstat c t k => some (spadRow 0x42 c t k gstatCheck gstatRun)
  | .normbwd c t k => some (spadRow 0x43 c t k normbwdCheck normbwdRun)
  | .smaxbwd c t k => some (spadRow 0x44 c t k smaxbwdCheck smaxbwdRun)
  | .optupd c t k => some (spadRow 0x45 c t k optupdCheck optupdRun)
  | .fmtsel c t k => some (spadRow 0x46 c t k fmtselCheck fmtselRun)
  | .waitbeat c t k => some ⟨0x50, c, t, k, waitbeatCheck, waitbeatRun⟩
  | .barrier c t k => some ⟨0x51, c, t, k, barrierCheck, barrierRun⟩
  | .tsend c t k => some ⟨0x52, c, t, k, putCheck, putRun⟩
  | .trecv c t k => some (spadRow 0x53 c t k trecvCheck trecvRun)
  | .token c t k => some ⟨0x54, c, t, k, tokenCheck, tokenRun⟩
  | .hset c t k => some ⟨0x55, c, t, k, hsetCheck, hsetRun⟩
  | .phase c t k => some ⟨0x56, c, t, k, phaseCheck, phaseRun⟩
  | .done c t k => some ⟨0x57, c, t, k, doneCheck, doneRun⟩
  | _ => none

/-- Opcodes of the commands that `spadRow` describes. -/
def spadOps : List Nat :=
  [0x30, 0x31, 0x32, 0x33, 0x34, 0x35, 0x36, 0x37, 0x38, 0x39, 0x3A, 0x3B, 0x3C, 0x3D, 0x40, 0x41, 0x42, 0x43, 0x44, 0x45, 0x46, 0x53]

/-- A command as it stands at the head, with no injection armed. -/
def State.ctxOf (s : State) (core task : Nat) (w : CmdWord) (chk : Check) : Ctx :=
  s.ctxAt core task w chk none

/-- The head of the segment is w, may issue, its fence is met, and its task discards nothing (R206, R217, R242); no injection is armed
for the core or the hub (R406). -/
def State.headIs (s : State) (core task : Nat) (w : CmdWord) : Prop :=
  s.issueHead core task = some w ∧ ((s.core core).task task).err.discarding = false ∧ fenceMet ((s.core core).task task) w = true ∧
  s.injection core = none ∧ s.injectionHub = none

/-- From s to t the head w left its segment and its DONE token counted; other tasks and cores and everything outside the cores stay. -/
def Issued (s t : State) (core task : Nat) (w : CmdWord) : Prop :=
  ((t.core core).task task).queue = ((s.core core).task task).queue.drop 1 ∧
  ((t.core core).task task).tokens = (((s.core core).task task).doneToken w).tokens ∧
  (∀ k, k ≠ task → (t.core core).task k = (s.core core).task k) ∧ (∀ c, c ≠ core → t.core c = s.core c) ∧
  t = { s with cores := t.cores, freeCtr := s.freeCtr + 1 }

/-- A PUT or TSEND of x from s to t: the destination tile of the other core holds the rows of the source. The destination's tasks stay, and
beside the two cores nothing changes. -/
def putMoved (s t : State) (core task : Nat) (w : CmdWord) (x : Ctx) : Prop :=
  ((t.core core).task task).queue = ((s.core core).task task).queue.drop 1 ∧ t = { s with cores := t.cores, freeCtr := s.freeCtr + 1 } ∧
  (t.core core).scratch = (s.core core).scratch ∧ (t.core (cwDestCore w)).tasks = (s.core (cwDestCore w)).tasks ∧
  (∀ c, c ≠ core → c ≠ cwDestCore w → t.core c = s.core c) ∧
  ∀ r < x.a.rows, ∀ j < 256, (t.core (cwDestCore w)).scratch.byte ((tileOf x.remoteHandle).rowAddr x.remoteTask.base r + j) =
    (s.core core).scratch.byte (x.a.rowAddr x.base r + j)

end Sys2Proof.Machine
end

