-- ==== Sys2Proof/Certificates/Slice0/Obligations.lean ====
section
/-!
DEFINITION. Sys2Proof/Certificates/Slice0/Obligations.lean: the statements for the provers.
-/
open Sys2Proof Sys2Proof.Machine

/-- For every command c and state s with c at the front of its queue, a step is exec of c on s with the rest of the queue. With no
command waiting, device time advances 1 ns and nothing else changes; a block that has tripped or stands at L3 does not tick. The
queue and the tick are the model's own way of giving the block its commands and its time (log entry 1). -/
def Obligations.StepRunsFrontCommand : Prop :=
  (∀ (c : Instr) (rest : List Instr) (s : State), s.pending = c :: rest → step s = exec c { s with pending := rest }) ∧
  ∀ s : State, s.pending = [] →
    step s = .next (if s.dead then s else { s with time := { s.time with now := s.time.now + 1 } })

/-- For every command of the table and every state: where exec answers a next state, the queue of waiting commands and the grade
are as before. -/
def Obligations.CommandsKeepQueueAndGrade : Prop :=
  ∀ (i : Instr) (s t : State), exec i s = .next t → t.pending = s.pending ∧ t.grade = s.grade

/-- In every step, whatever the command: the fused SVN never falls, a revoked key slot stays revoked, the key digests stay, and
the life-cycle state stays or makes one transition that R425 allows. -/
def Obligations.FusesMoveOneWay : Prop :=
  ∀ s t : State, step s = .next t →
    s.fuses.svn ≤ t.fuses.svn ∧
    (∀ k, s.fuses.revoked.getD k false = true → t.fuses.revoked.getD k false = true) ∧
    t.fuses.keyDigests = s.fuses.keyDigests ∧
    (t.fuses.life = s.fuses.life ∨ lifeAllowed s.fuses.life t.fuses.life = true)

/-- Inv s: the anti-rollback counter and the SVN of the running image are at most 64. Every step keeps Inv, in every state, not
only in states that a run reaches. -/
def Obligations.SvnInvariant : Prop :=
  ∀ s t : State, (s.fuses.svn ≤ 64 ∧ s.boot.svn ≤ 64) → step s = .next t → t.fuses.svn ≤ 64 ∧ t.boot.svn ≤ 64

/-- A block that has tripped stays tripped through every command but POWER_ON. -/
def Obligations.TripStaysUntilPowerOn : Prop :=
  ∀ (i : Instr) (s t : State), s.latches.tripped = true → exec i s = .next t →
    t.latches.tripped = true ∨ ∃ b p lc up, i = .powerOn b p lc up

/-- The SPI flash is written by the APPLY step of an update and by no other command. Only a reset that falls between
VerifyComplete and ApplyComplete cuts that writing and leaves no image (log entry 34, read from R420 by inference). -/
def Obligations.FlashChangesOnlyByApply : Prop :=
  ∀ (i : Instr) (s t : State), exec i s = .next t → t.flash = s.flash ∨ (∃ ok, i = .applyComplete ok) ∨
    (s.mgmt.applying = true ∧ t.flash = [] ∧ ((∃ b p lc up, i = .powerOn b p lc up) ∨ (∃ c up, i = .deviceReset c up) ∨
      (∃ up, i = .deviceResetMessage up) ∨ ∃ g lc up, i = .lcTransition g lc up))

/-- The install keys of the Vermilion store change only by KEY_SET, KEY_CLEAR, TAMPER, POWER_ON and LC_TRANSITION; no other reset
and no other command touches them. -/
def Obligations.InstallKeysChangeOnlyByName : Prop :=
  ∀ (i : Instr) (s t : State), exec i s = .next t → t.verm.slots = s.verm.slots ∨
    (∃ n o k, i = .keySet n o k) ∨ (∃ n, i = .keyClear n) ∨ (∃ c, i = .tamper c) ∨
    (∃ b p lc up, i = .powerOn b p lc up) ∨ (∃ g lc up, i = .lcTransition g lc up)

/-- At State.reset the queue is empty, the invariants of the other statements hold, device time is 0, the time base is FREE, the
default frame of 24 beats is in force with origin 0, and every memory has its canonical form. That no boot has run yet is the
model's choice (log entry 5). -/
def Obligations.ResetState : Prop :=
  State.reset.pending = [] ∧ State.reset.fuses.svn ≤ 64 ∧ State.reset.boot.svn ≤ 64 ∧ State.reset.latches.tripped = false ∧
  State.reset.time.now = 0 ∧ State.reset.time.lock = .free ∧ State.reset.frame.len = 24 ∧ State.reset.frame.origin = 0 ∧
  State.reset.staging.wf = true ∧ (∀ n, (State.reset.core n).scratch.wf = true ∧ (State.reset.core n).dcm.wf = true ∧ (State.reset.core n).side.wf = true) ∧
  (∀ p < 4, (State.reset.port p).msix.wf = true ∧ (State.reset.port p).host.wf = true) ∧
  State.reset.beatNs = 62500 ∧ State.reset.hubWord rFltSticky = 0 ∧ State.reset.boot.phase = .start

/-- In a block that runs: a PPS edge in LOCKED under source PPS is accepted when it lies within 10 us of a whole number of seconds
after the last accepted edge, which the slew since that edge moves with device time, and sets the measured offset and frequency
and the slew; otherwise it is rejected, sets the reject event and leaves the last edge. A PTM dialog before 2^PTM_INTERVAL beats
have passed since the last is not made. A failed PTM dialog counts; a good one in LOCKED clears the count and sets the slew.
TIME_FREQ out of range clears the presence, back in range sets it where a TIME_FREQ input is configured. Nothing else changes. -/
def Obligations.TimeInputsTakeEffect : Prop :=
  ∀ s : State, s.dead = false →
    (∀ edge freq l, s.timeSource = 1 → s.time.lock = .locked → s.time.lastEdge = some l → s.time.now ≤ edge →
      ∃ t, exec (.ppsEdge edge freq) s = .next t ∧ t = { s with time := t.time, hub := t.hub } ∧ t.time.now = edge ∧ t.time.lock = .locked ∧
        if (secondsAfter (s.edgeBase l) edge).1 ≤ 10000 then
          t.time.lastEdge = some edge ∧ t.time.ppsPresent = true ∧
          t.time.slew = nearestSecond (edge + s.time.slew) - edge ∧ t.hubWord rPhaseOffset = BitVec.ofInt 32 t.time.slew ∧
          t.hubWord rFreqOffset = BitVec.ofInt 32 freq ∧ ∀ o, o ≠ rPhaseOffset → o ≠ rFreqOffset → t.hubWord o = s.hubWord o
        else
          t.time.lastEdge = some l ∧ t.time.ppsPresent = false ∧ t.hubWord rTimeEvents = s.hubWord rTimeEvents ||| 1 ∧
          ∀ o, o ≠ rTimeEvents → t.hubWord o = s.hubWord o) ∧
    (∀ ok offset freq, s.timeSource = 2 → (∃ b, s.time.dialogAt = some b ∧ b ≤ s.beat ∧ s.beat < b + s.dialogBeats) →
      exec (.ptmDialog ok offset freq) s = .next s) ∧
    (∀ offset freq, s.timeSource = 2 → s.dialogDue = true →
      exec (.ptmDialog false offset freq) s =
        .next { s with time := { s.time with dialogAt := some s.beat, bad := s.time.bad + 1, good := 0 } } ∧
      ((s.port s.ptmPort).linkUp = true → s.time.lock = .locked →
        ∃ t, exec (.ptmDialog true offset freq) s = .next t ∧ t = { s with time := t.time, hub := t.hub } ∧
          t.time = { s.time with dialogAt := some s.beat, bad := 0, slew := offset } ∧
          t.hubWord rPhaseOffset = BitVec.ofInt 32 offset ∧ t.hubWord rFreqOffset = BitVec.ofInt 32 freq)) ∧
    (s.time.freqPresent = true → ¬(s.timeSource = 1 ∧ s.time.lock = .locked) →
      exec .timeFreqLost s = .next { s with time := { s.time with freqPresent := false } }) ∧
    (fld (s.hubWord rTimeCtrl) 7 6 ≠ 0 → fld (s.hubWord rTimeCtrl) 7 6 ≠ 3 →
      exec .timeFreqRestored s = .next { s with time := { s.time with freqPresent := true } })

/-- Where the loss condition of R32 (or 8 s without lock after a source change) holds, HOLDOVER_ENTERED moves to the next beat
boundary and enters HOLDOVER; HOLDOVER_LIMIT seconds later HOLDOVER_EXPIRED leaves it for FREE. The frame, streams, plans,
commands and cores are unchanged. -/
def Obligations.HoldoverEntersAndExpires : Prop :=
  ∀ s : State, s.dead = false →
    (s.lossMet = true → ∃ t, exec .holdoverEntered s = .next t ∧ t.time =
      { s.time with now := (s.advanceTo s.nextBoundary).time.now, lock := .holdover,
                    holdoverAt := some (s.advanceTo s.nextBoundary).time.now, changedAt := none, good := 0 } ∧
      t.frame = s.frame ∧ t.streams = s.streams ∧ t.plans = s.plans ∧ t.cmds = s.cmds ∧ t.cores = s.cores) ∧
    (∀ h, s.time.lock = .holdover → s.time.holdoverAt = some h → second * s.holdoverLimit + h ≤ s.time.now →
      ∃ t, exec .holdoverExpired s = .next t ∧ t.time = { s.time with lock := .free, holdoverAt := none } ∧
        t.frame = s.frame ∧ t.streams = s.streams ∧ t.plans = s.plans ∧ t.cmds = s.cmds ∧ t.cores = s.cores)

/-- A write of TIME_CTRL only waits. A waiting write that is a source change takes effect at the next beat boundary: TIME_CTRL
takes the value, a reserved SOURCE leaving SOURCE as it was, and the time base becomes FREE for source 0 and ACQUIRING otherwise.
Only time, that register and the stored source change. -/
def Obligations.TimeControlWritesWait : Prop :=
  ∀ s : State, s.dead = false →
    (∀ v, exec (.timeCtrlWrite v) s = .next { s with time := { s.time with ctrlPending := some v } }) ∧
    (∀ v, s.time.ctrlPending = some v → isSourceChange (s.hubWord rTimeCtrl) (timeCtrlNew (s.hubWord rTimeCtrl) v) = true →
      ∃ t, exec .sourceChange s = .next t ∧ t = { s with time := t.time, hub := t.hub, config := t.config } ∧
        t.time.now = (s.advanceTo s.nextBoundary).time.now ∧ t.time.ctrlPending = none ∧
        t.hubWord rTimeCtrl = timeCtrlNew (s.hubWord rTimeCtrl) v ∧ (∀ o, o ≠ rTimeCtrl → t.hubWord o = s.hubWord o) ∧
        t.time.lock = if fld (timeCtrlNew (s.hubWord rTimeCtrl) v) 1 0 = 0 then .free else .acquiring)

/-- A write of BEAT_LEN while locked has no effect but FRAME_STATUS.ERROR = 4; a write that changes the length waits. It takes
effect at an instant that is a beat boundary of both lengths, at or after now, from which the beat number counts in the new length
and the frame starts anew. -/
def Obligations.BeatLengthChanges : Prop :=
  ∀ s : State, s.dead = false →
    (∀ v, exec (.beatLenWrite v) s = .next
      (if s.time.lenLocked then s.setHub rFrameStatus (setFld (s.hubWord rFrameStatus) 7 4 4)
       else if fld v 1 0 = s.beatCode then s else { s with time := { s.time with lenPending := some (fld v 1 0) } })) ∧
    (∀ code < 4, s.time.lenPending = some code → ∃ t, exec .beatLenChange s = .next t ∧
      t = { s with time := t.time, hub := t.hub, frame := t.frame } ∧ t.beatNs = beatNsOf code ∧ t.time.lenPending = none ∧
      t.time.now % beatNsOf code = 0 ∧ t.time.now % s.beatNs = 0 ∧ s.time.now ≤ t.time.now ∧ t.frame.origin = t.time.now / beatNsOf code)

/-- A commit with GO waits with its PERSIST bit. At the frame boundary, where no partition table waits to apply first, the shadow
is checked: a frame that passes becomes the active one with the length of FRAME_CFG and the other bank, and is stored where
PERSIST is set; one that fails leaves the active frame and shows the code of the failed check in FRAME_STATUS.ERROR. -/
def Obligations.FrameCommits : Prop :=
  ∀ s : State, s.dead = false →
    (∀ v, bitAt v 0 = true → exec (.frameCommitGo v) s = .next { s with frame := { s.frame with commit := some (bitAt v 1) } }) ∧
    (∀ persist, s.frame.commit = some persist → s.parts.commit = none →
      ∃ t, exec .frameSwitch s = .next t ∧ t = { s with time := t.time, hub := t.hub, frame := t.frame, config := t.config } ∧
        s.time.now ≤ t.time.now ∧ t.frame.commit = none ∧ t.frame.shadow = s.frame.shadow ∧
        if frameCheck s.parts.entries s.nRegions s.frame.shadow (fld (s.hubWord rFrameCfg) 5 0 + 1) = 0 then
          t.frame.active = s.frame.shadow ∧ t.frame.len = fld (s.hubWord rFrameCfg) 5 0 + 1 ∧ t.frame.bank = !s.frame.bank ∧
          t.hub = s.hub ∧ t.config.frame =
            (if persist then some (frameRecord s.frame.shadow (fld (s.hubWord rFrameCfg) 5 0 + 1)) else s.config.frame)
        else t.frame.active = s.frame.active ∧ t.frame.len = s.frame.len ∧ t.frame.bank = s.frame.bank ∧ t.config = s.config ∧
          t.hubWord rFrameStatus = setFld (s.hubWord rFrameStatus) 7 4
            (frameCheck s.parts.entries s.nRegions s.frame.shadow (fld (s.hubWord rFrameCfg) 5 0 + 1)))

/-- A commit with GO waits with its PERSIST bit. At the next beat boundary the staged table is checked: one that passes comes into
force with the next sequence number, and is stored where PERSIST is set; one that fails changes nothing but PT_STATUS.ERROR, which
takes the code of the failed check. -/
def Obligations.PartitionTableCommits : Prop :=
  ∀ s : State, s.dead = false →
    (∀ v, bitAt v 0 = true → exec (.ptCommitGo v) s = .next { s with parts := { s.parts with commit := some (bitAt v 1) } }) ∧
    (∀ persist, s.parts.commit = some persist →
      ∃ t, exec .partitionTableApply s = .next t ∧ t = { s with time := t.time, hub := t.hub, parts := t.parts, config := t.config } ∧
        t.time = (s.advanceTo s.nextBoundary).time ∧ t.parts.commit = none ∧
        let code := (s.advanceTo s.nextBoundary).tableCheck s.stagedTable
        if code = 0 then t.parts.entries = s.stagedTable ∧ t.parts.seq = s.parts.seq + 1 ∧ t.hub = s.hub ∧
          t.config.partTable = (if persist then some t.parts else s.config.partTable)
        else t.parts.entries = s.parts.entries ∧ t.parts.seq = s.parts.seq ∧ t.config = s.config ∧
          t.hubWord rPtStatus = setFld (s.hubWord rPtStatus) 7 4 code)

/-- Where both sensed voltages are within 5 mV of the new point in time, VF_RAISE raises the region to it at the next beat
boundary, or, in a region whose stepped plan is within a step, once one of its steps begins; after 4 beats VF_ABANDON commands the
old voltages again, counts and sets its event; VF_LOWER lowers the frequency at a beat boundary and commands the voltages after
it. Every other region and everything else is unchanged. -/
def Obligations.VoltageAndFrequencyMove : Prop :=
  ∀ (s : State) (r : Fin 4), s.dead = false → r.val < s.regions.length →
    (∀ v b (core sram : Nat), (s.region r).raise = some (v, some b) → s.beat ≤ b + 4 →
      ((core : Int) - vfCoreMv v).natAbs ≤ 5 → ((sram : Int) - vfSramMv v).natAbs ≤ 5 →
      ∃ t, exec (.vfRaise r core sram) s = .next t ∧ (∀ q, q ≠ r.val → t.region q = s.region q) ∧
        if s.stepEdge r = true then
          t = { s with time := (s.advanceTo s.nextBoundary).time, regions := t.regions } ∧ t.region r = { s.region r with point := v, raise := none }
        else t = { s with regions := t.regions } ∧ t.region r = { s.region r with raise := some (v, none) }) ∧
    (∀ v (core sram : Nat), (s.region r).raise = some (v, none) → s.stepEdge r = true →
      ∃ t, exec (.vfRaise r core sram) s = .next t ∧ t = { s with time := (s.advanceTo s.nextBoundary).time, regions := t.regions } ∧
        t.region r = { s.region r with point := v, raise := none } ∧ ∀ q, q ≠ r.val → t.region q = s.region q) ∧
    (∀ v b, (s.region r).raise = some (v, some b) → b + 4 ≤ s.beat →
      ∃ t, exec (.vfAbandon r) s = .next t ∧ t = { s with regions := t.regions, hub := t.hub, out := t.out } ∧
        t.region r = { s.region r with raise := none } ∧ (∀ q, q ≠ r.val → t.region q = s.region q) ∧
        t.hubWord rVfAbandon = satAdd (s.hubWord rVfAbandon) 1 ∧ t.hubWord rPwrEvents = s.hubWord rPwrEvents ||| 0x20 ∧
        t.out = .pmbus r (vfCoreMv (s.region r).point) (vfSramMv (s.region r).point) :: s.out) ∧
    (∀ v, (s.region r).lower = some v → s.stepEdge r = true →
      ∃ t, exec (.vfLower r) s = .next t ∧ t = { s with time := (s.advanceTo s.nextBoundary).time, regions := t.regions, out := t.out } ∧
        t.region r = { s.region r with point := v, lower := none, raise := none } ∧ (∀ q, q ≠ r.val → t.region q = s.region q) ∧
        t.out = .pmbus r (vfCoreMv v) (vfSramMv v) :: s.out)

/-- In a block that runs: a droop deeper than DROOP_MV stops matrix issue in its region and counts; its recovery ends 256 cycles
after the droop. A dip is recorded with its beat; 4 clean beats after the last one it ends at the next boundary. A regulator alert
sets its event. Telemetry is read every 16 beats, and a reading is kept for every regulator that answered. -/
def Obligations.DroopAndDipRespond : Prop :=
  ∀ s : State, s.dead = false →
    (∀ (r : Fin 4) depth, s.droopMv < depth → r.val < s.regions.length →
      ∃ t, exec (.droop r depth) s = .next t ∧ t = { s with regions := t.regions, hub := t.hub } ∧
        t.region r = { s.region r with droop := some ((s.region r).droop.getD s.time.now) } ∧
        t.hubWord (rDroopCount + 4 * r) = satAdd (s.hubWord (rDroopCount + 4 * r)) 1) ∧
    (∀ (r : Fin 4) ns d, (s.region r).droop = some d → ns ≤ s.beatNs → r.val < s.regions.length →
      ∃ t, exec (.droopRecovery r ns) s = .next t ∧ t = { s with regions := t.regions, time := t.time } ∧
        t.region r = { s.region r with droop := none } ∧ d + ns + ceilDiv 2560 (vfMhz100 (s.region r).point) ≤ t.time.now) ∧
    (∀ rail, ∃ t, exec (.supplyDip rail) s = .next t ∧ t.power.dip = some s.beat ∧ t.cmds = s.cmds ∧ t.streams = s.streams) ∧
    (∀ b, s.power.dip = some b → b + 4 ≤ s.beat →
      ∃ t, exec .dipRecovery s = .next t ∧ t.power = { s.power with dip := none } ∧ t.time.now = max s.time.now ((s.beat + 1) * s.beatNs) ∧
        t.cmds = s.cmds ∧ t.streams = s.streams ∧ t.hub = s.hub) ∧
    (∀ rail w, ∃ t, exec (.pmbAlert rail w) s = .next t ∧ bitAt (t.hubWord rPwrEvents) 4 = true ∧ t.cmds = s.cmds ∧ t.power = s.power) ∧
    (∀ l, (∀ b, s.power.readAt = some b → b + 16 ≤ s.beat) → ∃ t, exec (.pmbusTelemetry l) s = .next t ∧ t = { s with power := t.power } ∧
      t.power.readAt = some s.beat ∧ ∀ x ∈ l, x.reading.isSome = true → x ∈ t.power.readings) ∧
    (∀ l b, s.power.readAt = some b → b ≤ s.beat → s.beat < b + 16 → exec (.pmbusTelemetry l) s = .next s)

/-- A sensor at 120 degrees trips the block; below it nothing happens. A reading of every sensor, none hot, sets the temperature
registers, and one of the wrong shape stops the block. The throttle ceiling falls after 16 throttled beats and rises after 64 cool
ones. A brake pulse of at least 1 us holds the device at minimum power, a shorter one does nothing, and 16 beats after the pin
rose the brake ends at a beat boundary. -/
def Obligations.ThermalControlActs : Prop :=
  ∀ s : State,
    (∀ c, s.latches.tripped = false → 120 ≤ c → exec (.thermTrip c) s =
      .next { s with latches := { s.latches with tripped := true }, out := .pin "THERM_TRIP_N" false :: s.out }) ∧
    (∀ c, c < 120 → exec (.thermTrip c) s = .next s) ∧
    (s.dead = false →
      (∀ sensors hub : List Int, sensors.length = 32 → hub.length = 2 → s.power.severe = false → (∀ x ∈ sensors ++ hub, x < 85) →
        ∃ t, exec (.temperatureRead sensors hub) s = .next t ∧ t.power = { s.power with hubTemp := listMax hub } ∧
          t.hubWord (rTempMax + 16) = BitVec.ofNat 32 (unsigned 8 (listMax hub))) ∧
      (∀ sensors hub : List Int, ¬(sensors.length = 32 ∧ hub.length = 2) → exec (.temperatureRead sensors hub) s = .fault .illFormed) ∧
      (∀ r : Fin 4, 16 ≤ (s.region r).throttleBeats → exec (.throttleStep r) s =
        .next (s.setRegion r { s.region r with
          throttleBeats := 0, ceiling := min (if s.rateMode then 12 else 7) ((s.region r).ceiling + 1) })) ∧
      (∀ r : Fin 4, (s.region r).throttleBeats < 16 → 64 ≤ (s.region r).coolBeats → 0 < (s.region r).ceiling → exec (.throttleStep r) s =
        .next (s.setRegion r { s.region r with coolBeats := 0, ceiling := (s.region r).ceiling - 1 })) ∧
      (∀ ns, 1000 ≤ ns → ∃ t, exec (.pwrBrake ns) s = .next t ∧ t.power = { s.power with brake := true, brakeAt := s.time.now + ns } ∧
        t.hubWord rPwrEvents = s.hubWord rPwrEvents ||| 8 ∧ t.cmds = s.cmds ∧ t.streams = s.streams) ∧
      (∀ ns, ns < 1000 → exec (.pwrBrake ns) s = .next s) ∧
      (s.power.brake = true → s.power.brakeAt + 16 * s.beatNs ≤ (s.advanceTo s.nextBoundary).time.now →
        ∃ t, exec .brakeRelease s = .next t ∧ t.power = { s.power with brake := false } ∧
          t.time = (s.advanceTo s.nextBoundary).time ∧ t.hub = s.hub ∧ t.cmds = s.cmds ∧ t.streams = s.streams))

/-- The measured energy of a beat enters the history, newest first, and WINDOW_ENERGY, AVG_POWER and LAST_BEAT_POWER take the
window's sum, its mean and the beat's power; where prediction and measurement of every active region agree within 20 %, only
regions, these registers and the history change. An energy list of the wrong shape stops the block. A measurement of a run moves
the estimate of its key by (8 x slot energy - est) / 16, the slot energy scaled to full rate and VF0; an idle slot teaches the
static energy, a free value (log entry 25; rounding: log entry 75). Conservative mode ends at its beat. A write of PWR_CFG waits
for the beat boundary. -/
def Obligations.CirqueKeepsItsBudget : Prop :=
  ∀ s : State, s.dead = false →
    (∀ (uj : List Nat) hub, uj.length = 4 → ∃ t, exec (.cirqueBudgetEpoch uj hub) s = .next t ∧
      t.power = { s.power with history := ((uj.sum + hub) :: s.power.history).take historyCap, hubUj := hub } ∧
      t.hub64 rWindowEnergy = ((((uj.sum + hub) :: s.power.history).take historyCap).take s.windowBeats).sum % 2 ^ 64 ∧
      t.hubWord rAvgPower =
        BitVec.ofNat 32 (((((uj.sum + hub) :: s.power.history).take historyCap).take s.windowBeats).sum / (1000 * s.windowS)) ∧
      t.hubWord rLastBeatPower = BitVec.ofNat 32 (1000000 * (uj.sum + hub) / s.beatNs) ∧
      t.time = s.time ∧ t.cmds = s.cmds ∧ t.streams = s.streams ∧ t.cores = s.cores) ∧
    (∀ (uj : List Nat) hub, uj.length = 4 →
      (∀ r < 4, s.active r = true → 5 * (((s.region r).predicted : Int) - uj.getD r 0).natAbs ≤ uj.getD r 0) →
      ∃ t, exec (.cirqueBudgetEpoch uj hub) s = .next t ∧ t = { s with regions := t.regions, hub := t.hub, power := t.power } ∧
        ∀ r < 4, r < s.regions.length → (t.region r).estimates = (s.region r).estimates ∧
          (t.region r).conservative = (s.region r).conservative ∧ (s.active r = true → (t.region r).offBeats = 0)) ∧
    (∀ (uj : List Nat) hub, uj.length ≠ 4 → exec (.cirqueBudgetEpoch uj hub) s = .fault .illFormed) ∧
    (∀ (r : Fin 4) uj run, s.active r = true → r.val < s.regions.length → (s.region r).run = some run → run.klass = 0 →
      ∃ t, exec (.cirqueEstimateUpdate r uj) s = .next t ∧ t = { s with regions := t.regions, freeCtr := s.freeCtr + 1 } ∧
        t.region r = { s.region r with staticUj := (s.free 0).toNat } ∧ ∀ q, q ≠ r.val → t.region q = s.region q) ∧
    (∀ (r : Fin 4) uj run, s.active r = true → r.val < s.regions.length → (s.region r).run = some run → run.klass ≠ 0 →
      ∃ t, exec (.cirqueEstimateUpdate r uj) s = .next t ∧ t = { s with regions := t.regions } ∧
        let key := s.runKey r run.klass run.part
        let est := ((s.region r).estimate key.1).getD key.2
        let f := vfFactor (s.region r).point
        let slot := (uj - (s.region r).staticUj) * 16 * f.2 / (max 1 (s.runLevel r run.klass run.part) * f.1)
        (t.region r).estimate key.1 = some ((est : Int) + (8 * (slot : Int) - (est : Int)) / 16).toNat ∧
        (t.region r).estimates.length ≤ max 128 (s.region r).estimates.length ∧
        ∀ q, q ≠ r.val → t.region q = s.region q) ∧
    (∀ (r : Fin 4) b, (s.region r).conservative = some b → b ≤ s.beat → exec (.conservativeEnd r) s =
      .next (s.setRegion r { s.region r with conservative := none })) ∧
    (∀ v, s.manageable = true → exec (.pwrCfgWrite v) s = .next { s with power := { s.power with cfgPending := some v } })

/-- A beat boundary moves device time to the start of the next beat, at which each port takes its cadence and what waited for the
boundary takes effect; with nothing waiting, nothing else of the state named changes. A task switch at the first slot of a run
starts that run with the class and partition of the frame. The end of a run clears it, keeps the lowest guard left, and counts an
overrun where it came late. -/
def Obligations.BeatBoundaryAndRuns : Prop :=
  ∀ s : State,
    (s.dead = false → exec .beatBoundary s = .next (s.advanceTo ((s.beat + 1) * s.beatNs)).atBoundary) ∧
    (s.dead = false → s.cmds = [] → s.sleepy = false → s.time.ctrlPending = none → s.power.cfgPending = none → s.braked = false →
      ∃ t, exec .beatBoundary s = .next t ∧ t.time.now = (s.beat + 1) * s.beatNs ∧ t.ports = s.ports.map Port.takeCadence ∧
        t.hub = s.hub ∧ t.streams = s.streams ∧ t.plans = s.plans ∧ t.power = s.power ∧ t.config = s.config) ∧
    (∀ (r : Fin 4) (slot : Fin 8), s.serving = true → (s.region r).run = none → s.active r = true → r.val < s.regions.length →
      s.time.now ≤ s.slotStart s.beat slot → runFirst (fun j => s.slotByte s.beat j r) slot = slot.val →
      ∃ t, exec (.taskSwitch r slot) s = .next t ∧ t = { s with time := t.time, regions := t.regions, cores := t.cores } ∧
        t.time.now = s.slotStart s.beat slot ∧ ∃ run, (t.region r).run = some run ∧ run.beat = s.beat ∧ run.first = slot.val ∧
          run.klass = slotClass (s.slotByte s.beat slot r) ∧ run.part = slotPart (s.slotByte s.beat slot r)) ∧
    (∀ (r : Fin 4) late guardLeft run, s.dead = false → (s.region r).run = some run → r.val < s.regions.length →
      ∃ t, exec (.runEnd r late guardLeft) s = .next t ∧ s.slotStart run.beat (run.first + run.slots) ≤ t.time.now ∧
        (late = 0 → t = { s with time := t.time, regions := t.regions, cores := t.cores, hub := t.hub } ∧ (t.region r).run = none ∧
          t.hubWord rGuardLow = BitVec.ofNat 32 (min (s.hubWord rGuardLow).toNat guardLeft)) ∧
        (late ≠ 0 → t.hubWord rOverrunCount = satAdd (s.hubWord rOverrunCount) 1))

/-- POWER_ON clears the install keys and the trip latch, samples the straps and LC_ENABLE, and keeps fuses and flash; a device
reset by any of its causes keeps the install keys too. A reset that falls between VerifyComplete and ApplyComplete of an update
cuts the writing of the flash (log entry 34, read from R420 by inference). Each ends booted where the image in the flash passes
every check of R416, and failed with the code of the failing check otherwise. -/
def Obligations.ResetsKeepWhatLasts : Prop :=
  ∀ (s : State) (up : StartUp),
    let after := match s.cutUpdate.bootCode up with
      | 0 => BootPhase.booted
      | c => .failed c
    (∀ b p lc, ∃ t, exec (.powerOn b p lc up) s = .next t ∧ t.pending = s.pending ∧ t.grade = s.grade ∧ t.fuses = s.fuses ∧
      t.flash = s.cutFlash ∧ t.verm.slots = [] ∧ t.latches.tripped = false ∧ t.boot.strapBif = b ∧ t.boot.strapPart = p ∧
      t.boot.lcEnable = lc ∧ t.boot.phase = after) ∧
    (∀ c, s.latches.tripped = false → s.boot.phase ≠ .start → ∃ t, exec (.deviceReset c up) s = .next t ∧
      t.fuses = s.fuses ∧ t.flash = s.cutFlash ∧ t.verm.slots = s.verm.slots ∧ t.boot.lcEnable = s.boot.lcEnable ∧ t.boot.phase = after) ∧
    (s.managed = true → ∃ t, exec (.deviceResetMessage up) s = .next t ∧
      t.fuses = s.fuses ∧ t.flash = s.cutFlash ∧ t.verm.slots = s.verm.slots ∧ t.boot.phase = after) ∧
    (s.latches.tripped = false → s.boot.phase ≠ .start → s.mgmt.update = .applied → ∃ t, exec (.activateFirmware up) s = .next t ∧
      t.fuses = s.fuses ∧ t.flash = s.flash ∧ t.verm.slots = s.verm.slots ∧ t.boot.phase = after)

/-- After a start-up that booted, DEVICE_READY marks the block ready, locks BEAT_LEN and starts the time of the next fuse; beside
the ports' registers and messages nothing else changes, and the block serves. -/
def Obligations.DeviceReadySets : Prop :=
  ∀ s : State, s.dead = false → s.boot.phase = .booted → ∃ t, exec .deviceReady s = .next t ∧
    t = { s with boot := { s.boot with phase := .ready }, time := { s.time with lenLocked := true },
                 mgmt := { s.mgmt with lastFuse := s.time.now }, ports := t.ports, out := t.out } ∧ t.serving = true

/-- A region reset ends the region's run, sets its bit of RESET_CAUSE, brings the region into service or leaves it out of service,
and keeps fuses, keys, the running image, device time and the partitions. A port reset, and an FLR, which keeps the link up,
return the port's setup registers to their reset values and leave the other ports; where no command of the port is admitted
nothing else changes, but for the PTM port, whose reset is a loss of the reference. READY_BEAT stays (log entry 97). A port that
becomes ready has its link up and sends its readiness message. -/
def Obligations.RegionAndPortResets : Prop :=
  ∀ s : State,
    (∀ (r : Fin 4) lost (find : RegionFind), s.serving = true → r.val < s.nRegions → r.val < s.regions.length →
      ((s.region r).service = .inService ∨ (s.region r).service = .entering) →
      ∃ t, exec (.regionReset r lost find) s = .next t ∧ t = s.resetRegion r lost find ∧
        t.fuses = s.fuses ∧ t.verm = s.verm ∧ t.boot = s.boot ∧ t.time = s.time ∧ t.parts = s.parts ∧
        (t.region r).run = none ∧ ((t.region r).service = .inService ∨ (t.region r).service = .outOfService) ∧
        bitAt (t.hubWord rResetCause) (4 + r) = true) ∧
    (∀ (p : Fin 4) c, s.dead = false → (s.port p).present = true → p.val < s.ports.length →
      ∃ t, exec (.portReset p c) s = .next t ∧ t.cores = (s.resetPort p false).cores ∧ (t.port p).linkUp = false ∧ (t.port p).ready = false ∧
        ((∀ k ∈ s.cmds, k.port ≠ p.val) →
          t = { s with ports := t.ports, time := t.time } ∧
          t.port p = { Port.init with present := true, readyBeat := (s.port p).readyBeat, host := (s.port p).host, aer := (s.port p).aer } ∧
          (∀ q, q ≠ p.val → t.port q = s.port q) ∧ (¬(s.timeSource = 2 ∧ s.ptmPort = p.val) → t.time = s.time))) ∧
    (∀ (p : Fin 4), s.answers p = true → p.val < s.ports.length →
      ∃ t, exec (.flr p) s = .next t ∧ t.cores = (s.resetPort p true).cores ∧ (t.port p).linkUp = true ∧ (t.port p).ready = false ∧
        ((∀ k ∈ s.cmds, k.port ≠ p.val) →
          t = { s with ports := t.ports, time := t.time } ∧
          t.port p = { Port.init with present := true, linkUp := true, readyBeat := (s.port p).readyBeat, host := (s.port p).host,
                                      aer := (s.port p).aer } ∧
          (∀ q, q ≠ p.val → t.port q = s.port q) ∧ (¬(s.timeSource = 2 ∧ s.ptmPort = p.val) → t.time = s.time))) ∧
    (∀ p : Fin 4, s.dead = false → (s.port p).present = true → (s.port p).ready = false →
      exec (.portReady p) s = .next ((s.setPort p { s.port p with linkUp := true, ready := true }).emit (.drs p)))

/-- Where a function answers: its Bus Master Enable changes, and writes that waited go out; its D-state changes, and after D3hot
its work waits for its next poll; ASPM moves its link; an AtomicOp completes with Unsupported Request; and a failed read of the
host ends the command that made it with HOST_DMA_ERROR and is logged under AER. -/
def Obligations.PortsAnswerConfiguration : Prop :=
  ∀ (s : State) (p : Fin 4), s.answers p = true →
    (∀ on, exec (.busMasterEnable p on) s = .next ((s.setPort p { s.port p with busMaster := on }).flushPort p) ∧
      (p.val < s.ports.length → (s.port p).queued = [] → ∃ t, exec (.busMasterEnable p on) s = .next t ∧
        t = { s with ports := t.ports } ∧ t.port p = { s.port p with busMaster := on })) ∧
    (p.val < s.ports.length →
      (∃ t, exec (.d3hotEntry p) s = .next t ∧ t = { s with ports := t.ports } ∧ t.port p = { s.port p with d3hot := true, resuming := false } ∧
        (t.port p).dmaOn = false) ∧
      (∃ t, exec (.d3hotExit p) s = .next t ∧ t = { s with ports := t.ports } ∧
        t.port p = { s.port p with d3hot := false, resuming := (s.port p).d3hot || (s.port p).resuming })) ∧
    exec (.d3hotEntry p) s = .next (s.setPort p { s.port p with d3hot := true, resuming := false }) ∧
    exec (.d3hotExit p) s = .next (s.setPort p { s.port p with d3hot := false, resuming := (s.port p).d3hot || (s.port p).resuming }) ∧
    (∀ enter, exec (.aspmL1 p enter) s = .next (s.setPort p { s.port p with l1 := enter })) ∧
    exec (.atomicopRequest p) s = .next ((s.setPort p { s.port p with l1 := false }).emit (.unsupportedRequest p)) ∧
    (∀ id c kind, s.serving = true → s.cmd? id = some c → c.port = p.val → c.readsHost = true →
      ∃ t, exec (.hostDmaError p id kind) s = .next t ∧ t = (s.endCmd c stHostDmaError).aerOn [p.val] false ∧ .aer p.val false ∈ t.out)

/-- A dormant entry is refused in the cases of R440 and then only shows REFUSED; an accepted one waits while a command is admitted
or a write is queued. A write of 0 while it waits returns the region to service; a dormant region comes back into service.
Hibernation is refused while a stream is open, waits in the same way, and is left by a write of 0. -/
def Obligations.SleepEntersAndLeaves : Prop :=
  ∀ s : State, s.manageable = true →
    (∀ (r : Fin 4) v, r.val < s.nRegions → hibState s = 0 → (s.region r).service = .inService →
      (s.dormantRefused r = true → exec (.regionDormantEntry r v) s =
        .next (s.setHub (pmWord r) (setFld (s.hubWord (pmWord r)) 16 16 1))) ∧
      (s.dormantRefused r = false → s.drained = false → exec (.regionDormantEntry r v) s =
        .next ((s.setHub (pmWord r) ((v ||| 1) &&& 2 ||| 1)).setRegion r { s.region r with service := .entering }))) ∧
    (∀ (r : Fin 4) v, r.val < s.nRegions → r.val < s.regions.length → hibState s = 0 → (s.region r).service = .dormant →
      ∃ t, exec (.regionDormantExit r v) s = .next t ∧ (t.region r).service = .inService ∧
        t.hubWord (pmWord r) = v &&& 0xFFFFFFFE &&& 2 ∧ t.cmds = s.cmds ∧ t.streams = s.streams) ∧
    (∀ (r : Fin 4) v, r.val < s.nRegions → hibState s = 0 → (s.region r).service = .entering → exec (.regionDormantExit r v) s =
      .next ((s.setHub (pmWord r) (v &&& 0xFFFFFFFE &&& 2)).setRegion r { s.region r with service := .inService })) ∧
    (hibState s = 0 → (∃ n x, (n, x) ∈ s.streams ∧ x.state ≠ .free) → exec .hibernateEntry s = .next (s.setHub rHibStatus 4)) ∧
    (hibState s = 0 → (∀ n x, (n, x) ∈ s.streams → x.state = .free) → s.drained = false →
      exec .hibernateEntry s = .next ((s.setHub rHibCtrl 1).setHub rHibStatus 1)) ∧
    (hibState s = 1 → exec .hibernateExit s = .next ((s.setHub rHibCtrl 0).setHub rHibStatus 0)) ∧
    (hibState s = 2 → ∃ t, exec .hibernateExit s = .next t ∧ t.hubWord rHibCtrl = 0 ∧ t.hubWord rHibStatus = 0 ∧ t.streams = s.streams)

/-- A register read answers the words of the registers and changes only registers that a read clears, one of them to its reset
value and the others not; at L3 nothing is cleared. An invalid access answers code 3 and changes nothing. A write is refused at
L3; elsewhere a core register takes its RW bits and TIME_CTRL waits. A dump of 1 to 1,024 valid bytes answers them; any other is
invalid. STATUS answers the three status words. The codes for an access that no rule names are the model's (log entry 100). -/
def Obligations.SidebandRegisterAccess : Prop :=
  ∀ s : State, s.managed = true →
    (∀ da size ts, s.regWords da size = some ts → ∃ t, exec (.regRead da size) s = .next t ∧ exec (.rcRegisterRead .sideband da size) s = .next t ∧
      t = { s with hub := t.hub, cores := t.cores, freeCtr := s.freeCtr + 1, out := t.out } ∧
      t.out = .answer ccSuccess (ts.flatMap fun x => toLe 4 (s.regWord x).toNat) :: s.out) ∧
    (∀ da o, s.regWords da 4 = some [.hubReg o] → ∃ t, exec (.regRead da 4) s = .next t ∧ t.cores = s.cores ∧
      t.hubWord o = (if hubRc o && !s.latches.l3 then hubReset o else s.hubWord o) ∧ ∀ q, q ≠ o → t.hubWord q = s.hubWord q) ∧
    (∀ da size v, s.regWords da size = none → exec (.regRead da size) s = .next (s.answer ccInvalid []) ∧
      exec (.regWrite da size v) s = .next (s.answer ccInvalid [])) ∧
    (∀ da size v ts, s.regWords da size = some ts → s.latches.l3 = true → exec (.regWrite da size v) s = .next (s.answer ccRefused [])) ∧
    (∀ da v c o, s.regWords da 4 = some [.coreReg c o] → s.latches.l3 = false → ¬(cDeckOwner ≤ o ∧ o < cDeckOwner + 0x300) →
      ∃ t, exec (.regWrite da 4 v) s = .next t ∧ t = { s with cores := t.cores, out := .answer ccSuccess [] :: s.out } ∧
        (t.core c).reg o = (s.core c).reg o &&& ~~~coreRw o ||| v.setWidth 32 &&& coreRw o ∧
        (∀ q, q ≠ o → (t.core c).reg q = (s.core c).reg q) ∧ ∀ d, d ≠ c → t.core d = s.core d) ∧
    (∀ da v, s.regWords da 4 = some [.hubReg rTimeCtrl] → s.latches.l3 = false →
      ∃ t, exec (.regWrite da 4 v) s = .next t ∧ t = { s with time := t.time, out := .answer ccSuccess [] :: s.out } ∧
        t.time = { s.time with ctrlPending := some (v.setWidth 32) }) ∧
    (∀ da len ts, 1 ≤ len → len ≤ 1024 → (List.range len).mapM (fun i => s.target (da + BitVec.ofNat 48 i)) = some ts →
      ∃ t, exec (.dumpRead da len) s = .next t ∧ t = { s with hub := t.hub, cores := t.cores, freeCtr := s.freeCtr + 1, out := t.out } ∧
        t.out = .answer ccSuccess (ts.map s.dumpByte) :: s.out) ∧
    (∀ da len, len = 0 ∨ 1024 < len ∨ (List.range len).mapM (fun i => s.target (da + BitVec.ofNat 48 i)) = none →
      exec (.dumpRead da len) s = .next (s.answer ccInvalid [])) ∧
    exec .status s = .next (s.answer ccSuccess (toLe 4 s.lcStatus.toNat ++ toLe 4 s.bootStatus.toNat ++ toLe 4 s.fltStatus.toNat))

/-- A read of the low half of DEVICE_TIME latches its high half, and a read of a latched high half returns the latched value and
frees that register's latch; a misaligned read returns zero. A host read of any register changes nothing but the latch and the
link state. A write that is misaligned, of a wrong size or to a halted port only wakes the link. POLL_CTRL, EVENT_CTRL,
DOORBELL_BASE and a message of the MSI-X table take their writable bits; a read-only register takes nothing. That no RC register
lies in a BAR is the model's reading (log entry 101). -/
def Obligations.HostRegisterAccess : Prop :=
  ∀ (s : State) (p : Fin 4), s.reachable p = true → p.val < s.ports.length →
    (∀ off v, off % 8 = 0 → wide off = some off → mget (s.port p).latch off = some v →
      ∃ t, exec (.latchedHighRead p (off + 4)) s = .next t ∧ t = { s with ports := t.ports, out := .hostRead p (v.setWidth 64) :: s.out } ∧
        t.port p = { s.port p with l1 := false, latch := sdel (s.port p).latch off }) ∧
    (exec (.latchedHighRead p 0xC000) s = .next
      ((s.setPort p { s.port p with l1 := false, latch := sins (s.port p).latch 0xC000 (half s.time.now 4) }).emit
        (.hostRead p (BitVec.ofNat 64 (s.time.now % 2 ^ 32))))) ∧
    (∀ off, off % 4 ≠ 0 → exec (.latchedHighRead p off) s =
      .next ((s.setPort p { s.port p with l1 := false }).emit (.hostRead p 0))) ∧
    (∀ da size, ∃ t v, exec (.rcRegisterRead (.host p) da size) s = .next t ∧
      t = { s with ports := t.ports, out := .hostRead p v :: s.out } ∧ t.port p = { s.port p with l1 := false, latch := (t.port p).latch }) ∧
    (∀ bar off size v, s.portWritable p = false ∨ (size ≠ 4 ∧ size ≠ 8) ∨ off % size ≠ 0 →
      exec (.registerWrite p bar off size v) s = .next (s.setPort p { s.port p with l1 := false })) ∧
    (s.portWritable p = true → ∀ v,
      exec (.registerWrite p .bar0 0x118 4 v) s = .next (s.setPort p { s.port p with l1 := false, pollCtrl := v.setWidth 32 &&& 0x1F }) ∧
      exec (.registerWrite p .bar0 0x11C 4 v) s = .next (s.setPort p { s.port p with l1 := false, eventCtrl := v.setWidth 32 &&& 0x8000003F }) ∧
      exec (.registerWrite p .bar0 0 4 v) s = .next (s.setPort p { s.port p with l1 := false }) ∧
      ((List.range 64).any (s.sqActive p) = false → exec (.registerWrite p .bar0 0x110 8 v) s =
        .next (s.setPort p { s.port p with l1 := false, doorbellBase := v &&& ~~~0x1FF#64 })) ∧
      (∀ n < 64, bitAt (s.port p).pba n = false → exec (.registerWrite p .bar2 (16 * n + 8) 4 v) s =
        .next (s.setPort p { s.port p with l1 := false, msix := (s.port p).msix.write (16 * n + 8) (toLe 4 (v.setWidth 32).toNat) })))

/-- An enable of a submission ring whose fields are valid is stored; it is refused with code 2 where its completion ring is not
enabled, with code 1 where it changes another field of an active ring, with code 5 where the ring is still active after a disable.
A disable that changes no other field is stored. A completion ring is enabled with a base and a size of 6 to 16, else refused with
code 6; its disable is refused with code 4 while an active submission ring names it. A refusal records its code and offset in
SETUP_ERR and sets the port event, and changes no ring. -/
def Obligations.RingSetupWrites : Prop :=
  ∀ (s : State) (p : Fin 4) (n : Fin 64) (v : Word), s.portWritable p = true → p.val < s.ports.length →
    let q := (s.port p).sq n
    let c := (s.port p).cq n
    let on := (v ||| 0x80000000) &&& sqCfgBits
    let onC := (v ||| 0x80000000) &&& cqCfgBits
    let error := fun code off => State.portEvent (s.setPort p { s.port p with setupErr := BitVec.ofNat 32 (code * 0x10000 + off) }) p 3
    ((s.sqActive p n = false ∨ bitAt q.cfg 31 = true ∧ (on ^^^ q.cfg) &&& 0x7FFFFFFF = 0) → bitAt ((s.port p).cq (fld on 21 16)).cfg 31 = true →
      6 ≤ fld on 4 0 → fld on 4 0 ≤ 16 → q.base ≠ 0 → q.headword ≠ 0 → (s.port p).doorbellBase ≠ 0 →
      exec (.sqEnable p n v) s = .next (s.setPort p ((s.port p).setSq n { q with cfg := on }))) ∧
    (s.sqActive p n = false → bitAt ((s.port p).cq (fld on 21 16)).cfg 31 = false → exec (.sqEnable p n v) s = .next (error 2 (0x1008 + 0x40 * n))) ∧
    (s.sqActive p n = true → (on ^^^ q.cfg) &&& 0x7FFFFFFF ≠ 0 → exec (.sqEnable p n v) s = .next (error 1 (0x1008 + 0x40 * n))) ∧
    (s.sqActive p n = true → bitAt q.cfg 31 = false → (on ^^^ q.cfg) &&& 0x7FFFFFFF = 0 →
      exec (.sqEnable p n v) s = .next (error 5 (0x1008 + 0x40 * n))) ∧
    ((v &&& 0x7FFFFFFF) &&& sqCfgBits = q.cfg &&& 0x7FFFFFFF → exec (.sqDisable p n v) s =
      .next (s.setPort p ((s.port p).setSq n { q with cfg := (v &&& 0x7FFFFFFF) &&& sqCfgBits }))) ∧
    (bitAt c.cfg 31 = false → 6 ≤ fld onC 4 0 → fld onC 4 0 ≤ 16 → c.base ≠ 0 →
      exec (.cqEnable p n v) s = .next (s.setPort p ((s.port p).setCq n { c with cfg := onC }))) ∧
    (bitAt c.cfg 31 = false → (fld onC 4 0 < 6 ∨ 16 < fld onC 4 0 ∨ c.base = 0) → exec (.cqEnable p n v) s = .next (error 6 (0x2008 + 0x40 * n))) ∧
    ((v &&& 0x7FFFFFFF) &&& cqCfgBits = c.cfg &&& 0x7FFFFFFF →
      ((∀ k < 64, s.sqActive p k = true → fld ((s.port p).sq k).cfg 21 16 ≠ n) → exec (.cqDisable p n v) s =
        .next (s.setPort p ((s.port p).setCq n { c with cfg := (v &&& 0x7FFFFFFF) &&& cqCfgBits, inEffect := false }))) ∧
      (∀ k < 64, s.sqActive p k = true → fld ((s.port p).sq k).cfg 21 16 = n.val → exec (.cqDisable p n v) s = .next (error 4 (0x2008 + 0x40 * n))))

/-- A poll moves device time to its instant. A port does not poll twice at one instant, nor after a port whose turn comes later.
At a port that may issue no request it does nothing more, but that a port left in D3hot until then resumes. At another every ring
enable takes effect, at most ceil(256 / cadence) commands are admitted and none is lost, and other ports, regions, plans and the
tasks, scratchpads and decks of the cores stay. The coalescing time-out comes at a beat boundary, at least BEATS beats after the
oldest unsignalled entry, and no entry is left unsignalled. A completion of a host read fills the bytes it brings and no other. -/
def Obligations.PollServesRings : Prop :=
  ∀ (s : State) (p : Fin 4),
    (∀ k, s.serving = true → k < (s.port p).cadence → (s.port p).dmaOn = false → (s.port p).resuming = false →
      exec (.doorbellPoll p k) s = .next (s.advanceTo (s.pollInstant p k))) ∧
    (∀ k, s.serving = true → k < (s.port p).cadence → (s.port p).resuming = true → p.val < s.ports.length →
      ∃ t, exec (.doorbellPoll p k) s = .next t ∧ (t.port p).resuming = false ∧ ∀ q, q ≠ p.val → t.port q = s.port q) ∧
    (∀ k, s.serving = true → ∀ q, (s.port q).polledAt = some (s.pollInstant p k) → s.pollInstant p k / s.beatNs = s.beat →
      q < 4 → (q + 4 - s.beat % 4) % 4 < (p.val + 4 - s.beat % 4) % 4) ∧
    (∀ k, s.serving = true → k < (s.port p).cadence → (s.port p).dmaOn = true →
      ∃ t, exec (.doorbellPoll p k) s = .next t ∧ t.time = (s.advanceTo (s.pollInstant p k)).time ∧
        (p.val < s.ports.length → (t.port p).polledAt = some t.time.now) ∧
        (∀ n < 64, ((t.port p).sq n).inEffect = bitAt ((s.port p).sq n).cfg 31) ∧
        (∀ n < 64, ((t.port p).cq n).inEffect = bitAt ((s.port p).cq n).cfg 31) ∧
        (∀ q, q ≠ p.val → t.port q = s.port q) ∧ s.cmds.length ≤ t.cmds.length ∧
        t.cmds.length ≤ s.cmds.length + ceilDiv 256 (s.port p).cadence ∧ t.regions = s.regions ∧ t.plans = s.plans ∧
        (∀ n, (t.core n).tasks = (s.core n).tasks ∧ (t.core n).scratch = (s.core n).scratch ∧ (t.core n).decks = (s.core n).decks)) ∧
    (∀ cq : Fin 64, s.dead = false → ((s.port p).cq cq).unsignalled ≠ 0 → bitAt ((s.port p).cq cq).coal 31 = true →
      ∃ t, exec (.msixCoalesceTimeout p cq) s = .next t ∧ t = { s with time := t.time, ports := t.ports, out := t.out } ∧
        s.time.now ≤ t.time.now ∧ t.time.now % s.beatNs = 0 ∧
        (((s.port p).cq cq).oldestBeat + fld ((s.port p).cq cq).coal 7 0) * s.beatNs ≤ t.time.now ∧
        (p.val < s.ports.length → ((t.port p).cq cq).unsignalled = 0 ∧ (t.port p).sqs = (s.port p).sqs ∧ (t.port p).host = (s.port p).host)) ∧
    (∀ addr data, s.serving = true → (s.port p).dmaOn = true → p.val < s.ports.length →
      ∃ t, exec (.hostReadCompletion p addr data) s = .next t ∧ t = { s with ports := t.ports } ∧
        t.port p = { s.port p with host := (s.port p).host.write addr.toNat data, l1 := false } ∧
        (∀ i < data.length, (t.port p).host.byte (addr.toNat + i) = data.getD i 0) ∧
        ∀ a, a < addr.toNat ∨ addr.toNat + data.length ≤ a → (t.port p).host.byte a = (s.port p).host.byte a)

/-- Without a free completion place, or where test 4 of R317 holds, the ring is held: its head stays and no command is admitted. A
descriptor that fails a test is consumed: the head moves past it, a place is reserved and it has an entry. One that passes every
test is admitted: the head moves past it, a place is reserved, and the command joins the list of admitted commands with the next
number. -/
def Obligations.DescriptorHeldConsumedOrTaken : Prop :=
  ∀ (s : State) (p n : Nat), p < s.ports.length →
    let q := (s.port p).sq n
    let cq := fld q.cfg 21 16
    let c := s.cmdOf p n ((s.portPart p).getD 4) (s.descAt p n)
    let t := (s.examine p n).1
    (((s.port p).cq cq).hasPlace = false → (s.examine p n).2 = (false, none) ∧ ((t.port p).sq n).head = q.head ∧ ((t.port p).sq n).held = true ∧
      ((t.port p).cq cq).full = true ∧ t.cmds = s.cmds) ∧
    (((s.port p).cq cq).hasPlace = true →
      (s.verdict c (s.portPart p).isSome = .hold → (s.examine p n).2 = (false, none) ∧ ((t.port p).sq n).head = q.head ∧
        ((t.port p).sq n).held = true ∧ t.cmds = s.cmds ∧ t.streams = s.streams) ∧
      (∀ st, s.verdict c (s.portPart p).isSome = .consume st → (s.examine p n).2.1 = true ∧ (s.examine p n).2.2.isSome = true ∧
        ((t.port p).sq n).head = q.head + 1 ∧ ((t.port p).sq n).held = false ∧ ((t.port p).cq cq).reserved = ((s.port p).cq cq).reserved + 1 ∧
        t.cmds = s.cmds ∧ t.streams = s.streams) ∧
      (s.verdict c (s.portPart p).isSome = .take → (s.examine p n).2 = (true, none) ∧ ((t.port p).sq n).head = q.head + 1 ∧
        ((t.port p).sq n).held = false ∧ ((t.port p).cq cq).reserved = ((s.port p).cq cq).reserved + 1 ∧
        t.cmds.map (·.id) = s.cmds.map (·.id) ++ [s.nextCmd] ∧ t.nextCmd = s.nextCmd + 1))

/-- A descriptor of a port without a partition is consumed with ACCESS_DENIED, a malformed one with BAD_DESCRIPTOR, one whose
stream test fails with that status, before any later test. One that is admitted passed every test, came in time, found the block
awake, and its partition had room for a query or a stream. A stream of another partition is denied; one whose close is admitted
takes no command but an ABORT close (log entry 85); a FAILED one takes only a close. -/
def Obligations.AdmissionTestsInOrder : Prop :=
  ∀ (s : State) (c : Cmd),
    s.verdict c false = .consume stAccessDenied ∧
    (c.malformed (s.corpus? c.part).isSome = true → s.verdict c true = .consume stBadDescriptor) ∧
    (∀ st, c.malformed (s.corpus? c.part).isSome = false → s.streamTest c = some st → s.verdict c true = .consume st) ∧
    (s.verdict c true = .take → c.malformed (s.corpus? c.part).isSome = false ∧ s.streamTest c = none ∧ s.commandTest c = none ∧
      s.quotaTest c = none ∧ s.late c = false ∧ s.sleepy = false ∧
      (c.op = 0x10 ∨ c.op = 0x11 → s.queriesInFlight c.part < (s.part c.part).queryInflight) ∧
      (c.op = 0x01 → s.streamsCharged c.part < (s.part c.part).streams)) ∧
    (c.names = true → c.named < s.nStreams → (s.stream c.named).state ≠ .free →
      ((s.stream c.named).part ≠ c.part → s.streamTest c = some stAccessDenied) ∧
      ((s.stream c.named).part = c.part → (∃ e ∈ s.cmds, e.op = 0x04 ∧ e.named = c.named) → ¬(c.op = 0x04 ∧ c.flag 0 = true) →
        s.streamTest c = some stBadStream) ∧
      ((s.stream c.named).part = c.part → (∀ e ∈ s.cmds, e.op = 0x04 → e.named ≠ c.named) → (s.stream c.named).state = .failed → c.op ≠ 0x04 →
        s.streamTest c = some stStreamFailed))

/-- The entry is written at the completion count of the ring that the command names, the count rises by one and one place is no
longer reserved; beside it only the head word is written. The command leaves the list of admitted commands and its stream records
the completion. Other ports, cores, plans, runs, corpora and staging stay. -/
def Obligations.CompletionEntersRing : Prop :=
  ∀ (s : State) (c : Cmd) (r : Result), c.discard = false → (s.port c.port).dmaOn = true → c.port < s.ports.length →
    let cq := (s.port c.port).cq c.cq
    let q := (s.port c.port).sq c.sq
    let a := cq.base.toNat + 32 * (cq.count.toNat % cq.size)
    let t := s.complete c r
    t.cmds = s.cmds.filter (fun x => x.id != c.id) ∧ ((t.port c.port).cq c.cq).count = cq.count + 1 ∧
    ((t.port c.port).cq c.cq).reserved = cq.reserved - 1 ∧
    (q.headword.toNat + 8 ≤ a ∨ a + 32 ≤ q.headword.toNat →
      (t.port c.port).host.read a 32 = r.entry c.tag c.sq s.time.now cq.count.toNat cq.size) ∧
    (∀ x, (x < a ∨ a + 32 ≤ x) → (x < q.headword.toNat ∨ q.headword.toNat + 8 ≤ x) →
      (t.port c.port).host.byte x = (s.port c.port).host.byte x) ∧
    (∀ p, p ≠ c.port → t.port p = s.port p) ∧ t.time = s.time ∧ t.cores = s.cores ∧ t.regions = s.regions ∧ t.plans = s.plans ∧
    t.runs = s.runs ∧ t.corpora = s.corpora ∧ t.staging = s.staging ∧
    (∀ n, c.stream? = some n → t.stream n = (s.stream n).ended r s.time.now) ∧ (∀ n, c.stream? ≠ some n → t.stream n = s.stream n)

/-- An open whose test passes takes the lowest free entry: it is idle, of the partition, kind and plans named, with no slot and no
token. One whose test fails completes with that status. A close with nothing before it frees the entry and the slot; of a plan
stream it unloads the plan, or completes with PLAN_BUSY while a stream names the plan. With ABORT, once no command of the stream
is in a step or batch, every command of the stream ends and the entry is free; until then nothing changes. Every other stream is
unchanged. -/
def Obligations.StreamsOpenAndClose : Prop :=
  ∀ (s : State) (id : Nat) (c : Cmd),
    (∀ s' n, s.admitted id 0x01 = some c → s.hubStart c = some s' → s'.commandTest c = none → s'.freeStream = some n →
      ∃ t, exec (.streamOpen id) s = .next t ∧ t.cmds = s.cmds.filter (fun x => x.id != id) ∧ t.time = s'.time ∧
        (t.stream n).state = .idle ∧ (t.stream n).kind = c.par 0x18 1 ∧ (t.stream n).part = c.part ∧ (t.stream n).plan = c.par 0x1A 2 ∧
        (t.stream n).prefill = c.par 0x1C 2 ∧ (t.stream n).length = 0 ∧ (t.stream n).slot = none ∧ (t.stream n).pending = none ∧
        (∀ m, m ≠ n → t.stream m = s.stream m) ∧ t.slots = s.slots ∧ t.cores = s.cores) ∧
    (∀ s' st, s.admitted id 0x01 = some c → s.hubStart c = some s' → s'.commandTest c = some st →
      exec (.streamOpen id) s = .next (s'.complete c (c.result st 0 0))) ∧
    (∀ s', s.admitted id 0x04 = some c → c.flag 0 = false → s.hubStart c = some s' → c.named < 8192 → (s.stream c.named).kind ≠ 3 →
      (∀ e ∈ s.cmds, e.stream? = some c.named → e.id = id) →
      ∃ t, exec (.streamClose id) s = .next t ∧ t.cmds = s.cmds.filter (fun x => x.id != id) ∧ t.stream c.named = Stream.init ∧
        (∀ m, m ≠ c.named → t.stream m = s.stream m) ∧ (∀ k, (s.stream c.named).slot = some k → mget t.slots k = none) ∧
        (∀ k, (s.stream c.named).slot ≠ some k → mget t.slots k = mget s.slots k) ∧ t.plans = s.plans ∧ t.cores = s.cores) ∧
    (∀ s' p, s.admitted id 0x04 = some c → c.flag 0 = false → s.hubStart c = some s' → c.named < 8192 → (s.stream c.named).kind = 3 →
      (∀ e ∈ s.cmds, e.stream? = some c.named → e.id = id) → s.plan? c.named = some p →
      ∃ t, exec (.streamClose id) s = .next t ∧ t.cmds = s.cmds.filter (fun x => x.id != id) ∧ (∀ m, m ≠ c.named → t.stream m = s.stream m) ∧
        if s.planNamed c.named = true then t.plans = s.plans ∧ t.cores = s.cores ∧ (t.stream c.named).state = .idle
        else t.stream c.named = Stream.init ∧ t.plan? c.named = none ∧ ∀ m, m ≠ c.named → t.plan? m = s.plan? m) ∧
    (s.admitted id 0x04 = some c → c.flag 0 = true → c.named < 8192 → (s.stream c.named).kind ≠ 3 →
      (∀ e ∈ s.cmds, e.stream? = some c.named → e.id ≠ id → s.inStepOrBatch e = false ∧ s.runOf e = none) →
      ∃ t, exec (.streamClose id) s = .next t ∧ t.stream c.named = Stream.init ∧ (∀ e ∈ t.cmds, e.stream? ≠ some c.named) ∧
        (∀ m, m ≠ c.named → t.stream m = s.stream m)) ∧
    (∀ e ∈ s.cmds, s.admitted id 0x04 = some c → c.flag 0 = true → c.named < 8192 → (s.stream c.named).kind ≠ 3 →
      e.stream? = some c.named → e.id ≠ id → s.inStepOrBatch e = true → exec (.streamClose id) s = .next s)

/-- An append or generate that may start reserves the pages it needs and begins; a first append takes its first token as the
pending one; a generate takes new parameters where it names them. An append or generate beyond the context limit completes with
CONTEXT_EXCEEDED, and a generate without an input token with NO_INPUT; the pages that the stream no longer needs return to its
partition. Only the stream named and the command change. -/
def Obligations.GenerationCommandsBegin : Prop :=
  ∀ (s : State) (id : Nat) (c : Cmd) (s1 : State), c.phase = .waiting → s.mayStart c = true →
    let x := s.stream c.named
    let pages := max x.pages (s.pagesNow c)
    (s.admitted id 0x02 = some c → x.limit < x.length + c.par 0x20 4 - b2n x.pending.isNone →
      exec (.streamAppend id) s = .next ((s.complete c (s.genResult c stContextExceeded 3)).trimPages c.named)) ∧
    (s.admitted id 0x02 = some c → x.length + c.par 0x20 4 - b2n x.pending.isNone ≤ x.limit → s.reservePages c = some s1 →
      (x.pending.isSome = true → ∃ t, exec (.streamAppend id) s = .next t ∧ t = { s with streams := t.streams, cmds := t.cmds } ∧
        t.cmd? id = some { c with phase := .running } ∧ t.stream c.named = { x with pages := pages } ∧
        ∀ m, m ≠ c.named → t.stream m = s.stream m) ∧
      (x.pending = none → c.par 0x20 4 ≠ 1 → ∃ t, exec (.streamAppend id) s = .next t ∧ t = { s with streams := t.streams, cmds := t.cmds } ∧
        t.cmd? id = some { c with phase := .running, done := 1 } ∧
        t.stream c.named = { x with pages := pages, pending := some (s.appendToken c 0) })) ∧
    (s.admitted id 0x03 = some c → x.pending = none → exec (.streamGenerate id) s = .next ((s.complete c (s.genResult c stNoInput 3)).trimPages c.named)) ∧
    (s.admitted id 0x03 = some c → x.pending.isSome = true → x.limit ≤ x.length →
      exec (.streamGenerate id) s = .next ((s.complete c (s.genResult c stContextExceeded 3)).trimPages c.named)) ∧
    (∀ p, s.admitted id 0x03 = some c → x.pending.isSome = true → x.length < x.limit → s.planOf c.named = some p →
      planStepped p.image = true → s.reservePages c = some s1 →
      ∃ t, exec (.streamGenerate id) s = .next t ∧ t = { s with streams := t.streams, cmds := t.cmds } ∧
        t.cmd? id = some { c with phase := .running } ∧ (t.stream c.named).pages = pages ∧
        (t.stream c.named).length = x.length ∧ (t.stream c.named).pending = x.pending ∧
        (c.par 0x28 8 = 0 → t.stream c.named = { x with pages := pages }) ∧ ∀ m, m ≠ c.named → t.stream m = s.stream m)

/-- A fence or time-wait completes at the next beat boundary once its not-before beat has come and nothing admitted before it
holds it back; until then it changes nothing. STATS writes the entry of its stream, and with its flag the service block, and
completes. -/
def Obligations.OrderCommandsComplete : Prop :=
  ∀ (s : State) (id : Nat) (c : Cmd),
    (∀ s', s.hubStart c = some s' → s' = s.advanceTo s.nextBoundary ∧ c.notBefore ≤ s'.beat ∧
      ∀ e ∈ s.cmds, e.id < c.id → s'.blocks e c = false) ∧
    (∀ s', s.admitted id 0x50 = some c → s.hubStart c = some s' →
      (c.flag 0 = false → exec (.fence id) s = .next (s'.complete c (c.result stSuccess 0 0)) ∧ exec (.fenceRing id) s = .next s) ∧
      (c.flag 0 = true → exec (.fenceRing id) s = .next (s'.complete c (c.result stSuccess 0 0)) ∧ exec (.fence id) s = .next s)) ∧
    (∀ s', s.admitted id 0x51 = some c → s.hubStart c = some s' → exec (.timeWait id) s = .next (s'.complete c (c.result stSuccess 0 0))) ∧
    (s.hubStart c = none → (s.admitted id 0x50 = some c → exec (.fence id) s = .next s ∧ exec (.fenceRing id) s = .next s) ∧
      (s.admitted id 0x51 = some c → exec (.timeWait id) s = .next s)) ∧
    (s.admitted id 0x52 = some c → ∃ t, exec (.stats id) s = .next t ∧ t.cmds = s.cmds.filter (fun x => x.id != id) ∧
      (t.stream c.named).commands = (s.stream c.named).commands + 1 ∧ (t.stream c.named).lastTime = s.time.now ∧
      (∀ m, m ≠ c.named → t.stream m = s.stream m) ∧
      t = ((s.setStream c.named { s.stream c.named with lastTime := s.time.now, commands := (s.stream c.named).commands + 1 }).tookFree.hostWrite
        c.port (c.par 0x18 8) (s.streamEntry c.named ++ (if c.flag 0 then s.serviceBlock c.part else []))).complete c
          { Result.plain stSuccess c.named with r0 := s.stepLength c.named })

/-- A copy in writes the named host bytes, as the port has read them, to the staging range and to no other byte of staging; a copy
out posts the staging bytes to the host and leaves staging. Each completes its command. -/
def Obligations.HostCopiesMoveBytes : Prop :=
  ∀ (s : State) (id : Nat) (c : Cmd) (p : Plan), s.plan? (c.par 0x20 2) = some p → s.mayStart c = true → s.copyRun p = true →
    (s.port c.port).dmaOn = true →
    (s.admitted id 0x40 = some c → ∃ t, exec (.copyIn id) s = .next t ∧ t.cmds = s.cmds.filter (fun x => x.id != id) ∧
      (∀ i < c.par 0x28 4, t.staging.byte (p.stageBase + c.par 0x24 4 + i) = (s.port c.port).host.byte (c.par 0x18 8 + i)) ∧
      (∀ a, a < p.stageBase + c.par 0x24 4 ∨ p.stageBase + c.par 0x24 4 + c.par 0x28 4 ≤ a → t.staging.byte a = s.staging.byte a) ∧
      t.cores = s.cores ∧ t.plans = s.plans ∧ t.runs = s.runs) ∧
    (s.admitted id 0x41 = some c → s.injectionHub = none → ∃ t, exec (.copyOut id) s = .next t ∧
      t = (s.hostWrite c.port (c.par 0x18 8) (s.staging.read (p.stageBase + c.par 0x24 4) (c.par 0x28 4))).complete c
        (c.result stSuccess (c.par 0x28 4) 0) ∧
      t.staging = s.staging ∧ t.cores = s.cores ∧ t.cmds = s.cmds.filter (fun x => x.id != id))

/-- PLAN_RUN marks its command running. TRAIN_STEP writes the train block and the batch into the staging window and nothing else
of staging. RUN_START begins the run at the next owned slot: step 0, the seed named or the seed of the plan, every task of the
plan at its first byte with x0 to x31 zero and its error record cleared. The hub starts a decode run for streams with work. -/
def Obligations.PlanRunsBegin : Prop :=
  ∀ s : State,
    (∀ id c, s.admitted id 0x31 = some c → c.phase = .waiting → s.mayStart c = true → ∃ t, exec (.planRun id) s = .next t ∧
      t = { s with cmds := t.cmds } ∧ t.cmd? id = some { c with phase := .running }) ∧
    (∀ id c p, s.admitted id 0x32 = some c → s.planOf c.named = some p → c.phase = .waiting → s.mayStart c = true →
      (c.par 0x28 4 = 0 ∨ (s.port c.port).dmaOn = true) → ∃ t, exec (.trainStep id) s = .next t ∧
      t = { s with cmds := t.cmds, staging := t.staging } ∧ t.cmd? id = some { c with phase := .running } ∧
      t.staging.read p.stageBase 8 = toLe 8 (s.stream c.named).trainStep ∧
      t.staging.read (p.stageBase + 8) 8 = toLe 8 (if c.par 0x18 8 = 0 then planSeed p.image else c.par 0x18 8) ∧
      t.staging.read (p.stageBase + 16) 4 = toLe 4 (c.par 0x2C 4) ∧
      (∀ i < c.par 0x28 4, t.staging.byte (p.stageBase + 256 + i) = (s.port c.port).host.byte (c.par 0x20 8 + i)) ∧
      ∀ a, a < p.stageBase ∨ p.stageBase + 256 + c.par 0x28 4 ≤ a → t.staging.byte a = s.staging.byte a) ∧
    (∀ id c p at_, s.serving = true → s.cmd? id = some c → (c.op = 0x31 ∨ c.op = 0x32) → c.phase = .running →
      s.plan? (s.runPlan c) = some p → s.run? (s.runPlan c) = none → s.nextRunSlot p c.notBefore = some at_ →
      (∀ k ∈ planCores p.image, planTask p.image < (s.core k).tasks.length) →
      ∃ t r, exec (.runStart id) s = .next t ∧ t.run? (s.runPlan c) = some r ∧ r.cmd = some id ∧ r.step = 0 ∧ r.inStep = false ∧
        r.seed = BitVec.ofNat 64 (if c.par 0x18 8 = 0 then planSeed p.image else c.par 0x18 8) ∧ s.time.now ≤ t.time.now ∧
        t.cmds = s.cmds ∧ t.plans = s.plans ∧ t.streams = s.streams ∧
        ∀ k ∈ planCores p.image, let tk := (t.core k).task (planTask p.image)
          (∀ n, tk.x n = 0) ∧ tk.pc = 0 ∧ tk.queue = [] ∧ tk.err = ErrRec.init ∧ tk.doneEnd = false ∧
          tk.seq = if planStepped p.image then .waitStep else .running) ∧
    (∀ n p at_, s.serving = true → s.plan? n = some p → planClass p.image = 1 → s.run? n = none → s.executing n ≠ [] →
      s.nextRunSlot p 0 = some at_ →
      ∃ t r, exec (.decodeRunStart n) s = .next t ∧ t.run? n = some r ∧ r.cmd = none ∧ r.step = 0 ∧ r.inStep = false ∧
        r.seed = BitVec.ofNat 64 (planSeed p.image) ∧ t.cmds = s.cmds ∧ t.streams = s.streams)

/-- A step begins at the next beat boundary that owns runs, after the beats of the step before, and lasts the beats its work
needs. When every task of the plan has marked the end of the step, the step completes and its count rises; when every task has
ended, the run ends and its command completes. A slot whose stream has reached the mark takes its next page, whose frames, at
places that are opaque (log entry 81), are filled with zeros, other bytes of the DCMs staying. The next chunk of an append fills
the next entry of the ring of chunks and no other byte of staging. -/
def Obligations.StepsAndPagesAdvance : Prop :=
  ∀ s : State, s.serving = true →
    (∀ n p r l, s.plan? n = some p → s.run? n = some r → planClass p.image ≠ 1 → s.stepReady p r = true →
      let b := s.nextBoundary / s.beatNs
      r.firstBeat + r.beats ≤ b → s.firstOwned (planUses p.image) (planClass p.image) p.part b = some b →
      s.stepLast p.image p.part b = some l →
      ∃ t r', exec (.stepStart n) s = .next t ∧ t.run? n = some r' ∧ r'.inStep = true ∧ r'.firstBeat = b ∧ r'.beats = l + 1 - b ∧
        r'.step = r.step + 1 ∧ t.time = (s.advanceTo (b * s.beatNs)).time ∧
        (∀ e ∈ t.planTasks p, e.2.doneEnd = false → planTask p.image < (s.core e.1).tasks.length → e.2.rowsLeft = [] ∧ e.2.doneStep = false) ∧ t.staging = s.staging ∧ t.cmds = s.cmds ∧ t.streams = s.streams) ∧
    (∀ n p r c id, s.plan? n = some p → s.run? n = some r → r.inStep = true → r.broken = false → r.fail = none → r.cmd = some id →
      s.cmd? id = some c → c.abort = false → s.runError p = none →
      (∀ e ∈ s.planTasks p, e.2.doneStep = true ∨ e.2.doneEnd = true) → (∃ e ∈ s.planTasks p, e.2.doneEnd = false ∧ e.2.seq ≠ .halted) →
      ∃ t r', exec (.stepComplete n) s = .next t ∧ t = { s with cores := t.cores, runs := t.runs } ∧ t.run? n = some r' ∧
        r'.inStep = false ∧ r'.stepsDone = r.stepsDone + 1 ∧ r'.step = r.step ∧ ∀ m, m ≠ n → t.run? m = s.run? m) ∧
    (∀ n p r c id, s.plan? n = some p → s.run? n = some r → r.broken = false → r.fail = none → r.cmd = some id →
      s.cmd? id = some c → c.op = 0x31 → c.abort = false → s.runError p = none → (∀ e ∈ s.planTasks p, e.2.doneEnd = true) →
      ∃ t, exec (.runComplete n) s = .next t ∧ t.run? n = none ∧ t.cmds = s.cmds.filter (fun x => x.id != id) ∧
        (∀ m, m ≠ n → t.run? m = s.run? m) ∧ t.plans = s.plans ∧ t.staging = s.staging) ∧
    (∀ k x, mget s.slots k = some x → 64 * x.allocated < (s.stream x.stream).limit → 64 * x.allocated ≤ (s.stream x.stream).length + 32 →
      s.pageRun (s.stream x.stream).part = true →
      ∃ t, exec (.pageAllocation k) s = .next t ∧ t = { s with slots := t.slots, cores := t.cores } ∧
        mget t.slots k = some { x with allocated := x.allocated + 1 } ∧ (∀ j, j ≠ k → mget t.slots j = mget s.slots j) ∧
        ∀ p, s.planOf x.stream = some p →
          let rows := fun f : Nat × Nat × Nat => frameRows (Config.pageKind p.image f.1 f.2.1 % 3) f.2.2
          let frames := pageOf p.image k x.allocated
          (∀ n, (∀ f ∈ frames, f.1 ≠ n) → t.core n = s.core n) ∧
          ∀ n, (s.core n).anyLost = false →
            (∀ f ∈ frames, f.1 = n → ∀ i < (rows f).2.1, ∀ j < (rows f).2.2.1,
              (t.core n).dcm.byte (dcmAddr f.2.1 ((rows f).1 + i) + (rows f).2.2.2 + j) = 0) ∧
            ∀ a, (∀ f ∈ frames, f.1 = n → ∀ i < (rows f).2.1, ∀ j < (rows f).2.2.1, a ≠ dcmAddr f.2.1 ((rows f).1 + i) + (rows f).2.2.2 + j) →
              (t.core n).dcm.byte a = (s.core n).dcm.byte a) ∧
    (∀ id c n p k r, s.admitted id 0x02 = some c → c.phase = .running → c.joined = 0 → c.abort = false →
      s.prefillOf c.named = some (n, p) → (s.stream c.named).slot = some k → s.run? n = some r →
      c.done < c.par 0x20 4 → ((s.executing n).filter fun e => e.joined != 0).length < 16 →
      ((s.executing n).find? fun e => e.joined == 0).map (·.id) = some id →
      s.hasPage c.named ((s.stream c.named).length + min 64 (c.par 0x20 4 - c.done) - 1) = true →
      ∃ t, exec (.prefillChunk id) s = .next t ∧ t = { s with staging := t.staging, plans := t.plans, cmds := t.cmds } ∧
        t.cmd? id = some { c with joined := min 64 (c.par 0x20 4 - c.done) } ∧ t.plan? n = some { p with chunks := p.chunks + 1 } ∧
        t.staging.num (p.stageBase + 320 * (p.chunks % 16)) 2 = k % 65536 ∧
        t.staging.num (p.stageBase + 320 * (p.chunks % 16) + 2) 4 = (s.stream c.named).length % 2 ^ 32 ∧
        ∀ a, a < p.stageBase + 320 * (p.chunks % 16) ∨ p.stageBase + 320 * (p.chunks % 16) + 320 ≤ a → t.staging.byte a = s.staging.byte a)

/-- A query fetches its vector, and a rerank its index list, when its not-before beat has come, and waits for a batch. At a beat
boundary with no batch in flight and no change waiting, a batch takes the ready queries in admission order up to the batch limit
and marks them running; while a batch is in flight no other starts. A batch completes only where the scan service may issue, in a
scan run or FILL slot of the partition; then every query of it has left the list of admitted commands and every other command is
still there; other batches stay where no column read fails. -/
def Obligations.QueriesAndBatches : Prop :=
  ∀ s : State, s.serving = true →
    (∀ id c, s.admitted id 0x10 = some c → c.phase = .waiting → c.content = [] → c.notBefore ≤ s.beat → (s.port c.port).dmaOn = true →
      ∃ t, exec (.queryScan id) s = .next t ∧ t = { s with cmds := t.cmds } ∧
        t.cmd? id = some { c with content := (s.port c.port).host.read (c.par 0x18 8) 1024 }) ∧
    (∀ id c, s.admitted id 0x11 = some c → c.phase = .waiting → c.content = [] → c.notBefore ≤ s.beat → (s.port c.port).dmaOn = true →
      ∃ t, exec (.queryRerank id) s = .next t ∧ t = { s with cmds := t.cmds } ∧
        t.cmd? id = some { c with content := (s.port c.port).host.read (c.par 0x18 8) 1024 ++
          (s.port c.port).host.read (c.par 0x28 8) (4 * c.par 0x30 2) }) ∧
    (∀ (p : Fin 4) k, s.corpus? p = some k → mget s.batches p = none → k.changes = [] →
      let s' := s.advanceTo s.nextBoundary
      let qs := (s'.readyQueries p).take (s.part p).queryBatch
      let from_ := if k.lastEnd = some s'.beat then k.seriesFrom else s'.beat
      qs ≠ [] → k.epochBeat ≠ some s'.beat →
      ∃ t, exec (.batchStart p) s = .next t ∧
        mget t.batches p = some { cmds := qs.map (·.id), start := s'.beat, epoch := k.epoch, replayed := false } ∧
        t.corpus? p = some { k with seriesFrom := from_ } ∧
        t.time = s'.time ∧ (∀ q ∈ qs, (t.cmd? q.id).map (·.phase) = some .running) ∧ t.cmds.map (·.id) = s.cmds.map (·.id) ∧
        (∀ n, n ≠ p.val → mget t.batches n = mget s.batches n ∧ t.corpus? n = s.corpus? n) ∧ t.cores = s.cores) ∧
    (∀ p : Fin 4, (mget s.batches p).isSome = true → exec (.batchStart p) s = .next s) ∧
    (∀ (p : Fin 4) k b reads, s.corpus? p = some k → mget s.batches p = some b → b.start ≤ s.beat → (s.scansNow p = true ∨ k.decks = []) →
      ∃ t, exec (.batchComplete ⟨p, reads⟩) s = .next t ∧ mget t.batches p = none ∧ (∀ id ∈ b.cmds, t.cmd? id = none) ∧
        (∀ c ∈ s.cmds, c.id ∉ b.cmds → ∃ d ∈ t.cmds, d.id = c.id) ∧ t.time = s.time ∧ t.plans = s.plans ∧
        (reads = [] → ∀ n, n ≠ p.val → mget t.batches n = mget s.batches n)) ∧
    (∀ (p : Fin 4) k b reads, s.corpus? p = some k → mget s.batches p = some b → b.start ≤ s.beat → s.scansNow p = false → k.decks ≠ [] →
      exec (.batchComplete ⟨p, reads⟩) s = .next s)

/-- Tombstones and erases of vectors of the corpus wait as a change; vectors outside it end the command with ACCESS_DENIED, and an
erase of a deck with a live vector with DECK_LIVE. At an epoch, with no batch in flight, every waiting change takes effect and the
epoch counts each. An erase ends once its decks are erased. A measurement in a maintenance run covers the decks of the corpus at
its epoch. That an erase ends so is the model's reading (log entry 92). -/
def Obligations.CorpusChangesTakeEffect : Prop :=
  ∀ s : State, s.serving = true →
    (∀ id c k, s.admitted id 0x21 = some c → c.flag 0 = false → c.phase = .waiting → s.mayStart c = true → (s.port c.port).dmaOn = true →
      s.corpus? c.part = some k →
      let l := s.hostWords c.port (c.par 0x18 8) (c.par 0x20 4)
      if l.all (fun i => (k.index? (i / 1024)).isSome) then
        ∃ t ch, exec (.corpusDeleteTomb id) s = .next t ∧ t = { s with corpora := t.corpora, cmds := t.cmds } ∧
          t.corpus? c.part = some { k with changes := k.changes ++ [ch] } ∧ ch.cmd = id ∧ ch.tomb = l ∧ ch.add = [] ∧ ch.remove = [] ∧
          (t.cmd? id).map (·.phase) = some .running
      else exec (.corpusDeleteTomb id) s = .next (s.complete c (c.result stAccessDenied 0 0))) ∧
    (∀ id c k es, s.admitted id 0x21 = some c → c.flag 0 = true → c.phase = .waiting → s.mayStart c = true → s.corpus? c.part = some k →
      c.decks ≠ [] → c.decks.eraseDups.mapM (fun d => (k.index? d).map fun j => (d, j)) = some es →
      if es.all (s.allTombed k) then
        ∃ t ch, exec (.corpusDeleteErase id) s = .next t ∧ t = { s with corpora := t.corpora, cmds := t.cmds } ∧
          t.corpus? c.part = some { k with changes := k.changes ++ [ch] } ∧ ch.cmd = id ∧ ch.remove = c.decks.eraseDups ∧ ch.add = []
      else exec (.corpusDeleteErase id) s = .next (s.complete c (c.result stDeckLive 0 0))) ∧
    (∀ id c, s.admitted id 0x21 = some c → c.flag 0 = true → c.phase = .finished → s.eraseLeft c = false →
      ∃ t, exec (.corpusDeleteErase id) s = .next t ∧ t.cmds = s.cmds.filter (fun x => x.id != id) ∧ t.corpora = s.corpora) ∧
    (∀ (p : Fin 4) k, s.corpus? p = some k → mget s.batches p = none → k.changes ≠ [] →
      (∀ c ∈ s.cmds, c.op = 0x20 → c.part = p.val → c.phase ≠ .running) →
      ∃ t k', exec (.corpusEpoch p) s = .next t ∧ t.corpus? p = some k' ∧ k'.changes = [] ∧
        k'.epoch = k.epoch + BitVec.ofNat 32 k.changes.length ∧ k'.epochBeat = some (s.advanceTo s.nextBoundary).beat ∧ t.time = (s.advanceTo s.nextBoundary).time ∧
        ∀ n, n ≠ p.val → t.corpus? n = s.corpus? n) ∧
    (∀ (p : Fin 4) k, s.corpus? p = some k → (List.range s.nRegions).any s.inMaintenance = true →
      ∃ t, exec (.corpusMeasurement p) s = .next t ∧ t = { s with corpora := t.corpora } ∧
        t.corpus? p = some { k with measured := some (k.epoch, s.contentsDigest ((List.range (192 * s.nCores)).filter fun d => (k.index? d).isSome)) })

/-- A NEW or COMPACT program that may take its decks begins to program each of them, with the column check, for the command, and
places them in the corpus in their order (log entry 122); a deck that it may not take ends it with the status, and a source
outside the corpus with ACCESS_DENIED. An attach adds the decks named as one change that waits for the next epoch. -/
def Obligations.CorpusProgramsStart : Prop :=
  ∀ (s : State) (id : Nat) (c : Cmd) (k : Corpus), s.admitted id 0x20 = some c → c.phase = .waiting → s.mayStart c = true →
    (s.port c.port).dmaOn = true → s.corpusFor c c.decks = .inr k →
    (c.flags = 0 → s.decksStatus c = none → ∃ t, exec (.corpusProgramNew id) s = .next t ∧ (t.cmd? id).map (·.phase) = some .running ∧
      t.corpus? c.part = some (k.place c.decks) ∧ (∀ d ∈ c.decks.take (chunks 1024 (s.newVectors c)).length,
        (t.deck (s.deckIdx d)).state = .programming ∧ (t.deck (s.deckIdx d)).programs id = true ∧ (t.deck (s.deckIdx d)).colcheck = true) ∧
      t.streams = s.streams ∧ t.time = s.time ∧ t.cmds.map (·.id) = s.cmds.map (·.id)) ∧
    (∀ st, c.flags = 0 → s.decksStatus c = some st → exec (.corpusProgramNew id) s = .next (s.complete c (c.result st 0 0))) ∧
    (∀ k0 vs, c.flags % 4 = 1 → s.corpus? c.part = some k0 → (s.sources c).mapM (s.vectorOf k0) = some vs → s.decksStatus c = none →
      ∃ t, exec (.corpusProgramCompact id) s = .next t ∧ (t.cmd? id).map (·.phase) = some .running ∧ t.corpus? c.part = some (k.place c.decks) ∧
      (∀ d ∈ c.decks.take (chunks 1024 vs).length, (t.deck (s.deckIdx d)).state = .programming ∧ (t.deck (s.deckIdx d)).programs id = true) ∧
      t.streams = s.streams ∧ t.time = s.time ∧ t.cmds.map (·.id) = s.cmds.map (·.id)) ∧
    (∀ k0, c.flags % 4 = 1 → s.corpus? c.part = some k0 → (s.sources c).mapM (s.vectorOf k0) = none →
      exec (.corpusProgramCompact id) s = .next (s.complete c (c.result stAccessDenied 0 0))) ∧
    (c.flags % 4 = 2 → s.attachStatus c = none → ∃ t ch, exec (.corpusProgramAttach id) s = .next t ∧
      t.corpus? c.part = some { k.unplace c.decks with changes := k.changes ++ [ch] } ∧ ch.cmd = id ∧ ch.add.map (·.1) = c.decks ∧ ch.remove = [] ∧
      ch.tomb = [] ∧ ch.last = true ∧ (t.cmd? id).map (·.phase) = some .running ∧ t.streams = s.streams ∧ t.time = s.time) ∧
    (∀ st, c.flags % 4 = 2 → s.attachStatus c = some st → exec (.corpusProgramAttach id) s = .next (s.complete c (c.result st 0 0)))

/-- An install begins to program every deck that it names with the bytes of the host, and once all are READY it completes and
leaves its record with the digest of their contents; a deck that it may not take ends it with the status. A plan container moves
into a free range of staging; one that passes its checks is loaded as the lowest free stream: the plan, its stream and its task on
every core of its mask; one that fails completes with the status and reason of the check. That a container with no free range
exceeds the quota is the model's reading (log entry 94). -/
def Obligations.InstallsAndPlanLoads : Prop :=
  ∀ (s : State) (id : Nat) (c : Cmd),
    (s.admitted id 0x22 = some c → c.flag 0 = false → c.phase = .waiting → s.mayStart c = true → (s.port c.port).dmaOn = true →
      (s.decksStatus c = none → ∃ t, exec (.modelInstall id) s = .next t ∧ (t.cmd? id).map (·.phase) = some .running ∧
        (∀ d ∈ c.decks, (t.deck (s.deckIdx d)).state = .programming ∧ (t.deck (s.deckIdx d)).programs id = true ∧
          (t.deck (s.deckIdx d)).fmt4 = c.flag 1 ∧ (t.deck (s.deckIdx d)).colcheck = false) ∧ t.installs = s.installs ∧ t.streams = s.streams) ∧
      ∀ st, s.decksStatus c = some st → exec (.modelInstall id) s = .next (s.complete c (c.result st 0 0))) ∧
    (s.admitted id 0x22 = some c → c.flag 0 = false → c.phase = .running → c.fail = none → s.allReady c.decks = true →
      ∃ t, exec (.modelInstall id) s = .next t ∧ t.cmds = s.cmds.filter (fun x => x.id != id) ∧
        t.installs = s.installs ++ [{ part := c.part, decks := c.decks, digest := s.contentsDigest c.decks }] ∧ t.streams = s.streams) ∧
    (s.admitted id 0x22 = some c → c.phase = .running → c.fail = none → s.allReady c.decks = false → exec (.modelInstall id) s = .next s) ∧
    (∀ s', s.admitted id 0x30 = some c → (s.port c.port).dmaOn = true → s.hubStart c = some s' →
      let h := (s.port c.port).host
      let len := c.par 0x20 4
      let b := h.read (c.par 0x18 8) len
      (len ≠ h.num (c.par 0x18 8 + 0xC) 4 ∨ 0x1000000 < len → exec (.planLoad id) s = .next (s'.complete c { c.result stPlanInvalid 0 0 with reason := 2 })) ∧
      (len = h.num (c.par 0x18 8 + 0xC) 4 → len ≤ 0x1000000 → s'.stageFree len = none →
        exec (.planLoad id) s = .next (s'.complete c (c.result stQuotaExceeded 0 0))) ∧
      ∀ base, len = h.num (c.par 0x18 8 + 0xC) 4 → len ≤ 0x1000000 → s'.stageFree len = some base →
      let s2 := s'.stageContainer base b
      (∀ n stage, s2.planCheck b c.part base = none → s2.freeStream = some n → s2.stageWindow b base = some stage →
        ∃ t, exec (.planLoad id) s = .next t ∧
          t.plan? n = some { part := c.part, image := b, stageBase := stage, codeBase := base, chunks := 0 } ∧
          t.staging = s.staging.write base b ∧
          (t.stream n).state = .idle ∧ (t.stream n).kind = 3 ∧ (t.stream n).part = c.part ∧ (t.stream n).plan = n ∧ (t.stream n).prefill = 0xFFFF ∧
          t.cmds = s.cmds.filter (fun x => x.id != id) ∧ (∀ m, m ≠ n → t.plan? m = s.plan? m ∧ t.stream m = s.stream m) ∧
          ∀ k ∈ planCores b, planTask b < (s.core k).tasks.length → ((t.core k).task (planTask b)).valid = true ∧
            ((t.core k).task (planTask b)).plan = n) ∧
      (∀ st r, s2.planCheck b c.part base = some (st, r) → exec (.planLoad id) s = .next (s2.complete c { c.result st 0 0 with reason := r })))

/-- A tile command whose task has no head that may issue, whose fence is not met, or whose opcode is not the one at the head
changes nothing. While the task discards, its head leaves the segment, its DONE token counts and nothing is read or written; a
DONE that is discarded marks its step or end, and a BARRIER counts as arrived. A reserved opcode fails with FORMAT_ERROR. Stated
for every tile command of the table. -/
def Obligations.TileHeadsWaitOrDiscard : Prop :=
  ∀ (i : Instr) (r : TileRow) (s : State), tileRow i = some r →
    let k := (s.core r.core).task r.task
    (s.issueHead r.core r.task = none → exec i s = .next s) ∧
    (∀ w, s.issueHead r.core r.task = some w → s.injection r.core = none → s.injectionHub = none →
      (k.err.discarding = false → fenceMet k w = false → exec i s = .next s) ∧
      (k.err.discarding = false → cwReserved (cwOpcode w) = false → cwOpcode w ≠ r.op → exec i s = .next s) ∧
      (k.err.discarding = true → cwReserved (cwOpcode w) = false → cwOpcode w ≠ r.op → exec i s = .next s) ∧
      (k.err.discarding = true → cwOpcode w = r.op → r.op = 0x51 →
        ∃ t, exec i s = .next t ∧ (t.core r.core).scratch = (s.core r.core).scratch ∧ (t.core r.core).dcm = (s.core r.core).dcm ∧
          ((t.core r.core).task r.task).queue = k.queue.drop 1 ∧ ((t.core r.core).task r.task).err = k.err ∧ t.staging = s.staging) ∧
      (k.err.discarding = true → cwOpcode w = 0x57 → r.op = 0x57 → r.task < (s.core r.core).tasks.length →
        ∃ t, exec i s = .next t ∧ if bitAt w 99 = true then ((t.core r.core).task r.task).doneEnd = true
          else ((t.core r.core).task r.task).doneStep = true) ∧
      (k.err.discarding = true → cwOpcode w = r.op → r.op ≠ 0x51 → remoteToken (s.ctxOf r.core r.task w r.chk) = [] →
        ∃ t, exec i s = .next t ∧ t = { s with cores := t.cores } ∧ (∀ c, c ≠ r.core → t.core c = s.core c) ∧
          (t.core r.core).scratch = (s.core r.core).scratch ∧ (t.core r.core).dcm = (s.core r.core).dcm ∧
          ((t.core r.core).task r.task).queue = k.queue.drop 1 ∧ ((t.core r.core).task r.task).tokens = (k.doneToken w).tokens ∧
          ((t.core r.core).task r.task).err = k.err) ∧
      (k.err.discarding = false → fenceMet k w = true → cwReserved (cwOpcode w) = true →
        exec i s = .next (s.failCmd (s.ctxOf r.core r.task w r.chk) CErr.format)))

/-- For every tile command of the table: where its opcode stands at the head, the fence is met and its check passes, it executes
as its row says if the engine and the run have room for it, else it waits; where it cannot issue yet, or goes on later, it stays;
where its check fails it fails with that error. What finishing and failing do is stated by TileFinishCounts and
TileFailureIsRecorded. -/
def Obligations.TileCommandsComplete : Prop :=
  ∀ (i : Instr) (r : TileRow) (s : State) (w : CmdWord), tileRow i = some r → s.headIs r.core r.task w → cwOpcode w = r.op →
    let x := s.ctxOf r.core r.task w r.chk
    (r.check x = none → (r.run x).stay = false → s.roomFor x (r.run x) = true → exec i s = .next (s.finishCmd x (r.run x))) ∧
    (r.check x = none → (r.run x).stay = false → s.roomFor x (r.run x) = false → exec i s = .next s) ∧
    (r.check x = none → (r.run x).stay = true →
      exec i s = .next (s.stayCmd x (r.run x))) ∧
    (∀ e, r.check x = some e → exec i s = .next (s.failCmd x e))

/-- A write is seen by reads of a later cycle than its own and by no other; of two writes to a byte that of the later cycle
stands, in one cycle that of the command issued later. The head leaves the segment; the token that it names counts one, and no
other token changes, unless its token waits; the rounding sequence number, class and events of the task move; every engine that it
holds is busy until its operation ends, and the core's next issue cycle follows this one. Other tasks, other cores and everything
outside the cores stay. -/
def Obligations.TileFinishCounts : Prop :=
  (∀ (c : Core) (a b u v : Nat) (bs : List Byte) (y z : Byte), c.late = [] →
    (c.landBytes a bs u).scratch.byte b = (if a ≤ b ∧ b < a + bs.length then bs.getD (b - a) 0 else c.scratch.byte b) ∧
    ((c.landBytes a bs u).seen fun _ => v).byte b =
      (if (a ≤ b ∧ b < a + bs.length) ∧ u < v then bs.getD (b - a) 0 else c.scratch.byte b) ∧
    ((c.landBytes a [y] u).landBytes a [z] v).scratch.byte a = if v < u then y else z) ∧
  ∀ (s : State) (x : Ctx) (o : Out), o.fx = [] → remoteToken x = [] → x.task < o.core.tasks.length → x.tm.icc = 0 →
    let t := s.finishCmd x o
    let a := o.core.task x.task
    let b := (t.core x.core).task x.task
    t = { s with cores := t.cores, freeCtr := s.freeCtr + 1 } ∧ (∀ c, c ≠ x.core → t.core c = s.core c) ∧
    b.queue = a.queue.drop 1 ∧ b.xs = a.xs ∧ b.handles = a.handles ∧ b.err = a.err ∧
    b.srSeq = a.srSeq + (if o.sr then 1 else 0) ∧ b.resClass = max a.resClass o.grade.klass ∧ b.resEvents = a.resEvents ||| o.grade.events ∧
    (∀ n < a.tokens.length, b.tokens.getD n 0 =
      if cwDone x.w = true ∧ o.defer = false ∧ n = cwDoneTok x.w then a.tokens.getD n 0 + 1 else a.tokens.getD n 0) ∧
    (∀ k, k ≠ x.task → (t.core x.core).task k = o.core.task k) ∧ (o.core.late = [] → (t.core x.core).scratch = o.core.scratch) ∧
    (t.core x.core).dcm = o.core.dcm ∧ (t.core x.core).decks = o.core.decks ∧ (t.core x.core).clock = x.tm.issue + 1 ∧
    (∀ h, o.hold = some h → ∀ k ∈ h.keys, k < 1000 → x.tm.start + h.busy ≤ sget 0 (t.core x.core).busy k)

/-- The first failure of a task fills its error record with opcode, status, beat and command word; a later one leaves the record;
from then on the task discards. The head leaves, its token counts, and no scratchpad or DCM byte changes. CAL fails with
ACCESS_DENIED. -/
def Obligations.TileFailureIsRecorded : Prop :=
  ∀ (s : State) (core : Fin 256) (task : Fin 4) (chk : Check) (w : CmdWord), s.headIs core task w →
    let x := s.ctxOf core task w chk
    let k := (s.core core).task task
    (∀ e, replayStatus e.status = false → e.status ≠ stFormatError → e.status ≠ stBoundFault → e.fx = [] → remoteToken x = [] →
      (∀ r, s.run? k.plan = some r → r.broken = false) →
      let t := s.failCmd x e
      t = { s with cores := t.cores } ∧ (∀ c, c ≠ core.val → t.core c = s.core c) ∧ (t.core core).scratch = (s.core core).scratch ∧
      (t.core core).dcm = (s.core core).dcm ∧ ((t.core core).task task).queue = k.queue.drop 1 ∧
      ((t.core core).task task).tokens = (k.doneToken w).tokens ∧ ((t.core core).task task).err.discarding = true ∧
      ((t.core core).task task).err.valid = true ∧
      (k.err.valid = true → ((t.core core).task task).err = { k.err with discarding := true }) ∧
      (k.err.valid = false → ((t.core core).task task).err.opcode = cwOpcode w ∧ ((t.core core).task task).err.status = e.status ∧
        ((t.core core).task task).err.beat = s.beat ∧ ((t.core core).task task).err.word = w)) ∧
    (cwOpcode w = 0x25 → exec (.cal core task chk) s = .next (s.failCmd x (CErr.plain stAccessDenied)))

/-- A command of these families that executes changes the scratchpad, side memory, counters and its own task of its core, and for
a training task the mirror in a DCM: no deck, stack, DCM record, reserve or instruction, no other task or core, and nothing
outside the cores. -/
def Obligations.DrainRowAndTrainingFrame : Prop :=
  ∀ (i : Instr) (r : TileRow) (s : State) (w : CmdWord), tileRow i = some r → r.op ∈ spadOps → r.chk = .clean → s.headIs r.core r.task w →
    cwOpcode w = r.op → r.check (s.ctxOf r.core r.task w r.chk) = none →
    s.roomFor (s.ctxOf r.core r.task w r.chk) (r.run (s.ctxOf r.core r.task w r.chk)) = true →
    ∃ t, exec i s = .next t ∧ Issued s t r.core r.task w ∧ (t.core r.core).decks = (s.core r.core).decks ∧
      (t.core r.core).imem = (s.core r.core).imem ∧ (t.core r.core).stk = (s.core r.core).stk ∧ (t.core r.core).dcms = (s.core r.core).dcms ∧
      (t.core r.core).reserves = (s.core r.core).reserves ∧
      (((s.core r.core).task r.task).klass ≠ 4 → (t.core r.core).dcm = (s.core r.core).dcm)

/-- Each command, on operand words without error, with no write in flight in the scratchpad and no DCM of the core lost, moves the
bytes of its source as they stood before it to its destination: the first row of A to every row of D, the rows and strip of A to
D, DCM rows to D, A to DCM rows, A to the tile of another core, staging to D, A to staging. FILL changes no byte outside the rows
of D, STG_OUT none outside its range of staging. NOP moves nothing. -/
def Obligations.CopiesMoveTheirBytes : Prop :=
  ∀ (s : State) (core : Fin 256) (task : Fin 4) (w : CmdWord), s.headIs core task w →
    let x := s.ctxOf core task w .clean
    let m := (s.core core).scratch
    (s.core core).late = [] → (s.core core).anyLost = false →
    let room := fun (o : Out) => s.roomFor x o = true
    (cwOpcode w = 0x00 → nopCheck x = none → room (nopRun x) → ∃ t, exec (.nop core task .clean) s = .next t ∧ Issued s t core task w ∧
      (t.core core).scratch = m ∧ (t.core core).dcm = (s.core core).dcm) ∧
    (cwOpcode w = 0x01 → fillCheck x = none → room (fillRun x) → ∃ t, exec (.fill core task .clean) s = .next t ∧ Issued s t core task w ∧
      (∀ r < x.d.rows, ∀ j < 256, (t.core core).scratch.byte (x.d.rowAddr x.base r + j) = m.byte (x.a.rowAddr x.base 0 + j)) ∧
      ∀ a, (∀ r < x.d.rows, a < x.d.rowAddr x.base r ∨ x.d.rowAddr x.base r + 256 ≤ a) → (t.core core).scratch.byte a = m.byte a) ∧
    (cwOpcode w = 0x02 → copywCheck x = none → room (copywRun x) → ∃ t, exec (.copyw core task .clean) s = .next t ∧ Issued s t core task w ∧
      (∀ r < x.a.rows, ∀ j < 256, (t.core core).scratch.byte (x.d.rowAddr x.base r + j) = m.byte (x.a.rowAddr x.base r + j)) ∧
      (∀ j < stripLen x.a.fmt x.a.rows, (t.core core).scratch.byte (x.d.stripAddr x.base + j) = m.byte (x.a.stripAddr x.base + j))) ∧
    (cwOpcode w = 0x03 → cwFlag12 w = false → fld w 80 73 = 0 → dcmRdCheck x = none → room (dcmRdRun x) →
      ∃ t, exec (.dcmRd core task .clean) s = .next t ∧ Issued s t core task w ∧ (t.core core).dcm = (s.core core).dcm ∧
        ∀ r < x.d.rows, ∀ j < 256, (t.core core).scratch.byte (x.d.rowAddr x.base r + j) =
          (s.core core).dcm.byte (dcmAddr (dcmOf x) (dcmRow x + r) + j)) ∧
    (cwOpcode w = 0x04 → cwFlag12 w = false → fld w 80 73 = 0 → dcmWrCheck x = none → room (dcmWrRun x) →
      ∃ t, exec (.dcmWr core task .clean) s = .next t ∧ Issued s t core task w ∧ (t.core core).scratch = m ∧
        ∀ r < x.a.rows, ∀ j < 256, (t.core core).dcm.byte (dcmAddr (dcmOf x) (dcmRow x + r) + j) = m.byte (x.a.rowAddr x.base r + j)) ∧
    (cwDestCore w ≠ core.val → (s.core (cwDestCore w)).late = [] → cwRemtok w = false → putCheck x = none → room (putRun x) →
      (cwOpcode w = 0x07 → ∃ t, exec (.put core task .clean) s = .next t ∧ putMoved s t core task w x) ∧
      (cwOpcode w = 0x52 → ∃ t, exec (.tsend core task .clean) s = .next t ∧ putMoved s t core task w x)) ∧
    (cwOpcode w = 0x08 → cwFlag12 w = false → stgInCheck x = none → room (stgInRun x) → ∃ t, exec (.stgIn core task .clean) s = .next t ∧
      Issued s t core task w ∧ ∀ r < x.d.rows, ∀ j < 256,
        (t.core core).scratch.byte (x.d.rowAddr x.base r + j) = s.staging.byte (stageAddr x + 256 * r + j)) ∧
    (cwOpcode w = 0x09 → cwFlag12 w = false → stgOutCheck x = none → room (stgOutRun x) → ∃ t, exec (.stgOut core task .clean) s = .next t ∧
      t = { s with cores := t.cores, freeCtr := s.freeCtr + 1, staging := t.staging } ∧ (t.core core).scratch = m ∧
      (∀ r < x.a.rows, ∀ j < 256, t.staging.byte (stageAddr x + 256 * r + j) = m.byte (x.a.rowAddr x.base r + j)) ∧
      ∀ a, a < stageAddr x ∨ stageAddr x + denseLen x.a.fmt x.a.rows ≤ a → t.staging.byte a = s.staging.byte a)

/-- WAITBEAT issues once the beat has come, in a run of its task, and stays until then. A core that arrives at a barrier before
the last member is counted there, and its token waits. TOKEN issues once every earlier command has ended. HSET writes one handle
from the scratchpad. PHASE tags the task. DONE marks the end of the step, or with END the end of the task, and takes its result
words. -/
def Obligations.SynchronisationActs : Prop :=
  ∀ (s : State) (core : Fin 256) (task : Fin 4) (w : CmdWord), s.headIs core task w →
    let x := s.ctxOf core task w .clean
    let k := (s.core core).task task
    let room := fun (o : Out) => s.roomFor x o = true
    (cwOpcode w = 0x50 → waitbeatCheck x = none →
      (waitTarget x ≤ s.beat → s.ownsRun core k = true → room (waitbeatRun x) →
        ∃ t, exec (.waitbeat core task .clean) s = .next t ∧ Issued s t core task w) ∧
      ((s.beat < waitTarget x ∨ s.ownsRun core k = false) → exec (.waitbeat core task .clean) s = .next (s.setCore core (s.core core)))) ∧
    (∀ p, cwOpcode w = 0x51 → barrierCheck x = none → room (barrierRun x) → s.plan? k.plan = some p →
      (∃ c < 256, Nat.testBit (barrierMask p.image (barrierNumber x)) c = true ∧ c ∉ sget [] s.barriers (16 * k.plan + barrierNumber x) ∧ c ≠ core.val) →
      ∃ t, exec (.barrier core task .clean) s = .next t ∧ ((t.core core).task task).queue = k.queue.drop 1 ∧
        ((t.core core).task task).tokens = k.tokens ∧ core.val ∈ sget [] t.barriers (16 * k.plan + barrierNumber x) ∧
        ∀ c, c ≠ core.val → t.core c = s.core c) ∧
    (cwOpcode w = 0x54 → tokenCheck x = none → x.earlierEnded = true → room (tokenRun x) →
      ∃ t, exec (.token core task .clean) s = .next t ∧ Issued s t core task w ∧ (t.core core).scratch = (s.core core).scratch) ∧
    (cwOpcode w = 0x55 → (s.core core).late = [] → hsetCheck x = none → room (hsetRun x) → ∃ t, exec (.hset core task .clean) s = .next t ∧ Issued s t core task w ∧
      ((t.core core).task task).handles = k.handles.set (cwD w) (BitVec.ofNat 64 ((s.core core).scratch.num (k.base + fld w 82 64) 8)) ∧
      (t.core core).scratch = (s.core core).scratch) ∧
    (cwOpcode w = 0x56 → phaseCheck x = none → room (phaseRun x) → ∃ t, exec (.phase core task .clean) s = .next t ∧ Issued s t core task w ∧
      ((t.core core).task task).phaseNext = some (fld w 99 92)) ∧
    (cwOpcode w = 0x57 → (s.core core).late = [] → doneCheck x = none → x.earlierEnded = true → room (doneRun x) → ∃ t, exec (.done core task .clean) s = .next t ∧
      Issued s t core task w ∧
      (bitAt w 99 = true → ((t.core core).task task).doneEnd = true ∧ (cwDone w = false → ((t.core core).task task).seq = .stopped)) ∧
      (bitAt w 99 = false → ((t.core core).task task).doneStep = true ∧ ((t.core core).task task).doneEnd = k.doneEnd) ∧
      (cwA w ≠ 0xFF → ((t.core core).task task).doneWords = some ((s.core core).scratch.read (x.a.rowAddr x.base 0) 16)))

/-- A page of a deck that holds a grant writes its 64 bytes and counts; the last page makes the deck READY and releases the grant.
Before the first pulse of an erase its record is written, in the same run or, where no room is left for the pulse, in an earlier
one; a pulse counts down; the last leaves the deck ERASED, its bytes 0 and its wear count one higher. At most 1,024 grants are
given, to the earliest request. A snapshot records the wear of every deck. No other deck changes. -/
def Obligations.PagesProgramAndErase : Prop :=
  ∀ s : State,
    (∀ i j line e run, s.coreUp (i / 216) = true → s.power.dip = none → (s.deck i).state = .programming → (s.deck i).holdsGrant = true →
      (s.deck i).job = some j → j.task = none → s.jobLine (i / 216) (i % 216) (s.deck i) j = some line →
      s.pumpEnd (i / 216) (i % 216 / 9) pageNs = some e → (s.region (regionOf (i / 216))).run = some run → (s.deck i).overshoots line = false →
      ∃ t, exec (.pageProgram i true) s = .next t ∧ t = { s with cores := t.cores } ∧ (t.deck i).pages = (s.deck i).pages + 1 ∧
        (∀ k < 64, (s.deck i).pages % 17 < 16 → 64 * ((s.deck i).pages % 17) + k < line.length →
          (t.deck i).cells.byte (1024 * ((s.deck i).pages / 17) + 64 * ((s.deck i).pages % 17) + k) = line.getD (64 * ((s.deck i).pages % 17) + k) 0) ∧
        ((s.deck i).pages % 17 < 16 → (t.deck i).state = .programming ∧ (t.deck i).holdsGrant = true) ∧
        ((s.deck i).pages = 17407 → (t.deck i).state = .ready ∧ (t.deck i).holdsGrant = false) ∧ (∀ k, k ≠ i → t.deck k = s.deck k)) ∧
    (∀ i run, s.coreUp (i / 216) = true → s.power.dip = none → (s.deck i).state = .erasing → (s.deck i).holdsGrant = true →
      (s.region (regionOf (i / 216))).run = some run → s.eraseRun i run = true →
      (∀ e, (s.deck i).recorded = false → s.pumpEnd (i / 216) (i % 216 / 9) pageNs = some e →
        s.pumpEnd (i / 216) (i % 216 / 9) (pageNs + pulseNs) = none →
        ∃ t, exec (.erasePulse i) s = .next t ∧ t = { s with cores := t.cores, config := t.config } ∧
          t.deck i = { s.deck i with recorded := true } ∧ (i, (s.deck i).wear) ∈ t.config.erases ∧ ∀ k, k ≠ i → t.deck k = s.deck k) ∧
      (∀ e f, (s.deck i).recorded = false → s.pumpEnd (i / 216) (i % 216 / 9) pageNs = some e →
        s.pumpEnd (i / 216) (i % 216 / 9) (pageNs + pulseNs) = some f → 1 < (s.deck i).pulses →
        ∃ t, exec (.erasePulse i) s = .next t ∧ t = { s with cores := t.cores, config := t.config } ∧
          t.deck i = { s.deck i with recorded := true, pulses := (s.deck i).pulses - 1 } ∧ (i, (s.deck i).wear) ∈ t.config.erases ∧
          ∀ k, k ≠ i → t.deck k = s.deck k) ∧
      (∀ e, (s.deck i).recorded = true → s.pumpEnd (i / 216) (i % 216 / 9) pulseNs = some e → 1 < (s.deck i).pulses →
        ∃ t, exec (.erasePulse i) s = .next t ∧ t = { s with cores := t.cores } ∧
          t.deck i = { s.deck i with pulses := (s.deck i).pulses - 1 } ∧ ∀ k, k ≠ i → t.deck k = s.deck k) ∧
      (∀ e, (s.deck i).recorded = true → s.pumpEnd (i / 216) (i % 216 / 9) pulseNs = some e → (s.deck i).pulses = 1 →
        (s.deck i).eraseToken = none → (s.deck i).wear + 1 ≠ s.wearWarn → (s.deck i).wear < 3000 →
        (s.core (i / 216)).nextRefresh (i % 216 / 9) = none →
        ∃ t, exec (.erasePulse i) s = .next t ∧ t = { s with cores := t.cores } ∧ t.deck i = (s.deck i).erased ∧
          (t.deck i).state = .erased ∧ (t.deck i).wear = (s.deck i).wear + 1 ∧ (∀ a, (t.deck i).cells.byte a = 0) ∧
          ∀ k, k ≠ i → t.deck k = s.deck k)) ∧
    (∀ i, s.serving = true → s.grants.length < 1024 → s.nextGrant = some i →
      exec .pumpGrant s = .next (s.setDeck i { s.deck i with holdsGrant := true, queuedAt := none })) ∧
    (s.serving = true → s.grants.length < 1024 → s.nextGrant = none → exec .pumpGrant s = .next s) ∧
    (s.serving = true → 1024 ≤ s.grants.length → exec .pumpGrant s = .next s) ∧
    (s.serving = true → s.beat % 2 ^ 20 = 0 → ∃ t, exec .wearSnapshot s = .next t ∧ t = { s with config := t.config } ∧ t.config.wear = s.wearCounts)

/-- A clean read-verify that is due stores the drift of its deck and its beat and counts the corrected bits; one that is not due
does nothing. A refresh that is copied swaps the two positions of the stack at a beat boundary. A compaction moves the records of
a region and loses none. A re-trim works on until the end of the run; the run that holds its last cycle renews, where nothing has
failed, the trim of the stack at the V/F point of the region. The end of a rebuild gives the lost number the position of the
reserve and uses the reserve up. A loss of the pump rail releases every grant (what follows it is log entry 98). -/
def Obligations.MaintenanceWork : Prop :=
  ∀ s : State,
    (∀ i rv, s.coreUp (i / 216) = true → s.inMaintenance (regionOf (i / 216)) = true → (s.deck i).state = .ready → (s.deck i).refreshDue = false →
      s.verifyDue (s.deck i) = true → rv.uncorrectable = false → rv.failedLines = [] → rv.deckFails = false →
      min 63 rv.drift ≤ s.driftWindow → rv.worstRow ≤ 4 →
      ∃ t, exec (.readVerify i rv) s = .next t ∧ t = { s with cores := t.cores, hub := t.hub, freeCtr := t.freeCtr } ∧
        t.deck i = { s.deck i with drift := min 63 rv.drift, verifiedAt := some s.beat } ∧ (∀ k, k ≠ i → t.deck k = s.deck k) ∧
        t.hubWord rBchCorrected = satAdd (s.hubWord rBchCorrected) rv.corrected) ∧
    (∀ i rv, s.verifyDue (s.deck i) = false → exec (.readVerify i rv) s = .next s) ∧
    (∀ i q, s.coreUp (i / 216) = true → (s.core (i / 216)).refreshInto (i % 216) = some q → ((s.core (i / 216)).deck q).copyDone = true →
      (s.deck i).standIn = false → ∃ t, exec (.refreshSwap i) s = .next t ∧ t.time = (s.advanceTo s.nextBoundary).time ∧
        ((t.core (i / 216)).stack (i % 216 / 9)).pos = (((s.core (i / 216)).stack (i % 216 / 9)).swap (i % 216 % 9) (q % 9)).pos ∧
        ((t.core (i / 216)).stack (i % 216 / 9)).spare = (((s.core (i / 216)).stack (i % 216 / 9)).swap (i % 216 % 9) (q % 9)).spare ∧
        t.hubWord rRefreshCount = satAdd (s.hubWord rRefreshCount) 1 ∧ t.cmds = s.cmds ∧ t.streams = s.streams) ∧
    (∀ r : Fin 4, s.serving = true → s.maintains r = true → s.grants.length < 1024 →
      let x := s.liveErases.cfgStacks.getD r CfgStack.init
      (x.canCompact = none → exec (.configStackCompaction r) s = .next { s with config := s.liveErases }) ∧
      (∀ p, x.canCompact = some p → r.val < s.config.cfgStacks.length → r.val < s.config.compactions.length →
        ∃ t, exec (.configStackCompaction r) s = .next t ∧ t = { s with config := t.config } ∧ t.config.repairs = s.config.repairs ∧
          t.config.wear = s.config.wear ∧ t.config.compactions.getD r 0 = s.config.compactions.getD r 0 + 1 ∧
          (x.waiting = [] → ∀ e ∈ x.records, ∃ f, (e.1, f) ∈ (t.config.cfgStacks.getD r CfgStack.init).records ∧ f.data = e.2.data ∧
            f.seq = e.2.seq ∧ f.digest = e.2.digest))) ∧
    (∀ (core : Fin 256) (st : Fin 24) rt n run, s.coreUp core = true → s.maintains (regionOf core) = true →
      s.retrimLeft core st = some n → (s.region (regionOf core)).run = some run →
      let from_ := max (s.runElapsed (regionOf core) run) (sget 0 (s.core core).busy st)
      let v := (s.region (regionOf core)).point
      (0 < n → n ≤ run.budget - from_ → rt.failedLines = [] → rt.bankFails = false →
        ∃ t, exec (.fullRetrim core st rt) s = .next t ∧ t = { s with cores := t.cores, freeCtr := t.freeCtr } ∧
          ((t.core core).stack st).trim v = { beat := s.beat, temp := s.stackTemp core st, resid := 0, seed := some s.freeCtr } ∧
          ((t.core core).stack st).retrim = none ∧ (t.core core).decks = (s.core core).decks ∧ ∀ c, c ≠ core.val → t.core c = s.core c) ∧
      (0 < run.budget - from_ → run.budget - from_ < n →
        ∃ t, exec (.fullRetrim core st rt) s = .next t ∧ t = { s with cores := t.cores } ∧
          (t.core core).stack st = { (s.core core).stack st with retrim := some (v, n - (run.budget - from_)) } ∧
          (t.core core).decks = (s.core core).decks ∧ ∀ c, c ≠ core.val → t.core c = s.core c) ∧
      (run.budget - from_ = 0 → exec (.fullRetrim core st rt) s = .next s)) ∧
    (∀ (core : Fin 256) (st : Fin 24) rt, s.retrimLeft core st = none → exec (.fullRetrim core st rt) s = .next s) ∧
    (∀ (core : Fin 256) b, s.coreUp core = true → (s.core core).rebuild = some b → b.lost ≠ b.target → dcmTier b.lost < 4 →
      (s.core core).reserves.length = 4 → ∃ t, exec (.rebuildComplete core) s = .next t ∧ ((t.core core).dcmInfo b.lost).lost = false ∧
        ((t.core core).dcmInfo b.lost).position = some ((s.core core).dcmPos b.target) ∧ ((t.core core).dcmInfo b.target).gone = true ∧
        (t.core core).reserves.getD (dcmTier b.lost) none = none ∧ (t.core core).consumed = (s.core core).consumed ++ [b.target] ∧
        (t.core core).decks = (s.core core).decks) ∧
    (s.dead = false → ∃ t, exec .vddHvLoss s = .next t ∧ t.time = s.time ∧ t.streams = s.streams ∧ t.cmds.map (·.id) = s.cmds.map (·.id) ∧
      ∀ n k, ((t.core n).deck k).holdsGrant = false)

/-- A write of an owner only waits. The change takes effect at a beat boundary with no command of the users in flight, and the
contents stay; where a new reader would reach a READY deck, the deck is erased first and the owner stays until then. ERASE_ALL
starts the erase of every deck that is READY, INCOMPLETE or being programmed, and touches no other deck. -/
def Obligations.DeckOwnershipChanges : Prop :=
  ∀ s : State,
    (∀ n v, s.manageable = true → n < 192 * s.nCores → exec (.deckOwnerWrite n v) s =
      .next { s with ownerPending := sins s.ownerPending n (BitVec.ofNat 8 v.toNat) }) ∧
    (∀ n v, s.manageable = false ∨ 192 * s.nCores ≤ n → exec (.deckOwnerWrite n v) s = .next s) ∧
    (∀ n v, mget s.ownerPending n = some v → s.serving = true → s.deckInFlight (s.deckIdx n) n = false →
      (newReader (s.owner n) v = false → (s.deck (s.deckIdx n)).state ≠ .programming →
        ∃ t, exec (.deckOwnerChange n) s = .next t ∧ t.owner n = v ∧ mget t.ownerPending n = none ∧
          t.time = (s.advanceTo s.nextBoundary).time ∧ (t.deck (s.deckIdx n)).state = (s.deck (s.deckIdx n)).state ∧
          (t.deck (s.deckIdx n)).cells = (s.deck (s.deckIdx n)).cells ∧ (∀ m, m ≠ n → t.owner m = s.owner m)) ∧
      (newReader (s.owner n) v = true → (s.deck (s.deckIdx n)).state = .ready → (s.deck (s.deckIdx n)).wear < 3000 →
        ∃ t, exec (.deckOwnerChange n) s = .next t ∧ (t.deck (s.deckIdx n)).state = .erasing ∧ t.owner n = s.owner n ∧
          mget t.ownerPending n = some v)) ∧
    (∀ n v, mget s.ownerPending n = some v → s.serving = true → s.deckInFlight (s.deckIdx n) n = true → exec (.deckOwnerChange n) s = .next s) ∧
    (s.manageable = true → swf Core.init s.cores = true → ∃ t, exec .eraseAll s = .next t ∧
      (∀ n k, let d := (s.core n).deck k
        ((d.state = .ready ∨ d.state = .incomplete ∨ d.state = .programming) → (t.core n).deck k = d.startErase s.beat) ∧
        (¬(d.state = .ready ∨ d.state = .incomplete ∨ d.state = .programming) → (t.core n).deck k = d)) ∧
      t = { s with cores := t.cores, out := .answer ccSuccess [] :: s.out })

/-- A pending event whose timer has run out is counted, reported as Severe and handled; before that nothing happens. A Severe
instance is marked and its pending event ends; the end of its handling clears its history. An acknowledgement clears the pending
events of its partition, or of its sources, and no others. A link error that was retried is counted; one that exhausted its
retries, and the management watchdog, stop the device at L3 with its state as it stood; a hop that the grade does not have reports
nothing. The completion watchdog raises the Severe event of its core. -/
def Obligations.FaultsEscalateAndAcknowledge : Prop :=
  ∀ s : State,
    (∀ (src : Fin 32) inst b, (s.faultInst src inst).pending = some b → s.dead = false → b + 1 + s.ackTimer ≤ s.beat →
      exec (.escalation src inst) s = .next (((s.hubInc rEscalateCount 1).severeReport src inst).handleSevere src inst)) ∧
    (∀ (src : Fin 32) inst b, (s.faultInst src inst).pending = some b → s.beat < b + 1 + s.ackTimer → exec (.escalation src inst) s = .next s) ∧
    (∀ src inst, let t := s.severeReport src inst
      t.hubWord rSevereCount = satAdd (s.hubWord rSevereCount) 1 ∧ (t.faultInst src inst).severe = true ∧ (t.faultInst src inst).pending = none ∧
      ((t.severeEnd src inst).faultInst src inst).beats = [] ∧ ((t.severeEnd src inst).faultInst src inst).severe = false) ∧
    (∀ (p : Fin 4) q, s.dead = false → s.portPart p = some q → p.val < s.ports.length → ∃ t, exec (.attentionAck p) s = .next t ∧
      t = { s with ports := t.ports, faults := t.faults } ∧
      t.port p = { s.port p with eventStatus := setFld (s.port p).eventStatus 1 1 0 } ∧
      (∀ f ∈ t.faults, f.parts.contains q = true → f.pending = none) ∧
      ∀ f ∈ s.faults, f.parts.contains q = false → ¬(f.beats = [] ∧ f.pending = none ∧ f.severe = false) → f ∈ t.faults) ∧
    (∀ v, s.manageable = true → ∃ t, exec (.fltAck v) s = .next t ∧ t = { s with faults := t.faults } ∧
      (∀ f ∈ t.faults, bitAt v f.source = true → f.pending = none) ∧
      ∀ f ∈ s.faults, bitAt v f.source = false → ¬(f.beats = [] ∧ f.pending = none ∧ f.severe = false) → f ∈ t.faults) ∧
    (s.dead = false → ∀ hop, s.hopPresent hop = true → (∃ t, exec (.linkFlitRetry hop true) s = .next t ∧ t.latches.l3 = true ∧ t.cores = s.cores ∧ t.cmds = s.cmds ∧
        t.streams = s.streams ∧ bitAt (t.hubWord rFltSticky) 21 = true) ∧
      ∃ t, exec (.linkFlitRetry hop false) s = .next t ∧ t.latches.l3 = false ∧ t.cores = s.cores ∧ t.cmds = s.cmds ∧
        t.hubWord (rFltCount + 4 * 21) = satAdd (s.hubWord (rFltCount + 4 * 21)) 1 ∧ bitAt (t.hubWord rFltSticky) 21 = true) ∧
    (∀ hop e, s.hopPresent hop = false → exec (.linkFlitRetry hop e) s = .next s) ∧
    (s.dead = false → ∃ t, exec .managementWatchdogExpiry s = .next t ∧ t.latches.l3 = true ∧ bitAt (t.hubWord rFltSticky) 24 = true ∧
      t.cores = s.cores ∧ t.cmds = s.cmds ∧ t.streams = s.streams ∧ t.time = s.time) ∧
    (∀ core : Fin 256, s.serving = true → (s.physOf core).isSome = true → ∃ t, exec (.commandCompletionWatchdog core) s = .next t ∧
      bitAt (t.hubWord rFltSticky) 8 = true ∧ t.hubWord (rFltCount + 4 * 8) = satAdd (s.hubWord (rFltCount + 4 * 8)) 1 ∧
      (t.physCore (s.physInst core)).state = .retired)

/-- A core that is due retires before the next unit start of its tasks and a spare waits to be adopted; nothing else changes. At
the adoption the spare serves the logical core: its scratchpad is empty, its queues are empty, tokens, DCMs and decks stay, and no
unit or batch was cut where none was in progress. A replay restores every task of the plan from its snapshot and marks the run
REPLAYED. -/
def Obligations.CoresRetireAndUnitsReplay : Prop :=
  ∀ s : State, s.serving = true →
    (∀ (core : Fin 256) src p q, mget s.retireDue core = some src → s.unitStart core = true → s.physOf core = some p →
      s.freeSpare (regionOf core) = some q → q ≠ p → ∃ t, exec (.coreRetirement core) s = .next t ∧
        t = { s with phys := t.phys, retireDue := t.retireDue, adoptions := t.adoptions } ∧ (t.physCore p).state = .retired ∧
        mget t.retireDue core = none ∧ ∃ n, t.adoptions = s.adoptions ++ [(core.val, n, src)] ∧ n ≠ p) ∧
    (∀ core : Fin 256, mget s.retireDue core = none ∨ s.unitStart core = false → exec (.coreRetirement core) s = .next s) ∧
    (∀ (core : Fin 256) c q src, s.adoptions.find? (fun a => a.1 == core.val) = some (c, q, src) →
      (∀ n ∈ s.plansOn core, ∀ r, s.run? n = some r → r.inStep = false) → ∃ t, exec (.spareCoreAdoption core) s = .next t ∧
        t.physOf core = some q ∧ t.time = (s.advanceTo s.nextBoundary).time ∧ (t.core core).scratch = [] ∧
        (∀ k < 4, ((t.core core).task k).queue = [] ∧ ((t.core core).task k).tokens = ((s.core core).task k).tokens) ∧
        (t.core core).dcm = (s.core core).dcm ∧ (t.core core).decks = (s.core core).decks ∧ (∀ d, d ≠ core.val → t.core d = s.core d) ∧
        (∀ a ∈ t.adoptions, a.1 ≠ core.val) ∧ t.runs = s.runs ∧
        ∀ b ∈ s.batches, (∀ x, s.corpus? b.1 = some x → x.decks.any (fun d => d.1 / 192 == core.val) = false) → b ∈ t.batches) ∧
    (∀ n p r, s.plan? n = some p → s.run? n = some r → r.broken = true → r.fail = none → s.handled p.image = true →
      (∀ k ∈ planCores p.image, planTask p.image < (s.core k).tasks.length) →
      ∃ t r', exec (.replay n) s = .next t ∧ t = { s with cores := t.cores, runs := t.runs, hub := t.hub } ∧ t.run? n = some r' ∧
        r'.broken = false ∧ r'.replayed = true ∧ r'.events = r.events ||| evReplayed ∧
        r'.step = (if planStepped p.image then r.step - 1 else r.step) ∧ t.hubWord rReplayCount = satAdd (s.hubWord rReplayCount) 1 ∧
        (∀ k ∈ planCores p.image, let snap := sget Task.init s.snaps (4 * k + planTask p.image)
          let a := (t.core k).task (planTask p.image)
          a.queue = [] ∧ a.xs = snap.xs ∧ a.pc = snap.pc ∧ a.tokens = snap.tokens ∧ a.handles = snap.handles ∧ a.srSeq = snap.srSeq) ∧
        (∀ k, (t.core k).scratch = (s.core k).scratch) ∧ ∀ m, m ≠ n → t.run? m = s.run? m)

/-- An armed injection shows its count and its ARM bit; a write without ARM disarms; once locked a write changes nothing and no
injection is in force. FLT_ALIVE toggles its pin at a beat boundary whose number is a multiple of 8. An ARM with a count of 0 does
not arm (log entry 74). -/
def Obligations.InjectionAndAliveSignal : Prop :=
  ∀ s : State,
    (∀ v, s.manageable = true → bitAt (s.hubWord rInjLock) 0 = false → ∃ t, exec (.injCtrlArm v) s = .next t ∧ t = { s with hub := t.hub } ∧
      (bitAt v 31 = true → fld v 15 0 ≠ 0 → bitAt (t.hubWord rInjCtrl) 31 = true ∧ t.hubWord rInjStatus = BitVec.ofNat 32 (fld v 15 0)) ∧
      (bitAt v 31 = false → bitAt (t.hubWord rInjCtrl) 31 = false ∧ t.hubWord rInjStatus = 0) ∧
      ∀ o, o ≠ rInjCtrl → o ≠ rInjStatus → t.hubWord o = s.hubWord o) ∧
    (∀ v, bitAt (s.hubWord rInjLock) 0 = true → exec (.injCtrlArm v) s = .next s) ∧
    (∀ v, s.manageable = true → exec (.injLock v) s = .next (if bitAt v 0 then s.setHub rInjLock 1 else s)) ∧
    (∀ target, bitAt (s.hubWord rInjLock) 0 = true → s.injected target = none) ∧
    (s.serving = true → ∃ t, exec .fltAlive s = .next t ∧
      t = { s with time := t.time, latches := t.latches, out := .pin "FLT_ALIVE" (!s.latches.fltAlive) :: s.out } ∧
      t.latches.fltAlive = !s.latches.fltAlive ∧ t.time.now % (8 * s.beatNs) = 0 ∧ s.time.now ≤ t.time.now)

/-- A self-test of a free block starts with count 0 and no failure, one of a block in service is refused, and a write while a test
runs changes nothing. A passing slice counts, and the last one ends the test with PASS unless a slice has failed. A passing range,
where no command in flight holds its scratchpad, takes 2,000 cycles, moves the walker of its physical core on, and the last range
completes a pass; other cores stay. -/
def Obligations.SelfTestsRun : Prop :=
  ∀ s : State,
    (∀ v, s.manageable = true → bitAt (s.hubWord rSelftestStatus) 31 = false → bitAt v 31 = true →
      (s.selftestFree v = true → ∃ t, exec (.selftestGo v) s = .next t ∧ t = { s with hub := t.hub } ∧
        t.hubWord rSelftestCtrl = v &&& hubRw rSelftestCtrl ∧ bitAt (t.hubWord rSelftestStatus) 31 = true ∧
        fld (t.hubWord rSelftestStatus) 15 0 = 0 ∧ bitAt (t.hubWord rSelftestStatus) 29 = false) ∧
      (s.selftestFree v = false → ∃ t, exec (.selftestGo v) s = .next t ∧ t = { s with hub := t.hub } ∧
        bitAt (t.hubWord rSelftestStatus) 28 = true ∧ bitAt (t.hubWord rSelftestStatus) 31 = false)) ∧
    (∀ v, s.manageable = true → bitAt (s.hubWord rSelftestStatus) 31 = true → exec (.selftestGo v) s = .next s) ∧
    (∀ (r : Fin 4) unit kind, s.serving = true → s.onDemand r unit kind = true →
      let n := fld (s.hubWord rSelftestStatus) 15 0 + 1
      n < 65536 → ∃ t, exec (.selftestSlice r unit kind none) s = .next t ∧ t = { s with cores := t.cores, hub := t.hub } ∧
        ((kind = 1 ∨ kind = 2 → (s.region r).service ≠ .outOfService) → t.cores = s.cores) ∧
        fld (t.hubWord rSelftestStatus) 15 0 = n ∧ bitAt (t.hubWord rSelftestStatus) 29 = bitAt (s.hubWord rSelftestStatus) 29 ∧
        (n < selftestSlices kind → bitAt (t.hubWord rSelftestStatus) 31 = true) ∧
        (selftestSlices kind ≤ n → bitAt (t.hubWord rSelftestStatus) 31 = false ∧
          bitAt (t.hubWord rSelftestStatus) 30 = !bitAt (s.hubWord rSelftestStatus) 29)) ∧
    (∀ (r : Fin 4) unit run, s.serving = true → bitAt (s.hubWord rScreeCtrl) 0 = true → (s.region r).run = some run → run.klass = 7 →
      s.runElapsed r run + 2000 ≤ run.budget → (s.physCore (68 * r + unit)).state = .good →
      (s.physCore (68 * r + unit)).walkUntil ≤ s.time.now →
      s.screeWaits (68 * r + unit) ((s.physCore (68 * r + unit)).range % screeRanges (s.serves (68 * r + unit)).isSome) = false →
      ∃ t, exec (.screeRange r unit .pass) s = .next t ∧ t = { s with phys := t.phys, hub := t.hub } ∧
        let x := s.physCore (68 * r + unit)
        let total := screeRanges (s.serves (68 * r + unit)).isSome
        let till := s.time.now + ceilDiv 20000 (vfMhz100 (s.region r).point)
        (x.range % total + 1 < total → t.physCore (68 * r + unit) = { x with range := x.range % total + 1, walkUntil := till }) ∧
        (x.range % total + 1 = total → t.physCore (68 * r + unit) = { x with range := 0, walkUntil := till, passes := x.passes + 1 }) ∧
        ∀ q, q ≠ 68 * r.val + unit → t.physCore q = s.physCore q)

/-- The running task of a core fetches and executes one instruction: registers, pc and scratchpad become what the instruction
gives, a store landing in its cycle, MINSTRET counts one, and no other task or core changes; an exception halts the sequencer; a
task that waits or has stopped executes nothing. x0 reads 0, and ADDI adds its immediate. A write of CMDHI pushes the command word
whose low half CMDLO holds, or stalls while the segment is full. The cycles that MCYCLE counts are free (log entry 65). -/
def Obligations.SequencerRuns : Prop :=
  ∀ (s : State) (core : Fin 256), s.seqActive core = true →
    let k := (s.core core).seqTask
    let a := (s.core core).task k
    let mem := (s.core core).seen fun _ => s.seqCycle core
    (∀ chk i len b m, a.seq = .running → k < (s.core core).tasks.length → (s.core core).rvFetch a = (i, len) →
      s.rvExec core k len a mem i = some (b, m, none) → (isLoad i = false ∨ chk = .clean) → rvWrites 0xB02 i = false →
      ∃ t, exec (.sequencerInstruction core chk) s = .next t ∧ t = { s with cores := t.cores, freeCtr := s.freeCtr + 1 } ∧
        (∀ n, ((t.core core).task k).x n = b.x n) ∧ ((t.core core).task k).pc = b.pc ∧
        (t.core core).scratch = ((s.core core).seqStore m (s.seqCycle core)).scratch ∧ ((s.core core).late = [] → (t.core core).scratch = m) ∧
        (t.core core).seqClock = s.seqCycle core + (1 + (s.free 0).toNat) ∧
        ((t.core core).task k).minstret = b.minstret + 1 ∧ ((t.core core).task k).queue = b.queue ∧
        (∀ j, j ≠ k → (t.core core).task j = (s.core core).task j) ∧ ∀ c, c ≠ core.val → t.core c = s.core c) ∧
    (∀ chk i len, a.seq = .running → (s.core core).rvFetch a = (i, len) → s.rvExec core k len a mem i = none →
      exec (.sequencerInstruction core chk) s = .next (s.seqHalt core k)) ∧
    (∀ chk, a.seq = .wfi ∨ a.seq = .waitStep ∨ a.seq = .halted ∨ a.seq = .stopped ∨ a.seq = .idle →
      exec (.sequencerInstruction core chk) s = .next s) ∧
    (∀ len m rd rs1 imm, a.x 0 = 0 ∧ (0 < rd → rd < a.xs.length →
      s.rvExec core k len a m (.opImm false 0 false rd rs1 imm) =
        some ({ a with pc := a.pc + len }.setX rd (a.x rs1 + BitVec.ofInt 64 imm), m, none) ∧
      (({ a with pc := a.pc + len }).setX rd (a.x rs1 + BitVec.ofInt 64 imm)).x rd = a.x rs1 + BitVec.ofInt 64 imm)) ∧
    (∀ (task : Fin 4) hi, task.val = k → a.seq = .running → k < (s.core core).tasks.length →
      ∃ t, exec (.cmdhi core task hi) s = .next t ∧ t = { s with cores := t.cores } ∧ (∀ c, c ≠ core.val → t.core c = s.core c) ∧
        (a.queue.length < a.qdepth → ((t.core core).task k).queue = a.queue ++ [hi ++ a.cmdLo]) ∧
        (a.qdepth ≤ a.queue.length → ((t.core core).task k).queue = a.queue ∧ ((t.core core).task k).seq = .stallPush (hi ++ a.cmdLo)) ∧
        ((t.core core).task k).xs = a.xs ∧ ((t.core core).task k).pc = a.pc)

/-- KEY_REVOKE sets the revoke bit of the index it names and changes no other fuse; it is refused, with nothing changed, for the
index of the running image and for an index that is not fused. No step of the block, whatever the command, clears a revoke bit. -/
def Obligations.KeyRevokeIsPermanent : Prop :=
  ∀ s : State, s.manageable = true → s.fuses.revoked.length = 4 →
    (∀ index : Fin 4, (index.val = s.boot.keyIndex ∨ s.fuses.keyDigests.getD index [] = []) →
      exec (.keyRevoke index) s = .next (s.answer ccRefused [])) ∧
    (∀ index : Fin 4, index.val ≠ s.boot.keyIndex → s.fuses.keyDigests.getD index [] ≠ [] →
      ∃ t, exec (.keyRevoke index) s = .next t ∧ t = { s with fuses := t.fuses, out := .answer ccSuccess [] :: s.out } ∧
        t.fuses = { s.fuses with revoked := t.fuses.revoked } ∧ t.fuses.revoked.getD index false = true ∧
        (∀ k, k ≠ index.val → t.fuses.revoked.getD k false = s.fuses.revoked.getD k false) ∧
        ∀ u v : State, (u.fuses.revoked.getD index false = true) → step u = .next v → v.fuses.revoked.getD index false = true)

/-- A row of a tile is read and written as one little-endian bit stream: element i of a 4-bit format is bits [4i+3:4i] of the row
and of a 6-bit format bits [6i+5:6i]; element 0 of a 4-bit row is the low nibble of byte 0, and four 6-bit elements fill three
bytes. -/
def Obligations.NarrowElementsArePacked : Prop :=
  (∀ w, w = 4 ∨ w = 6 → ∀ (row : List Byte) (n i : Nat), i < n → (unpackBits w n row).getD i 0 = leNat row / 2 ^ (w * i) % 2 ^ w) ∧
  (∀ w, w = 4 ∨ w = 6 → ∀ (k : Nat) (codes : List Nat) (i : Nat), w * codes.length ≤ 8 * k → (∀ c ∈ codes, c < 2 ^ w) → i < codes.length →
    (packBits w k codes).length = k ∧ leNat (packBits w k codes) / 2 ^ (w * i) % 2 ^ w = codes.getD i 0 ∧
    (unpackBits w codes.length (packBits w k codes)).getD i 0 = codes.getD i 0) ∧
  (∀ (t : Tile) (m : Mem) (base r i : Nat), (fmtBits t.fmt = 4 ∨ fmtBits t.fmt = 6) → i < fmtCap t.fmt →
    t.code m base r i = leNat (t.row m base r) / 2 ^ (fmtBits t.fmt * i) % 2 ^ fmtBits t.fmt) ∧
  (∀ (b : Byte) (row : List Byte), (unpackBits 4 1 (b :: row)).getD 0 0 = b.toNat % 16) ∧
  (∀ a b c : Byte, unpackBits 6 4 [a, b, c] = [a.toNat % 64, a.toNat / 64 + b.toNat % 16 * 4, b.toNat / 16 + c.toNat % 4 * 16, c.toNat / 4])

/-- A key is set or cleared in a slot that no command uses, and no other slot changes; a busy slot is refused and a key of another
length is invalid. The certificate is written in PROVISIONED only. A life-cycle transition that R425 allows, with the gates of
R426, changes the state and clears every install key; any other is refused. One SVN fuse is blown at a time, 10 ms apart. The
alias certificate is signed once. A tamper event that is enabled clears the key store, is recorded, stops the device at L3 and,
where configured, clears every SRAM. -/
def Obligations.KeysLifeCycleAndTamper : Prop :=
  ∀ s : State,
    (s.manageable = true → ∀ (n : Fin 32) (o : Fin 4) (k : List Byte),
      (k.length = 32 → s.keyBusy n = false →
        (∃ t, exec (.keySet n o k) s = .next t ∧ t = { s with verm := t.verm, out := .answer ccSuccess [] :: s.out } ∧
          sget none t.verm.slots n = some (k, o.val) ∧ ∀ j, j ≠ n.val → sget none t.verm.slots j = sget none s.verm.slots j) ∧
        ∃ t, exec (.keyClear n) s = .next t ∧ t = { s with verm := t.verm, out := .answer ccSuccess [] :: s.out } ∧
          sget none t.verm.slots n = none ∧ ∀ j, j ≠ n.val → sget none t.verm.slots j = sget none s.verm.slots j) ∧
      (k.length = 32 → s.keyBusy n = true → exec (.keySet n o k) s = .next (s.answer ccRefused []) ∧
        exec (.keyClear n) s = .next (s.answer ccRefused [])) ∧
      (k.length ≠ 32 → exec (.keySet n o k) s = .next (s.answer ccInvalid []))) ∧
    (s.manageable = true → ∀ cert, (s.fuses.life = .provisioned → ∃ t, exec (.certWrite cert) s = .next t ∧
        t = { s with config := t.config, out := .answer ccSuccess [] :: s.out } ∧ t.config.cert = cert) ∧
      (s.fuses.life ≠ .provisioned → exec (.certWrite cert) s = .next (s.answer ccRefused []))) ∧
    (s.manageable = true → ∀ g up, (s.boot.lcEnable = true → lifeAllowed s.fuses.life g = true → (g = .rma → s.allErased = true) →
        ∃ t, exec (.lcTransition g true up) s = .next t ∧ t.fuses.life = g ∧ t.fuses.svn = s.fuses.svn ∧ t.fuses.revoked = s.fuses.revoked ∧
          t.verm.slots = [] ∧ t.flash = s.cutFlash) ∧
      (∀ lc, lc = false ∨ s.boot.lcEnable = false ∨ lifeAllowed s.fuses.life g = false ∨ (g = .rma ∧ s.allErased = false) →
        exec (.lcTransition g lc up) s = .next (s.answer ccRefused []))) ∧
    (s.dead = false → s.boot.phase = .ready → s.fuses.svn < s.boot.svn → ∃ t, exec .fuseBlow s = .next t ∧
      t = { s with time := t.time, fuses := t.fuses, mgmt := t.mgmt } ∧ t.fuses = { s.fuses with svn := s.fuses.svn + 1 } ∧
      second / 100 + s.mgmt.lastFuse ≤ t.time.now) ∧
    (∀ a b, s.dead = false → s.boot.phase = .ready → s.verm.identity = some a → s.verm.aliasKey = some b → s.verm.certSigned = none →
      ∃ t, exec .aliasCertSign s = .next t ∧ t = { s with verm := t.verm, freeCtr := s.freeCtr + 1 } ∧ t.verm.certSigned.isSome = true ∧
        t.verm.slots = s.verm.slots) ∧
    (∀ c, s.latches.tripped = false →
      (bitAt (s.hubWord rTamperCfg) (tamperEnable c) = true → ∃ t, exec (.tamper c) s = .next t ∧ t.verm = Vermilion.init ∧
        t.latches.l3 = true ∧ bitAt (t.hubWord rTamperCause) (tamperBit c) = true ∧ t.fuses = s.fuses ∧
        (bitAt (s.hubWord rTamperCfg) 4 = true → t.staging = [] ∧ t.streams = [] ∧
          ∀ n, (t.core n).scratch = [] ∧ (t.core n).side = [] ∧ (t.core n).dcm = [])) ∧
      (bitAt (s.hubWord rTamperCfg) (tamperEnable c) = false → exec (.tamper c) s = .next s))

/-- A firmware update takes its place in staging, each transfer writes its bytes, and a verified image replaces the flash. SPDM
requests answer version, capabilities, the algorithm chosen, digests and certificates; a signature takes the signer for 250 ms,
and one that cannot be made now is put off with a token by which it can be asked for again. Measurements, sensor readings and MCTP
control messages are answered. Without an address after 1 s the sideband falls back to SMBus. IDCODE shifts out the code of the
grade; BYPASS, and outside BLANK and RMA every other instruction, changes nothing. -/
def Obligations.UpdatesAndSpdmAnswer : Prop :=
  ∀ s : State,
    (s.updatable = true → (∀ n b, s.stageFree 0x800000 = some b → exec (.requestUpdate n) s =
        .next ({ s with mgmt := { s.mgmt with update := .receiving b 0 } }.emit (.update 1 0))) ∧
      (∀ o data b l, s.mgmt.update = .receiving b l → data.length ≤ 1024 → o + data.length ≤ 0x800000 → exec (.requestFirmwareData o data false) s =
        .next { s with staging := s.staging.write (b + o) data, mgmt := { s.mgmt with update := .receiving b (max l (o + data.length)) } }) ∧
      (∀ b l, s.mgmt.update = .verified b l → ∃ t, exec (.applyComplete true) s = .next t ∧ t.flash = flashOf (s.staging.read b l) ∧
        t = { s with flash := t.flash, mgmt := { s.mgmt with update := .applied }, out := .update 3 0 :: s.out })) ∧
    (s.managed = true →
      (∃ t, exec .getVersion s = .next t ∧ t.out = .spdm .version :: s.out ∧ t.mgmt.negotiated = false ∧ t = { s with mgmt := t.mgmt, out := t.out }) ∧
      (∃ t, exec .getCapabilities s = .next t ∧ t.out = .spdm .capabilities :: s.out ∧ t = { s with mgmt := t.mgmt, out := t.out }) ∧
      (∀ h a ext, ∃ t, exec (.negotiateAlgorithms h a ext) s = .next t ∧ t.mgmt.negotiated = ext.contains slhExt ∧
        t.out = .spdm (.algorithms (ext.contains slhExt)) :: s.out ∧ t = { s with mgmt := t.mgmt, out := t.out }) ∧
      exec .getDigests s = .next (s.emit (.spdm (.digests (sha3_256 s.chain)))) ∧
      (∀ o l, exec (.getCertificate 0 o l) s = .next (s.emit (.spdm (.certificate ((s.chain.drop o).take l))))) ∧
      (∀ nonce, s.mgmt.negotiated = true → s.canSign = true → ∃ t sig, exec (.challenge nonce) s = .next t ∧
        t.out = .spdm (.challengeAuth sig) :: s.out ∧ t.mgmt.signUntil = second / 4 + s.time.now ∧
        t = { s with mgmt := t.mgmt, freeCtr := s.freeCtr + 1, out := t.out }) ∧
      (∀ nonce, s.mgmt.negotiated = true → s.canSign = false → ∃ t, exec (.challenge nonce) s = .next t ∧
        t.out = .spdm (.notReady s.mgmt.nextToken 18) :: s.out ∧ t = { s with mgmt := t.mgmt, out := t.out }) ∧
      (∀ index nonce vs, s.measureList index = some vs → exec (.getMeasurements index false nonce) s =
        .next (s.emit (.spdm (.measurements vs [])))) ∧
      (∀ w nonce, s.mgmt.waiting = some w → w.request = .challenge nonce → w.signed = true →
        exec (.respondIfReady w.token) s = exec (.challenge nonce) s) ∧
      (∀ k, s.mgmt.waiting = none → exec (.respondIfReady k) s = .next (s.emit (.spdm .unexpected))) ∧
      (∀ r : Fin 4, ∃ w c, exec (.getSensorReading r none) s = .next (s.emit (.sensor r (s.region r).temp w c)))) ∧
    (s.latches.tripped = false → s.boot.phase ≠ .start → ∀ code data, exec (.mctpControl code data) s = .next (s.emit (.mctp code))) ∧
    (s.dead = false → s.mgmt.sideband = .none → ∃ t, exec .smbusFallback s = .next t ∧ t.mgmt.sideband = .smbus ∧
      second + s.mgmt.powerGoodAt ≤ t.time.now ∧ t = { s with mgmt := t.mgmt, time := t.time }) ∧
    (s.latches.tripped = false → ∀ a, exec (.dynamicAddressAssignment a) s = .next { s with mgmt := { s.mgmt with sideband := .i3c a } }) ∧
    exec (.jtagInstruction .idcode) s = .next (s.emit (.jtag (idcode s.grade))) ∧ exec (.jtagInstruction .bypass) s = .next s ∧
    (s.fuses.life ≠ .blank → s.fuses.life ≠ .rma → ∀ n, exec (.jtagInstruction (.other n)) s = .next s)
end

