-- ==== Sys2Proof/WellFormed.lean ====
section
/-!
DEFINITION. Sys2Proof/WellFormed.lean: which commands can come from outside at all. A command that fails a check spells no access,
no message and no reading that the manual gives; every field that its type already bounds needs no check.
-/
namespace Sys2Proof

/-- A register access is 4 B or 8 B (R432); a host access is of 1 to 8 B (R347). -/
def sidebandSize (n : Nat) : Bool := n == 4 || n == 8
def hostSize (n : Nat) : Bool := decide (1 ≤ n) && decide (n ≤ 8)

/-- A device-wide physical deck index, 216 x core + 9 x stack + position (R17). -/
def deckIndex (d : Nat) : Bool := decide (d < 216 * 256)

/-- The operands are such as the manual gives the command. -/
def Instr.wf : Instr → Bool
  | .temperatureRead sensors hub => sensors.length == 32 && hub.length == 2
  | .cirqueBudgetEpoch regionUj _ => regionUj.length == 4
  | .rcRegisterRead src _ size => match src with
    | .host _ => hostSize size
    | .sideband => sidebandSize size
  | .latchedHighRead _ offset => decide (offset < 0x10000) && decide (offset % 4 = 0)
  | .registerWrite _ bar offset size _ => hostSize size && (match bar with
    | .bar0 => decide (offset < 0x10000)
    | .bar2 => decide (offset < 0x2000))
  | .regRead _ size => sidebandSize size
  | .regWrite _ size _ => sidebandSize size
  | .dumpRead _ len => decide (1 ≤ len) && decide (len ≤ 1024)
  | .keySet _ _ key => key.length == 32
  | .challenge nonce => nonce.length == 32
  | .getMeasurements _ _ nonce => nonce.length == 32
  | .requestFirmwareData _ data _ => decide (1 ≤ data.length) && decide (data.length ≤ 1024)
  | .hostReadCompletion _ _ data => decide (1 ≤ data.length) && decide (data.length ≤ 4096)
  | .pageProgram deck _ => deckIndex deck
  | .erasePulse deck => deckIndex deck
  | .readVerify deck _ => deckIndex deck
  | .refreshSwap deck => deckIndex deck
  | .deckOwnerWrite deck _ => decide (deck < 192 * 256)
  | .deckOwnerChange deck => decide (deck < 192 * 256)
  | .selftestSlice _ phys kind _ => decide (phys < 68) && decide (kind ≤ 5)
  | .screeRange _ phys _ => decide (phys < 68)
  | .doorbellPoll _ k => decide (k < 16)
  | .cirqueEstimateUpdate _ _ => true
  | .getCertificate slot _ _ => decide (slot < 8)
  | .linkFlitRetry hop _ => decide (hop < 5)
  | _ => true

end Sys2Proof
end

