-- ==== Sys2Proof/Tests/Slice0.lean ====
section
/-!
SUPPORT. Sys2Proof/Tests/Slice0.lean: witnesses for the hypotheses of the statements, the smoke test of WellFormed, and small tests
of the commands. Expected values are the manual's.
-/
namespace Sys2Proof.Tests
open Sys2Proof Sys2Proof.Machine

set_option maxRecDepth 20000
set_option Elab.async false

/-! ## Small states -/

/-- The block in service after reset. -/
def up : State := { State.reset with boot := { Boot.init with phase := .ready } }
/-- The block after the boot ROM, before DEVICE_READY. -/
def booted : State := { State.reset with boot := { Boot.init with phase := .booted } }
/-- A command before the block. -/
def wait (s : State) (c : Instr) : State := { s with pending := [c] }
/-- The state after a command, s where it stops. -/
def after (s : State) (c : Instr) : State := match exec c s with
  | .next t => t
  | _ => s
/-- The block at a beat boundary (62,500 ns a beat). -/
def atBeat (b : Nat) : State := { up with time := { TimeBase.init with now := 62500 * b } }
def flashAnswers : StartUp := { flashAnswers := true, checkpoint := true, failed := [], wearLost := [], badLines := [], badCopies := [], blocks := [] }

/-! ## Witnesses: every statement with hypotheses has a state and operands that meet them -/

theorem wit_StepRunsFrontCommand : (wait up .status).pending = .status :: [] ∧ up.pending = [] := by decide
theorem wit_CommandsKeepQueueAndGrade : ∃ t, exec .beatBoundary up = .next t := ⟨_, rfl⟩
theorem wit_FusesMoveOneWay : (∃ t, step (wait up .status) = .next t) ∧
    ({ up with fuses := { Fuses.init with revoked := [true, false, false, false] } } : State).fuses.revoked.getD 0 false = true := ⟨⟨_, rfl⟩, by decide⟩
theorem wit_SvnInvariant : (wait up .status).fuses.svn ≤ 64 ∧ (wait up .status).boot.svn ≤ 64 ∧ ∃ t, step (wait up .status) = .next t :=
  ⟨by decide, by decide, _, rfl⟩
def tripped : State := { up with latches := { up.latches with tripped := true } }
theorem wit_TripStaysUntilPowerOn : tripped.latches.tripped = true ∧ ∃ t, exec .beatBoundary tripped = .next t := ⟨by decide, _, rfl⟩
theorem wit_FlashChangesOnlyByApply : (∃ t, exec .beatBoundary up = .next t) ∧
    let s : State := { up with mgmt := { Mgmt.init with update := .verified 0 8 } }
    s.mgmt.applying = true := ⟨⟨_, rfl⟩, by decide⟩
theorem wit_InstallKeysChangeOnlyByName : ∃ t, exec .beatBoundary up = .next t := ⟨_, rfl⟩

/-- PPS locked, one edge accepted at 0. -/
def pps : State := { up.setHub rTimeCtrl 1 with time := { TimeBase.init with lock := .locked, lastEdge := some 0, freqPresent := true } }
/-- PTM locked on port 0, whose link is up. -/
def ptm : State := { up.setHub rTimeCtrl 2 with time := { TimeBase.init with lock := .locked }, ports := [{ Port.init with present := true, linkUp := true, ready := true }] }
theorem wit_TimeInputsTakeEffect :
    (pps.dead = false ∧ pps.timeSource = 1 ∧ pps.time.lock = .locked ∧ pps.time.lastEdge = some 0 ∧ pps.time.now ≤ 1000010000 ∧
      (secondsAfter (pps.edgeBase 0) 1000010000).1 ≤ 10000 ∧ ¬(secondsAfter (pps.edgeBase 0) 1000010001).1 ≤ 10000) ∧
    (let s : State := { ptm with time := { ptm.time with dialogAt := some 0, now := 62500 * 1023 } }
     s.dead = false ∧ s.timeSource = 2 ∧ 0 ≤ s.beat ∧ s.beat < 0 + s.dialogBeats ∧
       ({ ptm with time := { ptm.time with dialogAt := some 0, now := 62500 * 1024 } } : State).dialogDue = true) ∧
    (ptm.dead = false ∧ ptm.timeSource = 2 ∧ ptm.dialogDue = true ∧ (ptm.port ptm.ptmPort).linkUp = true ∧ ptm.time.lock = .locked) ∧
    (({ pps with time := { pps.time with lock := .free } } : State).time.freqPresent = true ∧
      ¬(({ pps with time := { pps.time with lock := .free } } : State).timeSource = 1 ∧
        ({ pps with time := { pps.time with lock := .free } } : State).time.lock = .locked)) ∧
    (fld ((up.setHub rTimeCtrl 0x40).hubWord rTimeCtrl) 7 6 ≠ 0 ∧ fld ((up.setHub rTimeCtrl 0x40).hubWord rTimeCtrl) 7 6 ≠ 3) := by decide
theorem wit_HoldoverEntersAndExpires :
    (({ pps with time := { pps.time with now := 3000010000 } } : State).dead = false ∧
      ({ pps with time := { pps.time with now := 3000010000 } } : State).lossMet = true ∧
      ({ pps with time := { pps.time with now := 3000009999 } } : State).lossMet = false) ∧
    let s : State := { up with time := { TimeBase.init with lock := .holdover, holdoverAt := some 0, now := 3600 * second } }
    s.dead = false ∧ s.time.lock = .holdover ∧ s.time.holdoverAt = some 0 ∧ second * s.holdoverLimit + 0 ≤ s.time.now := by decide
theorem wit_TimeControlWritesWait :
    let s : State := { up with time := { TimeBase.init with ctrlPending := some 1 } }
    s.dead = false ∧ s.time.ctrlPending = some 1 ∧ isSourceChange (s.hubWord rTimeCtrl) (timeCtrlNew (s.hubWord rTimeCtrl) 1) = true := by decide
theorem wit_BeatLengthChanges :
    let s : State := { up with time := { TimeBase.init with lenPending := some 3 } }
    s.dead = false ∧ 3 < 4 ∧ s.time.lenPending = some 3 := by decide
theorem wit_FrameCommits :
    bitAt (1 : Word) 0 = true ∧
    (let s : State := { up with frame := { up.frame with commit := some false } }
     s.dead = false ∧ s.frame.commit = some false ∧ s.parts.commit = none ∧
       frameCheck s.parts.entries s.nRegions s.frame.shadow (fld (s.hubWord rFrameCfg) 5 0 + 1) = 0) ∧
    (let s : State := { up with frame := { up.frame with commit := some true, shadow := [] } }
     s.dead = false ∧ s.frame.commit = some true ∧ s.parts.commit = none ∧
       frameCheck s.parts.entries s.nRegions s.frame.shadow (fld (s.hubWord rFrameCfg) 5 0 + 1) = 1) := by decide +kernel
theorem wit_PartitionTableCommits :
    bitAt (3 : Word) 0 = true ∧
    (let s : State := { up with parts := { up.parts with commit := some true } }
     s.dead = false ∧ s.parts.commit = some true ∧ (s.advanceTo s.nextBoundary).tableCheck s.stagedTable = 0) ∧
    (let s : State := { up.setHub 0x71004 65537 with parts := { up.parts with commit := some false } }
     s.dead = false ∧ s.parts.commit = some false ∧ (s.advanceTo s.nextBoundary).tableCheck s.stagedTable = 2) := by decide +kernel

def region0 (x : Region) : State := { atBeat 4 with regions := [x, Region.init, Region.init, Region.init] }
theorem wit_VoltageAndFrequencyMove :
    (let s := region0 { Region.init with raise := some (0, some 0) }
     s.dead = false ∧ 0 < s.regions.length ∧ (s.region 0).raise = some (0, some 0) ∧ s.beat ≤ 0 + 4 ∧ 0 + 4 ≤ s.beat ∧ s.stepEdge 0 = true) ∧
    (((vfCoreMv 0 : Int) - vfCoreMv 0).natAbs ≤ 5 ∧ (((vfSramMv 0 + 5 : Nat) : Int) - vfSramMv 0).natAbs ≤ 5) ∧
    (let s := region0 { Region.init with raise := some (0, none) }
     s.dead = false ∧ 0 < s.regions.length ∧ (s.region 0).raise = some (0, none) ∧ s.stepEdge 0 = true) ∧
    (let s := region0 { Region.init with lower := some 7 }
     s.dead = false ∧ 0 < s.regions.length ∧ (s.region 0).lower = some 7 ∧ s.stepEdge 0 = true) :=
  ⟨by decide, ⟨by omega, by omega⟩, by decide, by decide⟩
theorem wit_DroopAndDipRespond :
    (up.dead = false ∧ up.droopMv < 31 ∧ ¬up.droopMv < 30 ∧ 3 < up.regions.length) ∧
    (let s := region0 { Region.init with droop := some 0 }
     s.dead = false ∧ (s.region 0).droop = some 0 ∧ 62500 ≤ s.beatNs ∧ 0 < s.regions.length) ∧
    (let s : State := { atBeat 4 with power := { Power.init with dip := some 0 } }
     s.dead = false ∧ s.power.dip = some 0 ∧ 0 + 4 ≤ s.beat) ∧
    ((∀ b, up.power.readAt = some b → b + 16 ≤ up.beat) ∧
      let s : State := { atBeat 19 with power := { Power.init with readAt := some 4 } }
      s.dead = false ∧ s.power.readAt = some 4 ∧ 4 ≤ s.beat ∧ s.beat < 4 + 16) :=
  ⟨by decide, by decide, by decide, ⟨fun b h => by simp [up, State.reset, Power.init] at h, by decide⟩⟩
theorem wit_ThermalControlActs :
    (up.latches.tripped = false ∧ (120 : Int) ≤ 120 ∧ (119 : Int) < 120 ∧ up.dead = false) ∧
    ((List.replicate 32 (84 : Int)).length = 32 ∧ [(84 : Int), 84].length = 2 ∧ up.power.severe = false ∧
      ∀ x ∈ List.replicate 32 (84 : Int) ++ [84, 84], x < 85) ∧
    (¬((List.replicate 31 (84 : Int)).length = 32 ∧ [(84 : Int), 84].length = 2)) ∧
    (16 ≤ ((region0 { Region.init with throttleBeats := 16 }).region 0).throttleBeats) ∧
    (let s := region0 { Region.init with throttleBeats := 15, coolBeats := 64, ceiling := 1 }
     s.dead = false ∧ (s.region 0).throttleBeats < 16 ∧ 64 ≤ (s.region 0).coolBeats ∧ 0 < (s.region 0).ceiling) ∧
    (let s : State := { atBeat 16 with power := { Power.init with brake := true } }
     s.dead = false ∧ s.power.brake = true ∧ s.power.brakeAt + 16 * s.beatNs ≤ (s.advanceTo s.nextBoundary).time.now) := by decide
def runOf (k p : Nat) : RegionRun := { beat := 0, first := 0, slots := 8, klass := k, part := p, budget := 100000 }
theorem wit_CirqueKeepsItsBudget :
    (up.dead = false ∧ [1, 2, 3, 4].length = 4 ∧ [1, 2, 3].length ≠ 4) ∧
    (∀ r < 4, up.active r = true → 5 * (((up.region r).predicted : Int) - [0, 0, 0, 0].getD r 0).natAbs ≤ [0, 0, 0, 0].getD r 0) ∧
    (let s := region0 { Region.init with run := some (runOf 0 0) }
     s.dead = false ∧ s.active 0 = true ∧ (s.region 0).run = some (runOf 0 0) ∧ 0 < s.regions.length ∧ (runOf 0 0).klass = 0) ∧
    (let s := region0 { Region.init with run := some (runOf 1 0) }
     s.dead = false ∧ s.active 0 = true ∧ 0 < s.regions.length ∧ (s.region 0).run = some (runOf 1 0) ∧ (runOf 1 0).klass ≠ 0) ∧
    (let s := region0 { Region.init with conservative := some 4 }
     s.dead = false ∧ (s.region 0).conservative = some 4 ∧ 4 ≤ s.beat) ∧
    up.manageable = true := by decide
theorem wit_BeatBoundaryAndRuns :
    (up.dead = false ∧ up.cmds = [] ∧ up.sleepy = false ∧ up.time.ctrlPending = none ∧ up.power.cfgPending = none ∧ up.braked = false) ∧
    (up.serving = true ∧ (up.region 3).run = none ∧ up.active 3 = true ∧ 3 < up.regions.length ∧ up.time.now ≤ up.slotStart up.beat 0 ∧
      runFirst (fun j => up.slotByte up.beat j 3) 0 = 0) ∧
    (let s := region0 { Region.init with run := some (runOf 1 0) }
     s.dead = false ∧ (s.region 0).run = some (runOf 1 0) ∧ 0 < s.regions.length) := by decide
theorem wit_ResetsKeepWhatLasts :
    (up.latches.tripped = false ∧ up.boot.phase ≠ .start ∧ up.managed = true) ∧
    (let s : State := { up with mgmt := { Mgmt.init with update := .applied } }
     s.latches.tripped = false ∧ s.boot.phase ≠ .start ∧ s.mgmt.update = .applied) := by decide
theorem wit_DeviceReadySets : booted.dead = false ∧ booted.boot.phase = .booted := by decide
def noLinks : State := { up with ports := [{ Port.init with present := true }, Port.init, Port.init, Port.init] }
theorem wit_RegionAndPortResets :
    (up.serving = true ∧ 3 < up.nRegions ∧ 3 < up.regions.length ∧ (up.region 3).service = .inService ∧
      ((region0 { Region.init with service := .entering }).region 0).service = .entering) ∧
    (noLinks.dead = false ∧ (noLinks.port 0).present = true ∧ 0 < noLinks.ports.length ∧ (∀ k ∈ noLinks.cmds, k.port ≠ 0) ∧
      ¬(noLinks.timeSource = 2 ∧ noLinks.ptmPort = 0) ∧ (noLinks.port 0).ready = false) ∧
    (ptm.answers 0 = true ∧ 0 < ptm.ports.length ∧ ∀ k ∈ ptm.cmds, k.port ≠ 0) := by decide

/-! ## Host commands -/

/-- n bytes with numbers at offsets: (offset, bytes, value). -/
def bytesOf (n : Nat) (fs : List (Nat × Nat × Nat)) : List Byte :=
  Mem.read (fs.foldl (fun (m : Mem) f => m.putNum f.1 f.2.1 f.2.2) []) 0 n
/-- A descriptor of R362: opcode, flags, stream, tag 7 and its parameters. -/
def desc (op flags named : Nat) (ps : List (Nat × Nat × Nat)) : List Byte :=
  bytesOf 64 ([(0, 1, op), (1, 1, flags), (2, 2, named), (4, 4, 7)] ++ ps)
/-- An admitted command of port 0, ring 0 and completion ring 0. -/
def hostCmd (id op flags named : Nat) (ps : List (Nat × Nat × Nat)) : Cmd :=
  { id := id, port := 0, sq := 0, cq := 0, desc := desc op flags named ps, part := 0, admitBeat := 0, phase := .waiting, done := 0,
    klass := 0, events := 0, joined := 0, fail := none, abort := false, discard := false, decks := [], keySlot := none, content := [] }
/-- A port with its link up, Bus Master Enable set, and one ring of 64 entries in both directions. -/
def port0 : Port :=
  { Port.init with
    present := true, linkUp := true, ready := true, busMaster := true, doorbellBase := 0x10000,
    sqs := [(0, { SubRing.init with base := 0x30000, cfg := 0x80000006, headword := 0x40000 })],
    cqs := [(0, { CplRing.init with base := 0x20000, cfg := 0x80000006 })] }
/-- The block in service with that port and some admitted commands. -/
def served (cs : List Cmd) : State := { up with ports := [port0, Port.init, Port.init, Port.init], cmds := cs, nextCmd := 8 }
/-- The fields that a run reads of a plan container, of a class, stepped or not, on core 0 with a window of 8 KiB: CORE_MASK, a SLOTREQ
that reads 0, and a barrier 0 of cores 0 and 1 at 0xB0 (R227, R228, R232, R234). -/
def image (klass stepped : Nat) : List Byte :=
  List.replicate 6 0 ++ toLe 1 klass ++ toLe 1 stepped ++ [0, 1, 2, 0, 0, 0, 0, 0] ++ toLe 32 1 ++ List.replicate 20 0 ++ toLe 4 0x2000 ++
    List.replicate 56 0 ++ toLe 4 6 ++ toLe 4 0x100 ++ toLe 8 512 ++ toLe 4 8 ++ toLe 4 0xB0 ++ toLe 8 32 ++ List.replicate 16 0 ++ toLe 32 3
def plan (klass stepped : Nat) : Plan := { part := 0, image := image klass stepped, stageBase := 0, codeBase := 0, chunks := 0 }
def runRec (cmd : Option Nat) : Run :=
  { cmd := cmd, seed := 0, step := 0, stepsDone := 0, inStep := false, firstBeat := 0, beats := 0, klass := 0, events := 0, broken := false,
    replayed := false, fail := none }

theorem wit_PortsAnswerConfiguration :
    ((served []).answers 0 = true ∧ 0 < (served []).ports.length ∧ ((served []).port 0).queued = []) ∧
    (let c := hostCmd 1 0x10 0 3 []
     (served [c]).serving = true ∧ (served [c]).cmd? 1 = some c ∧ c.port = 0 ∧ c.readsHost = true) := by decide
theorem wit_SleepEntersAndLeaves :
    (let s := { up with cmds := [hostCmd 1 0x50 0 0 []] }
     s.manageable = true ∧ 3 < s.nRegions ∧ hibState s = 0 ∧ (s.region 3).service = .inService ∧ s.dormantRefused 3 = false ∧ s.drained = false ∧
       ∀ n x, (n, x) ∈ s.streams → x.state = .free) ∧
    (let s := { up with regions := [Region.init, { Region.init with service := .dormant }, { Region.init with service := .dormant },
       { Region.init with service := .dormant }] }
     s.manageable = true ∧ 0 < s.nRegions ∧ hibState s = 0 ∧ (s.region 0).service = .inService ∧ s.dormantRefused 0 = true ∧
       3 < s.regions.length ∧ (s.region 3).service = .dormant) ∧
    (let s := region0 { Region.init with service := .entering }
     s.manageable = true ∧ 0 < s.nRegions ∧ hibState s = 0 ∧ (s.region 0).service = .entering) ∧
    (let s := { up with streams := [(0, { Stream.init with state := .idle })] }
     s.manageable = true ∧ hibState s = 0 ∧ ∃ n x, (n, x) ∈ s.streams ∧ x.state ≠ .free) ∧
    ((up.setHub rHibStatus 1).manageable = true ∧ hibState (up.setHub rHibStatus 1) = 1) ∧
    ((up.setHub rHibStatus 2).manageable = true ∧ hibState (up.setHub rHibStatus 2) = 2) :=
  ⟨⟨by decide, by decide, by decide, by decide, by decide, by decide, fun _ _ h => by cases h⟩, by decide, by decide,
    ⟨by decide, by decide, 0, _, List.mem_singleton.mpr rfl, by decide⟩, by decide, by decide⟩
def l3 : State := { up with latches := { up.latches with l3 := true } }
theorem wit_SidebandRegisterAccess :
    (up.managed = true ∧ up.latches.l3 = false ∧ up.regWords 0xF00000100010 8 = some [.hubReg 0x10, .hubReg 0x14]) ∧
    (up.regWords 0xF0000018FFFC 4 = some [.hubReg 0x8FFFC] ∧ up.regWords 0xF00000190000 4 = none ∧ up.regWords 0xF00000100012 4 = none) ∧
    (l3.managed = true ∧ l3.latches.l3 = true ∧ l3.regWords 0xF00000100000 4 = some [.hubReg rTimeCtrl]) ∧
    (up.regWords 0xF00000050000 4 = some [.coreReg 0 0x50000] ∧ ¬(cDeckOwner ≤ 0x50000 ∧ 0x50000 < cDeckOwner + 0x300)) ∧
    (up.regWords 0xF00000100000 4 = some [.hubReg rTimeCtrl]) ∧
    ((List.range 1024).mapM (fun i => up.target (0x300003FFFC00 + BitVec.ofNat 48 i)) = some ((List.range 1024).map fun i => .hubMem (0x3FFFC00 + i))) ∧
    ((List.range 1).mapM (fun i => up.target (0x300004000000 + BitVec.ofNat 48 i)) = none) := by decide +kernel
theorem wit_HostRegisterAccess :
    ((served []).reachable 0 = true ∧ 0 < (served []).ports.length ∧ (served []).portWritable 0 = true) ∧
    (let s := { served [] with ports := [{ port0 with latch := [(0xC000, 5)] }] }
     s.reachable 0 = true ∧ 0xC000 % 8 = 0 ∧ wide 0xC000 = some 0xC000 ∧ mget (s.port 0).latch 0xC000 = some 5) ∧
    (let s := { served [] with ports := [{ Port.init with present := true, linkUp := true, ready := true }] }
     s.reachable 0 = true ∧ s.portWritable 0 = true ∧ (List.range 64).any (s.sqActive 0) = false) ∧
    ({ served [] with boot := { Boot.init with phase := .failed 3 } } : State).portWritable 0 = false ∧
    (2 % 4 ≠ 0 ∧ 63 < 64 ∧ bitAt ((served []).port 0).pba 63 = false) := by decide
/-- Ring 1 of the port, whose submission ring names completion ring 1, both set up and not enabled. -/
def rings (q : SubRing) (c : CplRing) : State := { served [] with ports := [{ port0 with sqs := [(1, q)], cqs := [(1, c)] }] }
def sq1 : SubRing := { SubRing.init with base := 0x30000, cfg := 0x00010010, headword := 0x40000 }
def cq1 : CplRing := { CplRing.init with base := 0x20000, cfg := 0x80000006 }
theorem wit_RingSetupWrites :
    (let s := rings sq1 cq1
     let on := ((0x00010010 : Word) ||| 0x80000000) &&& sqCfgBits
     s.portWritable 0 = true ∧ 0 < s.ports.length ∧ s.sqActive 0 1 = false ∧ bitAt ((s.port 0).cq (fld on 21 16)).cfg 31 = true ∧
       6 ≤ fld on 4 0 ∧ fld on 4 0 ≤ 16 ∧ ((s.port 0).sq 1).base ≠ 0 ∧ ((s.port 0).sq 1).headword ≠ 0 ∧ (s.port 0).doorbellBase ≠ 0) ∧
    (let s := rings sq1 CplRing.init
     s.portWritable 0 = true ∧ s.sqActive 0 1 = false ∧
       bitAt ((s.port 0).cq (fld (((0x00010010 : Word) ||| 0x80000000) &&& sqCfgBits) 21 16)).cfg 31 = false) ∧
    (let s := rings { sq1 with cfg := 0x80010010 } cq1
     s.portWritable 0 = true ∧ s.sqActive 0 1 = true ∧
       ((((0x00010006 : Word) ||| 0x80000000) &&& sqCfgBits) ^^^ ((s.port 0).sq 1).cfg) &&& 0x7FFFFFFF ≠ 0 ∧
       ((0x00010010 : Word) &&& 0x7FFFFFFF) &&& sqCfgBits = ((s.port 0).sq 1).cfg &&& 0x7FFFFFFF) ∧
    (let s := rings { sq1 with inEffect := true } cq1
     s.portWritable 0 = true ∧ s.sqActive 0 1 = true ∧ bitAt ((s.port 0).sq 1).cfg 31 = false ∧
       ((((0x00010010 : Word) ||| 0x80000000) &&& sqCfgBits) ^^^ ((s.port 0).sq 1).cfg) &&& 0x7FFFFFFF = 0) ∧
    (let s := rings sq1 { cq1 with cfg := 0 }
     let onC := ((6 : Word) ||| 0x80000000) &&& cqCfgBits
     s.portWritable 0 = true ∧ bitAt ((s.port 0).cq 1).cfg 31 = false ∧ 6 ≤ fld onC 4 0 ∧ fld onC 4 0 ≤ 16 ∧ ((s.port 0).cq 1).base ≠ 0 ∧
       fld (((17 : Word) ||| 0x80000000) &&& cqCfgBits) 4 0 = 17) ∧
    (let s := rings sq1 cq1
     ((6 : Word) &&& 0x7FFFFFFF) &&& cqCfgBits = ((s.port 0).cq 1).cfg &&& 0x7FFFFFFF ∧
       ∀ k < 64, s.sqActive 0 k = true → fld ((s.port 0).sq k).cfg 21 16 ≠ 1) ∧
    (let s := rings { sq1 with cfg := 0x80010010 } cq1
     1 < 64 ∧ s.sqActive 0 1 = true ∧ fld ((s.port 0).sq 1).cfg 21 16 = 1 ∧
       ((6 : Word) &&& 0x7FFFFFFF) &&& cqCfgBits = ((s.port 0).cq 1).cfg &&& 0x7FFFFFFF) := by decide
theorem wit_PollServesRings :
    ((served []).serving = true ∧ 3 < ((served []).port 0).cadence ∧ ((served []).port 0).dmaOn = true ∧ 0 < (served []).ports.length ∧
      0 < ((served []).port 1).cadence ∧ ((served []).port 1).dmaOn = false ∧
      ((served []).port 1).resuming = false) ∧
    (let s := { served [] with ports := [{ port0 with resuming := true }] }
     s.serving = true ∧ 0 < (s.port 0).cadence ∧ (s.port 0).resuming = true ∧ 0 < s.ports.length) ∧
    (let s := { served [] with ports := [{ port0 with polledAt := some 0 }] }
     s.serving = true ∧ (s.port 0).polledAt = some (s.pollInstant 1 0) ∧ s.pollInstant 1 0 / s.beatNs = s.beat) ∧
    (let s := rings sq1 { cq1 with unsignalled := 1, coal := 0x80000100 }
     s.dead = false ∧ ((s.port 0).cq 1).unsignalled ≠ 0 ∧ bitAt ((s.port 0).cq 1).coal 31 = true ∧ 0 < s.ports.length) := by decide
/-- The block with a descriptor at the head of ring 0 of port 0. -/
def withDesc (d : List Byte) (s : State) : State := { s with ports := [{ port0 with host := Mem.write [] 0x30000 d }] }
def headCmd (s : State) : Cmd := s.cmdOf 0 0 ((s.portPart 0).getD 4) (s.descAt 0 0)
theorem wit_DescriptorHeldConsumedOrTaken :
    (let s := { up with ports := [{ port0 with cqs := [(0, { cq1 with count := 64 })] }] }
     0 < s.ports.length ∧ ((s.port 0).cq (fld ((s.port 0).sq 0).cfg 21 16)).hasPlace = false) ∧
    (let s := withDesc (desc 0x50 1 0 []) (served [])
     0 < s.ports.length ∧ ((s.port 0).cq (fld ((s.port 0).sq 0).cfg 21 16)).hasPlace = true ∧ s.verdict (headCmd s) (s.portPart 0).isSome = .take) ∧
    (let s := withDesc (desc 0x50 1 0 []) ((served []).setHub rHibStatus 1)
     ((s.port 0).cq (fld ((s.port 0).sq 0).cfg 21 16)).hasPlace = true ∧ s.verdict (headCmd s) (s.portPart 0).isSome = .hold) ∧
    (let s := withDesc (desc 0x00 0 0 []) (served [])
     ((s.port 0).cq (fld ((s.port 0).sq 0).cfg 21 16)).hasPlace = true ∧
       s.verdict (headCmd s) (s.portPart 0).isSome = .consume stBadDescriptor) := by decide +kernel
theorem wit_AdmissionTestsInOrder :
    ((hostCmd 1 0x05 0 0 []).malformed ((served []).corpus? 0).isSome = true) ∧
    ((hostCmd 1 0x51 0 3 []).malformed ((served []).corpus? 0).isSome = false ∧ (served []).streamTest (hostCmd 1 0x51 0 3 []) = some stBadStream) ∧
    ((served []).verdict (hostCmd 1 0x50 1 0 []) true = .take) ∧
    (let s := { served [] with streams := [(0, { Stream.init with state := .idle, kind := 1 })], corpora := [(0,
       { decks := [(0, 0)], tagDcm := 0, checkDcm := 8, winBase := 0, winLen := 4, epoch := 0, changes := [], task := 0, measured := none,
         epochBeat := none, seriesFrom := 0, lastEnd := none, placed := [] })] }
     s.verdict (hostCmd 1 0x10 0 0 [(0x18, 8, 0x1000), (0x20, 8, 0x2000), (0x28, 2, 1)]) true = .take) ∧
    ((served []).verdict (hostCmd 1 0x01 0 0 [(0x18, 1, 1), (0x1A, 4, 0xFFFFFFFF)]) true = .take) ∧
    (let c := hostCmd 1 0x51 0 3 []
     let s := { served [hostCmd 2 0x04 0 3 []] with streams := [(3, { Stream.init with state := .idle }), (4, { Stream.init with state := .idle, part := 1 })] }
     c.names = true ∧ c.named < s.nStreams ∧ (s.stream c.named).state ≠ .free ∧ (s.stream c.named).part = c.part ∧
       (∃ e ∈ s.cmds, e.op = 0x04 ∧ e.named = c.named) ∧ ¬(c.op = 0x04 ∧ c.flag 0 = true) ∧ (s.stream 4).state ≠ .free ∧ (s.stream 4).part ≠ c.part) ∧
    (let c := hostCmd 1 0x51 0 3 []
     let s := { served [] with streams := [(3, { Stream.init with state := .failed })] }
     (s.stream c.named).part = c.part ∧ (∀ e ∈ s.cmds, e.op = 0x04 → e.named ≠ c.named) ∧ (s.stream c.named).state = .failed ∧ c.op ≠ 0x04) := by
  decide +kernel
theorem wit_CompletionEntersRing :
    let c := hostCmd 1 0x50 0 0 []
    let cq := ((served [c]).port 0).cq 0
    c.discard = false ∧ ((served [c]).port c.port).dmaOn = true ∧ c.port < (served [c]).ports.length ∧
      cq.base.toNat + 32 * (cq.count.toNat % cq.size) + 32 ≤ (((served [c]).port 0).sq 0).headword.toNat := by decide
/-- Streams of partition 0: 0 a plan stream, 1 a generation stream on plan 0 with a slot and 63 tokens. -/
def genStream : Stream :=
  { Stream.init with state := .active, kind := 0, plan := 0, prefill := 0xFFFF, slot := some 0, length := 63, limit := 128, pages := 1, pending := some 5 }
def gen (cs : List Cmd) : State :=
  { served cs with plans := [(0, plan 1 1)], streams := [(0, { Stream.init with state := .idle, kind := 3, plan := 0 }), (1, genStream)],
                   slots := [(0, { stream := 1, allocated := 1 })] }
theorem wit_StreamsOpenAndClose :
    (let c := hostCmd 1 0x01 0 0 [(0x18, 1, 1), (0x1A, 4, 0xFFFFFFFF)]
     let s := served [c]
     s.admitted 1 0x01 = some c ∧ (s.hubStart c).isSome = true ∧ (s.advanceTo s.nextBoundary).commandTest c = none ∧
       (s.advanceTo s.nextBoundary).freeStream = some 0) ∧
    (let c := hostCmd 1 0x01 0 0 [(0x18, 1, 7)]
     (served [c]).admitted 1 0x01 = some c ∧ ((served [c]).hubStart c).isSome = true ∧
       ((served [c]).advanceTo (served [c]).nextBoundary).commandTest c = some stBadStream) ∧
    (let c := hostCmd 1 0x04 0 1 []
     (gen [c]).admitted 1 0x04 = some c ∧ c.flag 0 = false ∧ ((gen [c]).hubStart c).isSome = true ∧ c.named < 8192 ∧
       ((gen [c]).stream c.named).kind ≠ 3 ∧ (∀ e ∈ (gen [c]).cmds, e.stream? = some c.named → e.id = 1) ∧ ((gen [c]).stream c.named).slot = some 0) ∧
    (let c := hostCmd 2 0x04 1 1 []
     let d := hostCmd 1 0x03 0 1 [(0x18, 8, 0x1000), (0x20, 4, 1)]
     (gen [d, c]).admitted 2 0x04 = some c ∧ c.flag 0 = true ∧ c.named < 8192 ∧ ((gen [d, c]).stream c.named).kind ≠ 3 ∧
       ∀ e ∈ (gen [d, c]).cmds, e.stream? = some c.named → e.id ≠ 2 → (gen [d, c]).inStepOrBatch e = false ∧ (gen [d, c]).runOf e = none) ∧
    (let c := hostCmd 2 0x04 1 1 []
     let e := { hostCmd 1 0x03 0 1 [(0x18, 8, 0x1000), (0x20, 4, 1)] with joined := 1 }
     (gen [e, c]).admitted 2 0x04 = some c ∧ c.flag 0 = true ∧ e ∈ (gen [e, c]).cmds ∧ e.stream? = some c.named ∧ e.id ≠ 2 ∧
       (gen [e, c]).inStepOrBatch e = true) ∧
    (let c := hostCmd 1 0x04 0 0 []
     let s := gen [c]
     s.admitted 1 0x04 = some c ∧ c.flag 0 = false ∧ (s.hubStart c).isSome = true ∧ c.named < 8192 ∧ (s.stream c.named).kind = 3 ∧
       (∀ e ∈ s.cmds, e.stream? = some c.named → e.id = 1) ∧ s.plan? c.named = some (plan 1 1) ∧ s.planNamed c.named = true ∧
       ({ s with streams := s.streams.take 1 } : State).planNamed c.named = false ∧
       (({ s with streams := s.streams.take 1 } : State).hubStart c).isSome = true) := by decide +kernel
/-- Stream 1 with other values. -/
def genWith (x : Stream) (cs : List Cmd) : State := { gen cs with streams := [(1, x)] }
theorem wit_GenerationCommandsBegin :
    (let c := hostCmd 1 0x02 0 1 [(0x18, 8, 0x1000), (0x20, 4, 66)]
     c.phase = .waiting ∧ (gen [c]).mayStart c = true ∧ (gen [c]).admitted 1 0x02 = some c ∧
       ((gen [c]).stream 1).limit < ((gen [c]).stream 1).length + c.par 0x20 4 - b2n ((gen [c]).stream 1).pending.isNone) ∧
    (let c := hostCmd 1 0x02 0 1 [(0x18, 8, 0x1000), (0x20, 4, 65)]
     (gen [c]).mayStart c = true ∧ (gen [c]).admitted 1 0x02 = some c ∧
       ((gen [c]).stream 1).length + c.par 0x20 4 - b2n ((gen [c]).stream 1).pending.isNone ≤ ((gen [c]).stream 1).limit ∧
       ((gen [c]).reservePages c).isSome = true ∧ ((gen [c]).stream 1).pending.isSome = true) ∧
    (let c := hostCmd 1 0x02 0 1 [(0x18, 8, 0x1000), (0x20, 4, 2)]
     let s := genWith { genStream with length := 0, pending := none } [c]
     s.mayStart c = true ∧ s.admitted 1 0x02 = some c ∧
       (s.stream 1).length + c.par 0x20 4 - b2n (s.stream 1).pending.isNone ≤ (s.stream 1).limit ∧
       (s.reservePages c).isSome = true ∧ (s.stream 1).pending = none ∧ c.par 0x20 4 ≠ 1) ∧
    (let c := hostCmd 1 0x03 0 1 [(0x18, 8, 0x1000), (0x20, 4, 1)]
     (genWith { genStream with pending := none } [c]).mayStart c = true ∧ (genWith { genStream with pending := none } [c]).admitted 1 0x03 = some c ∧
       ((genWith { genStream with pending := none } [c]).stream c.named).pending = none) ∧
    (let c := hostCmd 1 0x03 0 1 [(0x18, 8, 0x1000), (0x20, 4, 1)]
     let s := genWith { genStream with length := 128 } [c]
     s.mayStart c = true ∧ s.admitted 1 0x03 = some c ∧ (s.stream c.named).pending.isSome = true ∧ (s.stream c.named).limit ≤ (s.stream c.named).length) ∧
    (let c := hostCmd 1 0x03 0 1 [(0x18, 8, 0x1000), (0x20, 4, 1)]
     let s := genWith { genStream with length := 127 } [c]
     s.mayStart c = true ∧ s.admitted 1 0x03 = some c ∧ (s.stream c.named).pending.isSome = true ∧ (s.stream c.named).length < (s.stream c.named).limit ∧
       s.planOf c.named = some (plan 1 1) ∧ planStepped (plan 1 1).image = true ∧ (s.reservePages c).isSome = true ∧ c.par 0x28 8 = 0) := by decide +kernel
theorem wit_OrderCommandsComplete :
    (let c := hostCmd 1 0x50 0 1 []
     (gen [c]).admitted 1 0x50 = some c ∧ ((gen [c]).hubStart c).isSome = true ∧ c.flag 0 = false) ∧
    (let c := hostCmd 1 0x50 1 0 []
     (gen [c]).admitted 1 0x50 = some c ∧ ((gen [c]).hubStart c).isSome = true ∧ c.flag 0 = true) ∧
    (let c := hostCmd 1 0x51 0 1 [(8, 8, 1)]
     (gen [c]).admitted 1 0x51 = some c ∧ ((gen [c]).hubStart c).isSome = false ∧
       ({ gen [c] with time := { TimeBase.init with now := 1 } } : State).admitted 1 0x51 = some c ∧
       (({ gen [c] with time := { TimeBase.init with now := 1 } } : State).hubStart c).isSome = true) ∧
    (let c := hostCmd 1 0x50 0 1 [(8, 8, 1)]
     (gen [c]).admitted 1 0x50 = some c ∧ ((gen [c]).hubStart c).isSome = false) ∧
    (let c := hostCmd 1 0x52 1 1 [(0x18, 8, 0x1000)]
     (gen [c]).admitted 1 0x52 = some c) := by decide +kernel
/-- A run of a class of partition 0 in region 0. -/
def inRun (k : Nat) (s : State) : State :=
  { s with regions := [{ Region.init with run := some (runOf k 0) }, Region.init, Region.init, Region.init] }
theorem wit_HostCopiesMoveBytes :
    (let c := hostCmd 1 0x40 0 0 [(0x18, 8, 0x1000), (0x20, 2, 0), (0x24, 4, 0x1000), (0x28, 4, 0x1000)]
     let s := inRun 1 (gen [c])
     s.plan? (c.par 0x20 2) = some (plan 1 1) ∧ s.mayStart c = true ∧ s.copyRun (plan 1 1) = true ∧ (s.port c.port).dmaOn = true ∧
       s.admitted 1 0x40 = some c) ∧
    (let c := hostCmd 1 0x41 0 0 [(0x18, 8, 0x1000), (0x20, 2, 0), (0x24, 4, 0), (0x28, 4, 1)]
     let s := inRun 1 (gen [c])
     s.plan? (c.par 0x20 2) = some (plan 1 1) ∧ s.mayStart c = true ∧ s.copyRun (plan 1 1) = true ∧ (s.port c.port).dmaOn = true ∧
       s.admitted 1 0x41 = some c ∧ s.injectionHub = none) := by decide +kernel
/-- A frame of one class in every slot of partition 0, but for maintenance in slot 7 of every beat. -/
def frameOf (k : Nat) : Frame :=
  let w := fun slot => if slot = 7 then BitVec.ofNat 32 0x70707070 else BitVec.ofNat 32 ((0x10 * k) * 0x01010101)
  { active := (List.range 8).map w, len := 1, origin := 0, shadow := [], bank := false, commit := none }
def full : Region := { Region.init with levels := [16, 16, 16, 16] }
/-- Plan 0 of a class, with stream 0 its plan stream, under a frame of that class at full rate. -/
def planned (k stepped : Nat) (cs : List Cmd) : State :=
  { served cs with plans := [(0, plan k stepped)], frame := frameOf k, regions := [full, full, full, full],
                   streams := [(0, { Stream.init with state := .idle, kind := 3, plan := 0 }), (1, { genStream with kind := if k = 4 then 2 else 0 })],
                   slots := [(0, { stream := 1, allocated := 0 })] }
def running (c : Cmd) : Cmd := { c with phase := .running }
theorem wit_PlanRunsBegin :
    (let c := hostCmd 1 0x31 0 0 []
     (planned 6 0 [c]).serving = true ∧ (planned 6 0 [c]).admitted 1 0x31 = some c ∧ c.phase = .waiting ∧ (planned 6 0 [c]).mayStart c = true) ∧
    (let c := hostCmd 1 0x32 0 1 [(0x20, 8, 0x1000), (0x28, 4, 256)]
     let s := planned 4 0 [c]
     s.admitted 1 0x32 = some c ∧ s.planOf c.named = some (plan 4 0) ∧ c.phase = .waiting ∧ s.mayStart c = true ∧ (s.port c.port).dmaOn = true) ∧
    (let c := running (hostCmd 1 0x31 0 0 [])
     let s := planned 6 0 [c]
     s.serving = true ∧ s.cmd? 1 = some c ∧ c.op = 0x31 ∧ c.phase = .running ∧ s.plan? (s.runPlan c) = some (plan 6 0) ∧ s.run? (s.runPlan c) = none ∧
       s.nextRunSlot (plan 6 0) c.notBefore = some 0 ∧ ∀ k ∈ planCores (plan 6 0).image, planTask (plan 6 0).image < (s.core k).tasks.length) ∧
    (let c := running (hostCmd 1 0x03 0 1 [(0x18, 8, 0x1000), (0x20, 4, 1)])
     let s := planned 1 1 [c]
     s.serving = true ∧ s.plan? 0 = some (plan 1 1) ∧ planClass (plan 1 1).image = 1 ∧ s.run? 0 = none ∧ s.executing 0 ≠ [] ∧
       s.nextRunSlot (plan 1 1) 0 = some 0) := by decide +kernel
/-- Task 0 of core 0 under plan 0, its sequencer waiting for a step, its ends as given. -/
def coreWith (t : Task) : Core := { Core.init with tasks := [t, Task.init, Task.init, Task.init] }
def stepTask (step fin : Bool) : Task := { Task.init with valid := true, klass := 6, seq := .waitStep, doneStep := step, doneEnd := fin }
theorem wit_StepsAndPagesAdvance :
    (let c := running (hostCmd 1 0x31 0 0 [])
     let s := { planned 6 1 [c] with runs := [(0, runRec (some 1))], cores := [(0, coreWith (stepTask false false))] }
     let b := s.nextBoundary / s.beatNs
     s.serving = true ∧ s.plan? 0 = some (plan 6 1) ∧ s.run? 0 = some (runRec (some 1)) ∧ planClass (plan 6 1).image ≠ 1 ∧
       s.stepReady (plan 6 1) (runRec (some 1)) = true ∧ (runRec (some 1)).firstBeat + (runRec (some 1)).beats ≤ b ∧
       s.firstOwned (planUses (plan 6 1).image) (planClass (plan 6 1).image) 0 b = some b ∧ s.stepLast (plan 6 1).image 0 b = some b) ∧
    (let c := running (hostCmd 1 0x31 0 0 [])
     let r := { runRec (some 1) with inStep := true }
     let s := { planned 6 1 [c] with runs := [(0, r)], cores := [(0, coreWith (stepTask true false))] }
     s.plan? 0 = some (plan 6 1) ∧ s.run? 0 = some r ∧ r.inStep = true ∧ r.broken = false ∧ r.fail = none ∧ r.cmd = some 1 ∧ s.cmd? 1 = some c ∧
       c.abort = false ∧ s.runError (plan 6 1) = none ∧ (∀ e ∈ s.planTasks (plan 6 1), e.2.doneStep = true ∨ e.2.doneEnd = true) ∧
       ∃ e ∈ s.planTasks (plan 6 1), e.2.doneEnd = false ∧ e.2.seq ≠ .halted) ∧
    (let c := running (hostCmd 1 0x31 0 0 [])
     let r := runRec (some 1)
     let s := { planned 6 0 [c] with runs := [(0, r)], cores := [(0, coreWith (stepTask false true))] }
     s.plan? 0 = some (plan 6 0) ∧ s.run? 0 = some r ∧ r.broken = false ∧ r.fail = none ∧ r.cmd = some 1 ∧ s.cmd? 1 = some c ∧ c.op = 0x31 ∧
       c.abort = false ∧ s.runError (plan 6 0) = none ∧ ∀ e ∈ s.planTasks (plan 6 0), e.2.doneEnd = true) ∧
    (let s := { planned 1 1 [] with regions := [{ full with run := some (runOf 1 0) }, full, full, full], slots := [(0, { stream := 1, allocated := 1 })], streams := [(1, { genStream with length := 32, pages := 2 })] }
     mget s.slots 0 = some { stream := 1, allocated := 1 } ∧ 64 * 1 < (s.stream 1).limit ∧ 64 * 1 ≤ (s.stream 1).length + 32 ∧
       s.serving = true ∧ s.pageRun (s.stream 1).part = true ∧ s.planOf 1 = some (plan 1 1) ∧ (s.core 0).anyLost = false) ∧
    (let c := running (hostCmd 1 0x02 0 1 [(0x18, 8, 0x1000), (0x20, 4, 65)])
     let x := { genStream with length := 63, pages := 2, prefill := 2 }
     let s := { planned 2 1 [c] with plans := [(2, plan 2 1)], runs := [(2, runRec none)], streams := [(1, x)], slots := [(0, { stream := 1, allocated := 2 })] }
     s.admitted 1 0x02 = some c ∧ c.joined = 0 ∧ c.abort = false ∧ s.prefillOf c.named = some (2, plan 2 1) ∧ (s.stream c.named).slot = some 0 ∧
       s.run? 2 = some (runRec none) ∧ c.done < c.par 0x20 4 ∧ ((s.executing 2).filter fun e => e.joined != 0).length < 16 ∧
       ((s.executing 2).find? fun e => e.joined == 0).map (·.id) = some 1 ∧
       s.hasPage c.named ((s.stream c.named).length + min 64 (c.par 0x20 4 - c.done) - 1) = true) := by decide +kernel
/-! ## Queries and the corpus -/

def corpus : Corpus :=
  { decks := [(0, 0)], tagDcm := 0, checkDcm := 8, winBase := 0, winLen := 4, epoch := 0, changes := [], task := 3, measured := none,
    placed := [], epochBeat := none, seriesFrom := 0, lastEnd := none }
/-- Partition 0 holds a corpus of device deck 0; deck 1 is its own and ERASED. -/
def withCorpus (cs : List Cmd) : State := { served cs with corpora := [(0, corpus)], deckOwner := [(0, 4), (1, 4)] }
def query : Cmd := hostCmd 1 0x10 0 0 [(0x18, 8, 0x1000), (0x20, 8, 0x2000), (0x28, 2, 1)]
theorem wit_QueriesAndBatches :
    ((withCorpus [query]).serving = true ∧ (withCorpus [query]).admitted 1 0x10 = some query ∧ query.phase = .waiting ∧ query.content = [] ∧
      query.notBefore ≤ (withCorpus [query]).beat ∧ ((withCorpus [query]).port query.port).dmaOn = true) ∧
    (let c := hostCmd 1 0x11 0 0 [(0x18, 8, 0x1000), (0x20, 8, 0x2000), (0x28, 8, 0x3000), (0x30, 2, 256)]
     (withCorpus [c]).admitted 1 0x11 = some c ∧ c.phase = .waiting ∧ c.content = [] ∧ c.notBefore ≤ (withCorpus [c]).beat ∧
       ((withCorpus [c]).port c.port).dmaOn = true) ∧
    (let q := { query with content := [1] }
     let s := withCorpus [q]
     let s' := s.advanceTo s.nextBoundary
     s.serving = true ∧ s.corpus? 0 = some corpus ∧ mget s.batches 0 = none ∧ corpus.changes = [] ∧
       (s'.readyQueries 0).take (s.part 0).queryBatch ≠ [] ∧ corpus.epochBeat ≠ some s'.beat ∧
       ∀ q ∈ (s'.readyQueries 0).take (s.part 0).queryBatch, corpus.holdsAll q = true) ∧
    (let s := { withCorpus [] with batches := [(0, { cmds := [1], start := 0, epoch := 0, replayed := false })] }
     s.serving = true ∧ s.corpus? 0 = some corpus ∧ mget s.batches 0 = some { cmds := [1], start := 0, epoch := 0, replayed := false } ∧
       s.scansNow 0 = false ∧ corpus.decks ≠ [] ∧ (inRun 3 s).scansNow 0 = true) := by decide +kernel
/-- Core 0 with the tombstones of every vector of corpus deck 0. -/
def tombs : Core := { Core.init with dcm := (List.range 128).map fun i => (corpus.tombAddr 0 + i, 0xFF) }
def hostAt (a : Nat) (bs : List Byte) (s : State) : State := { s with ports := [{ port0 with host := Mem.write [] a bs }] }
def tombCmd : Cmd := hostCmd 1 0x21 0 0 [(0x18, 8, 0x1000), (0x20, 4, 1)]
def eraseCmd : Cmd := { hostCmd 1 0x21 1 0 [(0x18, 8, 0x1000), (0x20, 4, 1)] with decks := [0] }
theorem wit_CorpusChangesTakeEffect :
    (let s := hostAt 0x1000 [0xFF, 3] (withCorpus [tombCmd])
     s.serving = true ∧ s.admitted 1 0x21 = some tombCmd ∧ tombCmd.flag 0 = false ∧ tombCmd.phase = .waiting ∧ s.mayStart tombCmd = true ∧
       (s.port tombCmd.port).dmaOn = true ∧ s.corpus? tombCmd.part = some corpus ∧ s.hostWords 0 0x1000 1 = [1023] ∧
       [1023].all (fun i => (corpus.index? (i / 1024)).isSome) = true ∧ [1024].all (fun i => (corpus.index? (i / 1024)).isSome) = false) ∧
    (let s := withCorpus [eraseCmd]
     s.admitted 1 0x21 = some eraseCmd ∧ eraseCmd.flag 0 = true ∧ eraseCmd.phase = .waiting ∧ s.mayStart eraseCmd = true ∧
       s.corpus? eraseCmd.part = some corpus ∧ eraseCmd.decks ≠ [] ∧
       eraseCmd.decks.eraseDups.mapM (fun d => (corpus.index? d).map fun j => (d, j)) = some [(0, 0)] ∧ s.allTombed corpus (0, 0) = false ∧
       ({ s with cores := [(0, tombs)] } : State).allTombed corpus (0, 0) = true) ∧
    (let c := { eraseCmd with phase := .finished }
     (withCorpus [c]).admitted 1 0x21 = some c ∧ c.flag 0 = true ∧ c.phase = .finished ∧ (withCorpus [c]).eraseLeft c = false) ∧
    (let k := { corpus with changes := [{ cmd := 1, add := [], remove := [], tomb := [5], last := true }] }
     let s := { withCorpus [] with corpora := [(0, k)] }
     s.serving = true ∧ s.corpus? 0 = some k ∧ mget s.batches 0 = none ∧ k.changes ≠ [] ∧
       ∀ c ∈ s.cmds, c.op = 0x20 → c.part = 0 → c.phase ≠ .running) ∧
    (let s := inRun 7 (withCorpus [])
     s.serving = true ∧ s.corpus? 0 = some corpus ∧ (List.range s.nRegions).any s.inMaintenance = true) := by decide +kernel
def progCmd (flags : Nat) : Cmd :=
  { hostCmd 1 0x20 flags 0 [(0x18, 8, 0x1000), (0x20, 8, 0x2000), (0x28, 8, 0x3000), (0x30, 4, 1)] with decks := [1] }
/-- Deck 1 READY with column checks. -/
def deck1Ready : Core := { Core.init with decks := [(1, { Deck.init with state := .ready, colcheck := true })] }
/-- The spans that the corpus takes in core 0. -/
def spans : Nat → List (Nat × Nat) := fun n => if [0].contains n then corpus.ranges else []
theorem sram_ok : (withCorpus []).sramFits 0 spans = true := by decide +kernel
theorem sramFits_eq {s t : State} {p : Nat} {e : Nat → List (Nat × Nat)} (h1 : ∀ n, (s.core n).tasks = (t.core n).tasks) (h2 : s.corpora = t.corpora)
    (h3 : s.parts = t.parts) (h4 : s.grade = t.grade) : s.sramFits p e = t.sramFits p e := by
  simp only [State.sramFits, State.sramUsed, State.corpus?, h1, h2, State.part, h3, State.nRegions, h4]
  rfl
/-- The state has the SRAM and the corpus of `withCorpus []`, and c may start. -/
def starts (c : Cmd) (s : State) : Prop :=
  s.admitted 1 0x20 = some c ∧ c.phase = .waiting ∧ s.mayStart c = true ∧ (s.port c.port).dmaOn = true ∧ s.corpusFor c c.decks = .inr corpus
theorem starts_of {s : State} {c : Cmd} (h : s.admitted 1 0x20 = some c ∧ c.phase = .waiting ∧ s.mayStart c = true ∧ (s.port c.port).dmaOn = true)
    (hc : c.decks = [1] ∧ c.part = 0 ∧ s.corpus? 0 = some corpus ∧ s.serviceFits 0 corpus 0 = true)
    (hs : (∀ n, (s.core n).tasks = Core.init.tasks) ∧ s.corpora = (withCorpus []).corpora ∧ s.parts = (withCorpus []).parts ∧ s.grade = (withCorpus []).grade) : starts c s := by
  refine ⟨h.1, h.2.1, h.2.2.1, h.2.2.2, ?_⟩
  have e : (List.map (· / 192) [1]).eraseDups = [0] := rfl
  have k : s.sramFits 0 (fun n => if [0].contains n then corpus.ranges else []) = true :=
    (sramFits_eq hs.1 hs.2.1 hs.2.2.1 hs.2.2.2).trans sram_ok
  simp only [State.corpusFor, hc.1, hc.2.1, hc.2.2.1, e, List.all_cons, List.all_nil, hc.2.2.2, Bool.and_self, if_true, k]
theorem wit_CorpusProgramsStart_new :
    starts (progCmd 0) (withCorpus [progCmd 0]) ∧ (progCmd 0).flags = 0 ∧ (withCorpus [progCmd 0]).decksStatus (progCmd 0) = none :=
  ⟨starts_of (by decide +kernel) (by decide +kernel) ⟨fun _ => rfl, rfl, rfl, rfl⟩, by decide +kernel⟩
theorem wit_CorpusProgramsStart_new_fails :
    starts (progCmd 0) { withCorpus [progCmd 0] with deckOwner := [] } ∧ (progCmd 0).flags = 0 ∧
      ({ withCorpus [progCmd 0] with deckOwner := [] } : State).decksStatus (progCmd 0) = some stAccessDenied :=
  ⟨starts_of (by decide +kernel) (by decide +kernel) ⟨fun _ => rfl, rfl, rfl, rfl⟩, by decide +kernel⟩
theorem wit_CorpusProgramsStart_compact :
    starts (progCmd 1) (withCorpus [progCmd 1]) ∧ (progCmd 1).flags % 4 = 1 ∧ (withCorpus [progCmd 1]).corpus? (progCmd 1).part = some corpus ∧
      (((withCorpus [progCmd 1]).sources (progCmd 1)).mapM ((withCorpus [progCmd 1]).vectorOf corpus)).isSome = true ∧
      (withCorpus [progCmd 1]).decksStatus (progCmd 1) = none :=
  ⟨starts_of (by decide +kernel) (by decide +kernel) ⟨fun _ => rfl, rfl, rfl, rfl⟩, by decide +kernel⟩
theorem wit_CorpusProgramsStart_compact_fails :
    starts (progCmd 1) (hostAt 0x1000 [0, 4] (withCorpus [progCmd 1])) ∧ (progCmd 1).flags % 4 = 1 ∧
      ((hostAt 0x1000 [0, 4] (withCorpus [progCmd 1])).sources (progCmd 1)).mapM
        ((hostAt 0x1000 [0, 4] (withCorpus [progCmd 1])).vectorOf corpus) = none :=
  ⟨starts_of (by decide +kernel) (by decide +kernel) ⟨fun _ => rfl, rfl, rfl, rfl⟩, by decide +kernel⟩
theorem wit_CorpusProgramsStart_attach_fails :
    starts (progCmd 2) (withCorpus [progCmd 2]) ∧ (progCmd 2).flags % 4 = 2 ∧ (withCorpus [progCmd 2]).attachStatus (progCmd 2) = some stDeckState :=
  ⟨starts_of (by decide +kernel) (by decide +kernel) ⟨fun _ => rfl, rfl, rfl, rfl⟩, by decide +kernel⟩
theorem wit_CorpusProgramsStart_attach :
    let s := { withCorpus [progCmd 2] with cores := [(0, deck1Ready)] }
    starts (progCmd 2) s ∧ (progCmd 2).flags % 4 = 2 ∧ s.attachStatus (progCmd 2) = none :=
  ⟨starts_of (by decide +kernel) (by decide +kernel)
    ⟨fun n => by by_cases h : 0 = n <;> simp [State.core, sget, h, deck1Ready], rfl, rfl, rfl⟩, by decide +kernel⟩
def installCmd : Cmd := { hostCmd 1 0x22 0 0 [(0x18, 8, 0x1000), (0x20, 8, 0x2000), (0x30, 4, 1)] with decks := [1] }
def loadCmd : Cmd := hostCmd 1 0x30 0 0 [(0x18, 8, 0x1000), (0x20, 4, 512)]
theorem wit_InstallsAndPlanLoads :
    (let s := withCorpus [installCmd]
     s.admitted 1 0x22 = some installCmd ∧ installCmd.flag 0 = false ∧ installCmd.phase = .waiting ∧ s.mayStart installCmd = true ∧
       (s.port installCmd.port).dmaOn = true ∧ s.decksStatus installCmd = none ∧
       ({ s with cores := [(0, deck1Ready)] } : State).decksStatus installCmd = some stDeckState) ∧
    (let s := { withCorpus [running installCmd] with cores := [(0, deck1Ready)] }
     s.admitted 1 0x22 = some (running installCmd) ∧ (running installCmd).flag 0 = false ∧ (running installCmd).phase = .running ∧
       (running installCmd).fail = none ∧ s.allReady (running installCmd).decks = true ∧
       (withCorpus [running installCmd]).allReady (running installCmd).decks = false) ∧
    (let s := hostAt 0x100C [0, 2] (served [loadCmd])
     s.admitted 1 0x30 = some loadCmd ∧ (s.port loadCmd.port).dmaOn = true ∧ (s.hubStart loadCmd).isSome = true ∧
       loadCmd.par 0x20 4 = (s.port 0).host.num (loadCmd.par 0x18 8 + 0xC) 4 ∧ loadCmd.par 0x20 4 ≤ 0x1000000) := by decide +kernel
/-! ### A plan container that passes every check (R227, R228, R235) -/

/-- Header and directory: class 6, task 0, region 0, three sections, 1,536 B, core 0, 256 B of staging, a queue of 1 and 1 KiB of instructions. -/
def goodHead : List Byte :=
  toLe 4 0x4E414C50 ++ toLe 2 1 ++ [6, 0, 0, 1, 3, 0] ++ toLe 4 1536 ++ toLe 32 1 ++ List.replicate 20 0 ++ toLe 4 256 ++ [1, 0, 1] ++
    List.replicate 53 0 ++ (toLe 4 1 ++ toLe 4 512 ++ toLe 8 256) ++ (toLe 4 2 ++ toLe 4 768 ++ toLe 8 256) ++
    (toLe 4 6 ++ toLe 4 1024 ++ toLe 8 512) ++ List.replicate 304 0
/-- The sections: two core maps without a blob, and SLOTREQ. -/
def goodTail : List Byte := List.replicate 512 0xFF ++ List.replicate 512 0
def goodDigest : List Byte := shake256 32 (goodHead ++ List.replicate 32 0 ++ goodTail)
def good : List Byte := goodHead ++ goodDigest ++ goodTail

theorem toLe_length (k n : Nat) : (toLe k n).length = k := by
  induction k generalizing n with
  | zero => rfl
  | succ k ih => simp [toLe, ih]
theorem goodDigest_length : goodDigest.length = 32 := toLe_length 32 _
theorem goodHead_length : goodHead.length = 480 := by decide +kernel
theorem good_length : good.length = 1536 := by
  have h : goodTail.length = 1024 := by decide +kernel
  simp [good, goodHead_length, goodDigest_length, h]
theorem good_digest :
    shake256 32 (good.take 0x1E0 ++ List.replicate 32 0 ++ good.drop 0x200) = planDigest good := by
  have a : good.take 0x1E0 = goodHead := by
    rw [good, List.append_assoc, List.take_left' goodHead_length]
  have b : good.drop 0x1E0 = goodDigest ++ goodTail := by
    rw [good, List.append_assoc, List.drop_left' goodHead_length]
  have c : good.drop 0x200 = goodTail := by
    rw [good, List.drop_left' (by simp [goodHead_length, goodDigest_length])]
  rw [planDigest, a, b, c, List.take_left' goodDigest_length]; rfl
theorem read_write (a : Nat) (bs : List Byte) : (Mem.write [] a bs).read a bs.length = bs := by
  apply List.ext_getElem
  · simp [Mem.read, tabulate]
  · intro i h1 h2
    simp [Mem.read, tabulate, Mem.byte_write, h2]
def goodCmd : Cmd := hostCmd 1 0x30 0 0 [(0x18, 8, 0x1000), (0x20, 4, 1536)]
def loading : State := hostAt 0x1000 good (served [goodCmd])
theorem good_dcms : planHasDcms good = false := by decide +kernel
theorem good_1 : headerOk good = true := by decide +kernel
theorem good_2 : sectionsOk good = true := by decide +kernel
theorem good_3 : loading.regionsOk good = true := by decide +kernel
theorem good_4 : handlesOk good = true := by decide +kernel
theorem good_5 : loading.reservesOk good = true := by decide +kernel
theorem good_6 : barriersOk good = true := by decide +kernel
theorem good_7 : loading.planConflict good 0 = false := by decide +kernel
theorem good_8 : loading.deckmapState good = true := by decide +kernel
theorem good_9 : loading.deckmapOwned good 0 = true := by decide +kernel
theorem good_free : loading.stageFree 1536 = some 0 := by decide +kernel
theorem good_stage : loading.stageWindow good 0 = some 0 := by decide +kernel
theorem sramFits_none {s : State} (p : Nat) (h : s.cores = []) (k : s.corpora = []) : s.sramFits p (fun _ => []) = true := by
  have c : ∀ n, s.core n = Core.init := fun n => by simp [State.core, sget, h]
  simp [State.sramFits, State.sramUsed, c, Core.init, Task.init, State.corpus?, mget, k]
theorem good_sram_none : (served []).sramFits 0 (fun _ => []) = true := sramFits_none 0 rfl rfl
theorem good_sram (e : Nat → List (Nat × Nat)) (he : ∀ n, e n = []) : loading.sramFits 0 e = true := by
  have : e = fun _ => [] := funext he
  rw [this]; exact (sramFits_eq (s := loading) (t := served []) (fun n => congrArg (fun c => (sget Core.init c n).tasks) (rfl : loading.cores = (served []).cores)) rfl rfl rfl).trans good_sram_none
theorem good_checks : loading.planCheck good 0 0 = none := by
  have hb := good_sram (fun c => if Nat.testBit (planMask good) c ∧ planHasDcms good = true then
    [(planDcmLo good, planDcmHi good + 1 - planDcmLo good)] else []) (by intro n; simp [good_dcms])
  rw [State.planCheck, if_neg (fun h => h good_digest)]
  simp only [good_1, good_2, good_3, good_4, good_5, good_6, good_7, good_8, good_9, good_stage, hb, reduceCtorEq, if_false,
    Option.isNone_some, Bool.false_eq_true, or_self]
theorem good_checks_at (now : Nat) : ((loading.advanceTo now).stageContainer 0 good).planCheck good 0 0 = none := good_checks
theorem hubStart_of {s : State} {c : Cmd} (h : (s.advanceTo s.nextBoundary).mayStart c = true) :
    s.hubStart c = some (s.advanceTo s.nextBoundary) := by simp [State.hubStart, h]
theorem good_host : (loading.port 0).host.read 0x1000 1536 = good := by
  have h := read_write 0x1000 good
  rw [good_length] at h
  have e : (loading.port 0).host = Mem.write [] 0x1000 good := by simp only [loading, hostAt, State.port, List.getD_cons_zero]
  rw [e, h]
theorem good_stage_at (now : Nat) : ((loading.advanceTo now).stageContainer 0 good).stageWindow good 0 = some 0 := by
  have h : ((loading.advanceTo now).stageContainer 0 good).stageWindows = loading.stageWindows := rfl
  rw [State.stageWindow, h]
  exact good_stage
theorem wit_InstallsAndPlanLoads_loads :
    let s' := loading.advanceTo loading.nextBoundary
    loading.admitted 1 0x30 = some goodCmd ∧ (loading.port goodCmd.port).dmaOn = true ∧ loading.hubStart goodCmd = some s' ∧
      (loading.port goodCmd.port).host.read 0x1000 1536 = good ∧ s'.stageFree 1536 = some 0 ∧
      (s'.stageContainer 0 good).planCheck good goodCmd.part 0 = none ∧ (s'.stageContainer 0 good).freeStream = some 0 ∧
      (s'.stageContainer 0 good).stageWindow good 0 = some 0 :=
  ⟨by decide +kernel, by decide +kernel, hubStart_of (by decide +kernel), good_host, good_free, good_checks_at _,
    by decide +kernel, good_stage_at _⟩
theorem wit_InstallsAndPlanLoads_fails : loading.planCheck [] 0 0 = some (stPlanInvalid, 1) := by decide +kernel
/-- No staging is free where plan 0 has the whole of it as its window. -/
theorem wit_InstallsAndPlanLoads_full :
    ({ loading with plans := [(0, { plan 6 0 with image := List.replicate 0x44 0 ++ toLe 4 0x4000000 })] } : State).stageFree 1536 = none := by
  decide +kernel
/-! ## Tile commands -/

/-- A valid handle entry of R229: offset in units of 256 B, rows, width and format. -/
def hnd (off rows width fmt : Nat) : DWord := BitVec.ofNat 64 (2 ^ 63 + 2 ^ 57 * fmt + 2 ^ 33 * width + 2 ^ 26 * rows + 2 ^ 11 + off)
/-- A command word of R243: opcode, D, A, no B and X, and bits 127:64. -/
def word (op d a rest : Nat) : CmdWord := BitVec.ofNat 128 (op + 2 ^ 16 * d + 2 ^ 24 * a + 2 ^ 32 * 0xFFFF + 2 ^ 64 * rest)
/-- Task 0 with w at its head. Handles: 0 and 1 one INT8 row of 256 at bytes 0 and 256, 2 and 3 one FP32 row of 64 at bytes 512 and 768. -/
def tileTask (w : CmdWord) : Task :=
  { Task.init with
    valid := true, klass := 6, plan := 0, bound := 0x10000, dcmLo := 0, dcmHi := 127, stageLen := 0x1000, queue := [w], qdepth := 4,
    tokens := List.replicate 64 0, handles := [hnd 0 1 256 0, hnd 1 1 256 0, hnd 2 1 64 9, hnd 3 1 64 9] }
/-- Core 0 holds that task, and core 1 the same task without a command, in a run of class plan. -/
def tiles (t : Task) : State :=
  inRun 6 { up with cores := [(0, coreWith t), (1, coreWith { t with queue := [] })], plans := [(0, plan 6 0)] }
def head (w : CmdWord) : State := tiles (tileTask w)
def nopW : CmdWord := word 0x00 0xFF 0xFF 0
def nopRow : TileRow := ⟨0x00, 0, 0, .clean, nopCheck, nopRun⟩
def fillRow : TileRow := ⟨0x01, 0, 0, .clean, fillCheck, fillRun⟩
theorem tileRow_nop : tileRow (.nop 0 0 .clean) = some nopRow := rfl
theorem tileRow_fill : tileRow (.fill 0 0 .clean) = some fillRow := rfl
theorem wit_TileHeadsWaitOrDiscard :
    up.issueHead 0 0 = none ∧ ((head nopW).issueHead 0 0 = some nopW ∧ (head nopW).injection 0 = none ∧ (head nopW).injectionHub = none) ∧
    (let w := word 0x8000 0xFF 0xFF (2 ^ 48)
     (head w).issueHead 0 0 = some w ∧ (tileTask w).err.discarding = false ∧ fenceMet (tileTask w) w = false) ∧
    ((tileTask nopW).err.discarding = false ∧ cwReserved (cwOpcode nopW) = false ∧ cwOpcode nopW ≠ fillRow.op) ∧
    (let t := { tileTask nopW with err := { ErrRec.init with discarding := true } }
     (tiles t).issueHead 0 0 = some nopW ∧ t.err.discarding = true ∧ cwOpcode nopW ≠ fillRow.op ∧ cwOpcode nopW = nopRow.op ∧ nopRow.op ≠ 0x51 ∧
       nopRow.op ≠ 0x57 ∧ nopRow.op ≠ 0x07 ∧ nopRow.op ≠ 0x52) ∧
    (let w := word 0x58 0xFF 0xFF 0
     (head w).issueHead 0 0 = some w ∧ fenceMet (tileTask w) w = true ∧ cwReserved (cwOpcode w) = true) := by decide +kernel
theorem headIs_nop : (head nopW).headIs 0 0 nopW := by unfold State.headIs; decide +kernel
def fillW : CmdWord := word 0x01 0 1 0
theorem headIs_fill : (head fillW).headIs 0 0 fillW := by unfold State.headIs; decide +kernel
/-- MM of one 8-bit vector of 64 elements over 32 columns, and the same with no cycle left in the run. -/
def mmW : CmdWord := word (0x10 + 2 ^ 48) 2 0 (7 * 2 ^ 8)
def mmRow : TileRow := ⟨0x10, 0, 0, .clean, mmCheck, mmRun⟩
theorem tileRow_mm : tileRow (.mm 0 0 .clean) = some mmRow := rfl
def noRoom : State :=
  { head mmW with regions := [{ Region.init with run := some { runOf 6 0 with budget := 0 } }, Region.init, Region.init, Region.init] }
theorem headIs_noRoom : noRoom.headIs 0 0 mmW := by unfold State.headIs; decide +kernel
theorem wit_TileCommandsComplete :
    (cwOpcode nopW = nopRow.op ∧ nopRow.check ((head nopW).ctxOf 0 0 nopW .clean) = none ∧
      (nopRow.run ((head nopW).ctxOf 0 0 nopW .clean)).stay = false ∧
      (head nopW).roomFor ((head nopW).ctxOf 0 0 nopW .clean) (nopRow.run ((head nopW).ctxOf 0 0 nopW .clean)) = true) ∧
    (cwOpcode mmW = mmRow.op ∧ mmRow.check (noRoom.ctxOf 0 0 mmW .clean) = none ∧
      (mmRow.run (noRoom.ctxOf 0 0 mmW .clean)).stay = false ∧
      noRoom.roomFor (noRoom.ctxOf 0 0 mmW .clean) (mmRow.run (noRoom.ctxOf 0 0 mmW .clean)) = false) ∧
    (let w := word 0x50 0xFF 0xFF 1
     let s := head w
     s.issueHead 0 0 = some w ∧ waitbeatCheck (s.ctxOf 0 0 w .clean) = none ∧ (waitbeatRun (s.ctxOf 0 0 w .clean)).stay = true) ∧
    fillRow.check ((head fillW).ctxOf 0 0 fillW .spad) =
      some { CErr.plain stSpadUncorrectable with fx := [.fault 7 ((head fillW).physInst 0) 1] } := by decide +kernel
theorem wit_TileFinishCounts :
    let x := (head mmW).ctxOf 0 0 mmW .clean
    (mmRun x).fx = [] ∧ remoteToken x = [] ∧ x.tm.icc = 0 ∧ 0 < (mmRun x).core.tasks.length ∧ (mmRun x).hold.isSome = true ∧ 63 < ((mmRun x).core.task 0).tokens.length := by
  decide +kernel
theorem wit_TileFailureIsRecorded :
    (let e := CErr.plain stAccessDenied
     replayStatus e.status = false ∧ e.status ≠ stFormatError ∧ e.status ≠ stBoundFault ∧ e.fx = [] ∧
       remoteToken ((head nopW).ctxOf 0 0 nopW .clean) = [] ∧ (head nopW).run? ((head nopW).core 0 |>.task 0).plan = none ∧
       ((head nopW).core 0 |>.task 0).err.valid = false) ∧
    (let t := { tileTask nopW with err := { ErrRec.init with valid := true } }
     (tiles t).issueHead 0 0 = some nopW ∧ t.err.discarding = false ∧ ((tiles t).core 0 |>.task 0).err.valid = true) ∧
    (let w := word 0x25 0xFF 0xFF 0
     (head w).issueHead 0 0 = some w ∧ cwOpcode w = 0x25) := by decide +kernel
def quantW : CmdWord := word 0x31 2 3 0
theorem tileRow_quant : tileRow (.quant 0 0 .clean) = some (spadRow 0x31 0 0 .clean quantCheck quantRun) := rfl
theorem headIs_quant : (head quantW).headIs 0 0 quantW := by unfold State.headIs; decide +kernel
theorem wit_DrainRowAndTrainingFrame :
    let r := spadRow 0x31 0 0 .clean quantCheck quantRun
    let x := (head quantW).ctxOf 0 0 quantW .clean
    r.op ∈ spadOps ∧ r.chk = .clean ∧ cwOpcode quantW = r.op ∧ r.check x = none ∧ (head quantW).roomFor x (r.run x) = true ∧
      ((head quantW).core 0 |>.task 0).klass ≠ 4 := by decide +kernel
/-- What a clause asks of a command word: the head, its opcode, its check and room for it. -/
def ready (w : CmdWord) (op : Nat) (check : Ctx → Option CErr) (run : Ctx → Out) (s : State) : Bool :=
  decide (s.issueHead 0 0 = some w) && !((s.core 0).task 0).err.discarding && fenceMet ((s.core 0).task 0) w && (s.injection 0).isNone &&
    s.injectionHub.isNone && decide (cwOpcode w = op) && decide (check (s.ctxOf 0 0 w .clean) = none) &&
    s.roomFor (s.ctxOf 0 0 w .clean) (run (s.ctxOf 0 0 w .clean)) && s.ownsRun 0 ((s.core 0).task 0) && decide ((s.core 0).late = []) &&
    !(s.core 0).anyLost && decide ((s.core (cwDestCore w)).late = [])
theorem wit_CopiesMoveTheirBytes :
    ready nopW 0x00 nopCheck nopRun (head nopW) ∧ ready fillW 0x01 fillCheck fillRun (head fillW) ∧
    (let w := word 0x02 0 1 0
     ready w 0x02 copywCheck copywRun (head w)) ∧
    (let w := word 0x03 0 0xFF (2 ^ 27 * 127 + 2 ^ 17 * 1023)
     ready w 0x03 dcmRdCheck dcmRdRun (head w) ∧ cwFlag12 w = false ∧ fld w 80 73 = 0 ∧ ((head w).core 0 |>.dcmInfo 127).lost = false) ∧
    (let w := word 0x04 0xFF 0 (2 ^ 27 * 127 + 2 ^ 17 * 1023)
     ready w 0x04 dcmWrCheck dcmWrRun (head w) ∧ cwFlag12 w = false ∧ fld w 80 73 = 0) ∧
    (let w := word 0x07 0 1 (2 ^ 28)
     ready w 0x07 putCheck putRun (head w) ∧ cwDestCore w = 1 ∧ cwRemtok w = false) ∧
    (let w := word 0x52 0 1 (2 ^ 28)
     ready w 0x52 putCheck putRun (head w) ∧ cwDestCore w = 1 ∧ cwRemtok w = false) ∧
    (let w := word 0x08 0 0xFF 120
     ready w 0x08 stgInCheck stgInRun (head w) ∧ cwFlag12 w = false) ∧
    (let w := word 0x09 0xFF 0 119
     ready w 0x09 stgOutCheck stgOutRun (head w) ∧ cwFlag12 w = false) := by decide +kernel
theorem wit_SynchronisationActs :
    (let w := word 0x50 0xFF 0xFF 0
     ready w 0x50 waitbeatCheck waitbeatRun (head w) ∧ waitTarget ((head w).ctxOf 0 0 w .clean) ≤ (head w).beat) ∧
    (let w := word 0x50 0xFF 0xFF 1
     (head w).issueHead 0 0 = some w ∧ waitbeatCheck ((head w).ctxOf 0 0 w .clean) = none ∧ (head w).beat < waitTarget ((head w).ctxOf 0 0 w .clean)) ∧
    (let w := word 0x51 0xFF 0xFF 0
     ready w 0x51 barrierCheck barrierRun (head w) ∧ (head w).plan? 0 = some (plan 6 0) ∧
       1 < 256 ∧ Nat.testBit (barrierMask (plan 6 0).image (barrierNumber ((head w).ctxOf 0 0 w .clean))) 1 = true ∧
       1 ∉ sget [] (head w).barriers (16 * 0 + barrierNumber ((head w).ctxOf 0 0 w .clean)) ∧ 1 ≠ 0) ∧
    (let w := word 0x54 0xFF 0xFF 0
     ready w 0x54 tokenCheck tokenRun (head w) ∧ ((head w).ctxOf 0 0 w .clean).earlierEnded = true) ∧
    (let w := word 0x55 3 0xFF 0xFFF8
     ready w 0x55 hsetCheck hsetRun (head w)) ∧
    (let w := word 0x56 0xFF 0xFF 0
     ready w 0x56 phaseCheck phaseRun (head w)) ∧
    (let w := word 0x57 0xFF 0 (2 ^ 35)
     ready w 0x57 doneCheck doneRun (head w) ∧ ((head w).ctxOf 0 0 w .clean).earlierEnded = true ∧ bitAt w 99 = true ∧ cwA w ≠ 0xFF) ∧
    (let w := word 0x57 0xFF 0xFF 0
     ready w 0x57 doneCheck doneRun (head w) ∧ bitAt w 99 = false) := by decide +kernel

/-! ## Decks -/

/-- Core 0 with some decks, in a run of a class. -/
def decksIn (k : Nat) (ds : List (Nat × Deck)) : State := inRun k { up with cores := [(0, { Core.init with decks := ds })] }
def progJob : ProgJob :=
  { task := none, cmd := some 1, nextWl := 0, data := [List.replicate 1024 1], words := [], source := none, crc := none }
def progDeck (pages : Nat) : Deck :=
  { Deck.init with pages := pages, state := .programming, holdsGrant := true, job := some progJob }
def progState (pages : Nat) : State := { decksIn 5 [(0, progDeck pages)] with cmds := [hostCmd 1 0x60 0 0 []] }
theorem wit_PagesProgramAndErase_program :
    ∀ pages ∈ [0, 17407], let s := progState pages
      s.coreUp 0 = true ∧ s.power.dip = none ∧ (s.deck 0).state = .programming ∧ (s.deck 0).holdsGrant = true ∧
        (s.deck 0).job = some progJob ∧ s.jobLine 0 0 (s.deck 0) progJob = some (List.replicate 1024 1) ∧
        (s.pumpEnd 0 0 pageNs).isSome = true ∧ (s.region 0).run = some (runOf 5 0) ∧ s.deck 0 = progDeck pages := by decide +kernel
/-- No cell of an erased deck lies above a target. -/
theorem overshoots_erased (pages : Nat) (line : List Byte) : (progDeck pages).overshoots line = false := by
  have h0 : ∀ b : Byte, cellAbove 0 b = false := by
    intro b
    simp only [cellAbove, List.any_eq_false, List.mem_range, decide_eq_true_eq, Nat.not_lt]
    intro k _
    simp [fld, bitsOf]
  have hz : ∀ b ∈ (progDeck pages).pageCells, b = 0 := by
    intro b h
    simp only [Deck.pageCells] at h
    split at h <;> simp only [Mem.read, tabulate, List.mem_map] at h <;> obtain ⟨_, _, rfl⟩ := h <;> rfl
  simp only [Deck.overshoots, List.any_eq_false]
  intro e h
  rw [hz e.1 (List.of_mem_zip h).1, h0]
  exact Bool.false_ne_true
def eraseDeck (rec : Bool) (n : Nat) : Deck := { Deck.init with state := .erasing, holdsGrant := true, pulses := n, recorded := rec }
/-- That deck in a maintenance run of a budget in cycles. -/
def erasing (rec : Bool) (n budget : Nat) : State :=
  { decksIn 7 [(0, eraseDeck rec n)] with
    regions := [{ Region.init with run := some { runOf 7 0 with budget := budget } }, Region.init, Region.init, Region.init] }
/-- Room for the record alone, for record and pulse, and for a pulse: the first, a middle one and the last of the 400. -/
theorem wit_PagesProgramAndErase_erase :
    ∀ e ∈ [(false, 400, 12000), (false, 400, 100000), (true, 399, 100000), (true, 1, 100000)], let s := erasing e.1 e.2.1 e.2.2
      s.coreUp 0 = true ∧ s.power.dip = none ∧ (s.deck 0).state = .erasing ∧ (s.deck 0).holdsGrant = true ∧
        (s.region 0).run = some { runOf 7 0 with budget := e.2.2 } ∧ s.eraseRun 0 { runOf 7 0 with budget := e.2.2 } = true ∧
        (s.deck 0).recorded = e.1 ∧ (s.deck 0).pulses = e.2.1 ∧ (s.pumpEnd 0 0 (if e.1 then pulseNs else pageNs)).isSome = true ∧
        ((s.pumpEnd 0 0 (pageNs + pulseNs)).isSome = decide (e.2.2 = 100000)) ∧ (s.deck 0).eraseToken = none ∧
        (s.deck 0).wear + 1 ≠ s.wearWarn ∧ (s.deck 0).wear < 3000 ∧ (s.core 0).nextRefresh 0 = none := by decide +kernel
def granted : State :=
  { up with cores := (List.range 5).map fun c => (c, { Core.init with decks := (List.range 216).map fun k => (k, eraseDeck true 1) }) }
theorem wit_PagesProgramAndErase_grants :
    (let s := decksIn 7 [(0, { eraseDeck false 400 with holdsGrant := false, queuedAt := some 0 })]
     s.serving = true ∧ s.grants.length < 1024 ∧ s.nextGrant = some 0) ∧
    (up.serving = true ∧ up.grants.length < 1024 ∧ up.nextGrant = none ∧ up.beat % 2 ^ 20 = 0) ∧
    granted.serving = true ∧ 1024 ≤ granted.grants.length := by decide +kernel
def cleanFind (drift : Nat) : VerifyFind :=
  { drift := drift, corrected := 1, worstRow := 4, uncorrectable := false, failedLines := [], deckFails := false }
def swapping : State :=
  decksIn 7 [(0, { Deck.init with state := .ready }),
    (8, { Deck.init with copyDone := true, job := some { task := none, cmd := none, nextWl := 0, data := [], words := [], source := some 0, crc := none } })]
/-- RETRIM_EN is set in core 0, and a maintenance run has a budget. -/
def retrimming (budget : Nat) : State :=
  { up with cores := [(0, { Core.init with regs := [(cAfeCtrl, 2)] })],
            regions := [{ Region.init with run := some { runOf 7 0 with budget := budget } }, Region.init, Region.init, Region.init] }
theorem wit_MaintenanceWork :
    (let s := decksIn 7 [(0, { Deck.init with state := .ready })]
     s.coreUp 0 = true ∧ s.inMaintenance 0 = true ∧ (s.deck 0).state = .ready ∧ (s.deck 0).refreshDue = false ∧ s.verifyDue (s.deck 0) = true ∧
       s.verifyDue { s.deck 0 with verifiedAt := some 0 } = false ∧ min 63 (cleanFind 16).drift ≤ s.driftWindow ∧ ¬min 63 (cleanFind 17).drift ≤ s.driftWindow ∧ (cleanFind 16).worstRow ≤ 4) ∧
    (swapping.coreUp 0 = true ∧ (swapping.core 0).refreshInto 0 = some 8 ∧ ((swapping.core 0).deck 8).copyDone = true ∧
      (swapping.deck 0).standIn = false) ∧
    (let s := decksIn 7 []
     s.serving = true ∧ s.maintains 0 = true ∧ s.grants.length < 1024 ∧ 0 < s.config.compactions.length ∧ 0 < s.config.cfgStacks.length ∧
       (s.liveErases.cfgStacks.getD 0 CfgStack.init).canCompact = none) ∧
    (let x := { CfgStack.init with used := [(0, 1024)], records := [(0, { data := .cert [], seq := 1, digest := [], deck := 0, line := 0, lines := 1 })] }
     let s := { decksIn 7 [] with config := { Config.init with cfgStacks := [x, CfgStack.init, CfgStack.init, CfgStack.init] } }
     s.serving = true ∧ s.maintains 0 = true ∧ (s.liveErases.cfgStacks.getD 0 CfgStack.init).canCompact = some 0 ∧
       (s.liveErases.cfgStacks.getD 0 CfgStack.init).waiting = [] ∧ (s.liveErases.cfgStacks.getD 0 CfgStack.init).records ≠ []) ∧
    (∀ m ∈ [retrimCycles, 10, 0], let s := retrimming m
     s.coreUp 0 = true ∧ s.maintains 0 = true ∧ s.retrimLeft 0 0 = some retrimCycles ∧
       (s.region 0).run = some { runOf 7 0 with budget := m } ∧ 0 < retrimCycles ∧ retrimCycles ≤ retrimCycles ∧ 10 < retrimCycles ∧
       m - max (s.runElapsed 0 { runOf 7 0 with budget := m }) (sget 0 (s.core 0).busy 0) = m) ∧
    (retrimming 0).retrimLeft 0 1 ≠ none ∧ ({ up with cores := [(0, { Core.init with regs := [(cAfeCtrl, 0)] })] } : State).retrimLeft 0 0 = none ∧
    (let b : Rebuild := { lost := 0, target := 127, cursor := 0 }
     let s := inRun 7 { up with cores := [(0, { Core.init with rebuild := some b })] }
     s.coreUp 0 = true ∧ (s.core 0).rebuild = some b ∧ b.lost ≠ b.target ∧ dcmTier b.lost < 4 ∧ (s.core 0).reserves.length = 4) ∧
    up.dead = false := by decide +kernel
theorem wit_DeckOwnershipChanges :
    (up.manageable = true ∧ 192 * up.nCores - 1 < 192 * up.nCores ∧ l3.manageable = false) ∧
    (let s : State := { up with deckOwner := [(0, 4)], ownerPending := [(0, 4)] }
     mget s.ownerPending 0 = some 4 ∧ s.serving = true ∧ s.deckInFlight (s.deckIdx 0) 0 = false ∧ newReader (s.owner 0) 4 = false ∧
       (s.deck (s.deckIdx 0)).state ≠ .programming) ∧
    (let s : State := { decksIn 7 [(0, { Deck.init with state := .ready })] with ownerPending := [(0, 4)] }
     mget s.ownerPending 0 = some 4 ∧ s.deckInFlight (s.deckIdx 0) 0 = false ∧ newReader (s.owner 0) 4 = true ∧ (s.deck (s.deckIdx 0)).state = .ready ∧
       (s.deck (s.deckIdx 0)).wear < 3000) ∧
    (let s : State := { up with ownerPending := [(0, 4)], cmds := [{ hostCmd 1 0x60 0 0 [] with decks := [0] }] }
     mget s.ownerPending 0 = some 4 ∧ s.deckInFlight (s.deckIdx 0) 0 = true) ∧
    swf Core.init swapping.cores = true := by decide +kernel

/-! ## Faults, repair and tests -/

def event (b : Nat) (parts : List Nat) : State :=
  { atBeat b with faults := [{ source := 12, inst := 0, beats := [0], pending := some 0, severe := false, parts := parts }] }
theorem wit_FaultsEscalateAndAcknowledge :
    (((event 129 [0]).faultInst 12 0).pending = some 0 ∧ (event 129 [0]).dead = false ∧ 0 + 1 + (event 129 [0]).ackTimer ≤ (event 129 [0]).beat ∧
      (event 128 [0]).beat < 0 + 1 + (event 128 [0]).ackTimer) ∧
    ((event 1 [1]).portPart 0 = some 0 ∧ 0 < (event 1 [0]).ports.length ∧
      (∃ f ∈ (event 1 [0]).faults, f.parts.contains 0 = true) ∧ ∃ f ∈ (event 1 [1]).faults, f.parts.contains 0 = false ∧ f.beats ≠ []) ∧
    ((∃ f ∈ (event 1 [0]).faults, bitAt (0x1000 : Word) f.source = true) ∧ ∃ f ∈ (event 1 [0]).faults, bitAt (0x800 : Word) f.source = false) ∧
    (up.serving = true ∧ (up.physOf 255).isSome = true) ∧
    (up.hopPresent 4 = true ∧ up.hopPresent 5 = false ∧ ({ up with grade := .szt320 } : State).hopPresent 2 = false) := by decide +kernel
theorem wit_CoresRetireAndUnitsReplay :
    (let s : State := { up with retireDue := [(0, 9)] }
     s.serving = true ∧ mget s.retireDue 0 = some 9 ∧ s.unitStart 0 = true ∧ s.physOf 0 = some 0 ∧ s.freeSpare 0 = some 64 ∧ (64 : Nat) ≠ 0) ∧
    mget up.retireDue 0 = none ∧
    (let s : State := { up with adoptions := [(0, 64, 9)] }
     s.adoptions.find? (fun a => a.1 == 0) = some (0, 64, 9) ∧ s.plansOn 0 = []) ∧
    (∀ stepped ∈ [0, 1], let r := { runRec none with broken := true, step := 1 }
     let s : State := { planned 6 stepped [] with runs := [(0, r)] }
     s.serving = true ∧ s.plan? 0 = some (plan 6 stepped) ∧ s.run? 0 = some r ∧ r.broken = true ∧ r.fail = none ∧ r.replayed = false ∧
       s.handled (plan 6 stepped).image = true ∧ ∀ k ∈ planCores (plan 6 stepped).image, planTask (plan 6 stepped).image < (s.core k).tasks.length) := by
  decide +kernel
theorem wit_InjectionAndAliveSignal :
    (up.manageable = true ∧ bitAt (up.hubWord rInjLock) 0 = false ∧ bitAt (0x80000001 : Word) 31 = true ∧ fld (0x80000001 : Word) 15 0 ≠ 0 ∧
      bitAt (1 : Word) 31 = false) ∧
    bitAt ((up.setHub rInjLock 1).hubWord rInjLock) 0 = true ∧ up.serving = true := by decide +kernel
/-- DCM tests of the block of region 0: physical core 67, which serves no core, and physical core 0. -/
def goSpare : Word := 0x82180000
def goUsed : Word := 0x80000000
theorem wit_SelfTestsRun :
    (up.manageable = true ∧ bitAt (up.hubWord rSelftestStatus) 31 = false ∧ bitAt goSpare 31 = true ∧ up.selftestFree goSpare = true ∧
      bitAt goUsed 31 = true ∧ up.selftestFree goUsed = false ∧ bitAt ((up.setHub rSelftestStatus 0x80000000).hubWord rSelftestStatus) 31 = true) ∧
    (∀ n ∈ [0, 126, 127], let s := (up.setHub rSelftestCtrl goSpare).setHub rSelftestStatus (BitVec.ofNat 32 (0x80000000 + n))
     s.serving = true ∧ s.onDemand 0 67 0 = true ∧ fld (s.hubWord rSelftestStatus) 15 0 = n ∧ (n + 1 < selftestSlices 0 ↔ n ≠ 127)) ∧
    (∀ range ∈ [0, 74015], let s : State := { inRun 7 (up.setHub rScreeCtrl 1) with phys := [(0, { Phys.init with range := range })] }
     s.serving = true ∧ bitAt (s.hubWord rScreeCtrl) 0 = true ∧ (s.region 0).run = some (runOf 7 0) ∧
       s.runElapsed 0 (runOf 7 0) + 2000 ≤ (runOf 7 0).budget ∧ (s.physCore (68 * 0 + 0)).state = .good ∧
       (s.physCore (68 * 0 + 0)).walkUntil ≤ s.time.now ∧
       s.screeWaits 0 ((s.physCore 0).range % screeRanges (s.serves 0).isSome) = false ∧
       ((s.physCore 0).range % screeRanges (s.serves 0).isSome + 1 = screeRanges (s.serves 0).isSome ↔ range = 74015)) := by decide +kernel

/-! ## The sequencer -/

/-- Core 0 whose sequencer runs task 0 from instruction memory m. -/
def seqState (m : Mem) (t : Task) : State :=
  inRun 6 { up with cores := [(0, { coreWith t with seqOn := true, imem := m })], plans := [(0, plan 6 0)] }
def seqTask0 : Task := { tileTask nopW with seq := .running, imemLen := 1, xs := List.replicate 32 0 }
/-- ADDI x1, x0, 5. -/
def addiMem : Mem := Mem.write [] 0 (toLe 4 0x00500093)
theorem wit_SequencerRuns :
    (let s := seqState addiMem seqTask0
     s.seqActive 0 = true ∧ (s.core 0).seqTask = 0 ∧ seqTask0.seq = .running ∧ 0 < (s.core 0).tasks.length ∧
       (s.core 0).rvFetch seqTask0 = (.opImm false 0 false 1 0 5, 4) ∧
       s.rvExec 0 0 4 seqTask0 (s.core 0).scratch (.opImm false 0 false 1 0 5) = some ({ seqTask0 with pc := 4 }.setX 1 5, (s.core 0).scratch, none) ∧
       isLoad (.opImm false 0 false 1 0 5) = false ∧ rvWrites 0xB02 (.opImm false 0 false 1 0 5) = false) ∧
    (let s := seqState [] seqTask0
     s.seqActive 0 = true ∧ s.rvExec 0 0 ((s.core 0).rvFetch seqTask0).2 seqTask0 (s.core 0).scratch ((s.core 0).rvFetch seqTask0).1 = none) ∧
    (seqState [] { seqTask0 with seq := .wfi }).seqActive 0 = true ∧
    (0 < 31 ∧ 31 < seqTask0.xs.length) ∧
    (seqTask0.queue.length < seqTask0.qdepth ∧ (let t := { seqTask0 with queue := List.replicate 4 nopW }
      (seqState addiMem t).seqActive 0 = true ∧ t.qdepth ≤ t.queue.length)) := by decide +kernel
theorem wit_NarrowElementsArePacked :
    (4 * [15, 1, 8].length ≤ 8 * 2 ∧ (∀ c ∈ [15, 1, 8], c < 2 ^ 4) ∧ 6 * [63, 1, 2, 3].length ≤ 8 * 3 ∧ (∀ c ∈ [63, 1, 2, 3], c < 2 ^ 6)) ∧
    fmtBits 1 = 4 ∧ 511 < fmtCap 1 ∧ fmtBits 5 = 6 ∧ 319 < fmtCap 5 := by decide

/-! ## Management -/

def fused : State := { up with fuses := { Fuses.init with keyDigests := [[1], [2], [], []] } }
theorem wit_KeyRevokeIsPermanent :
    fused.manageable = true ∧ fused.fuses.revoked.length = 4 ∧ 0 = fused.boot.keyIndex ∧ fused.fuses.keyDigests.getD 3 [] = [] ∧
      1 ≠ fused.boot.keyIndex ∧ fused.fuses.keyDigests.getD 1 [] ≠ [] ∧
      (let u := wait { fused with fuses := { fused.fuses with revoked := [false, true, false, false] } } .status
       u.fuses.revoked.getD 1 false = true ∧ ∃ v, step u = .next v) :=
  ⟨by decide, by decide, by decide, by decide, by decide, by decide, by decide, _, rfl⟩
def key32 : List Byte := List.replicate 32 7
def life (l : LifeCycle) : State := { up with fuses := { Fuses.init with life := l }, boot := { up.boot with lcEnable := true } }
def tampering (v : Word) : State := up.setHub rTamperCfg v
theorem wit_KeysLifeCycleAndTamper :
    (up.manageable = true ∧ key32.length = 32 ∧ up.keyBusy 31 = false ∧
      ({ up with cmds := [{ hostCmd 1 0x20 0 0 [] with keySlot := some 31 }] } : State).keyBusy 31 = true ∧ (key32.drop 1).length ≠ 32) ∧
    ((life .provisioned).fuses.life = .provisioned ∧ up.fuses.life ≠ .provisioned) ∧
    ((life .blank).manageable = true ∧ (life .blank).boot.lcEnable = true ∧ lifeAllowed .blank .provisioned = true ∧
      lifeAllowed .deployed .rma = true ∧ (life .deployed).allErased = true ∧ lifeAllowed .deployed .provisioned = false ∧
      ({ life .deployed with cores := [(0, { Core.init with decks := [(0, { Deck.init with state := .ready })] })] } : State).allErased = false ∧
      up.boot.lcEnable = false) ∧
    (let s : State := { up with boot := { up.boot with svn := 1 } }
     s.dead = false ∧ s.boot.phase = .ready ∧ s.fuses.svn < s.boot.svn) ∧
    (let s : State := { up with verm := { Vermilion.init with identity := some [1], aliasKey := some [2] } }
     s.verm.identity = some [1] ∧ s.verm.aliasKey = some [2] ∧ s.verm.certSigned = none) ∧
    (up.latches.tripped = false ∧ bitAt ((tampering 0x11).hubWord rTamperCfg) (tamperEnable .tamper1) = true ∧
      bitAt ((tampering 0x11).hubWord rTamperCfg) 4 = true ∧ bitAt ((tampering 1).hubWord rTamperCfg) (tamperEnable .temp) = false) := by decide +kernel
def spdm : State := { up with mgmt := { Mgmt.init with negotiated := true }, verm := { Vermilion.init with certSigned := some [1] } }
theorem wit_UpdatesAndSpdmAnswer :
    (up.updatable = true ∧ up.stageFree 0x800000 = some 0 ∧
      (let s : State := { up with mgmt := { Mgmt.init with update := .receiving 0 0 } }
       s.mgmt.update = .receiving 0 0 ∧ (List.replicate 1024 (0 : Byte)).length ≤ 1024 ∧ 0x7FFC00 + 1024 ≤ 0x800000) ∧
      ({ up with mgmt := { Mgmt.init with update := .verified 0 16 } } : State).mgmt.update = .verified 0 16) ∧
    (spdm.managed = true ∧ spdm.mgmt.negotiated = true ∧ spdm.canSign = true ∧
      ({ spdm with mgmt := { spdm.mgmt with signUntil := 1 } } : State).canSign = false) ∧
    (let w : SpdmWait := { token := 0, request := .challenge key32, signed := true }
     let s : State := { spdm with mgmt := { spdm.mgmt with waiting := some w } }
     s.mgmt.waiting = some w ∧ w.request = .challenge key32 ∧ w.signed = true) ∧
    spdm.mgmt.waiting = none ∧ (up.latches.tripped = false ∧ up.boot.phase ≠ .start) ∧ (up.dead = false ∧ up.mgmt.sideband = .none) ∧
    ((life .deployed).fuses.life ≠ .blank ∧ (life .deployed).fuses.life ≠ .rma) := by decide +kernel
theorem wit_MeasurementsAreListed : ∃ vs, spdm.measureList 1 = some vs := ⟨_, rfl⟩

/-! ## Ill-formed commands: one for each check of WellFormed -/

theorem wf_readings :
    Instr.wf (.temperatureRead (List.replicate 32 50) [50]) = false ∧ Instr.wf (.temperatureRead (List.replicate 31 50) [50, 50]) = false ∧
    Instr.wf (.cirqueBudgetEpoch [1, 2, 3] 0) = false := by decide
theorem wf_accesses :
    Instr.wf (.rcRegisterRead (.host 0) 0 9) = false ∧ Instr.wf (.rcRegisterRead (.host 0) 0 0) = false ∧ Instr.wf (.rcRegisterRead .sideband 0 2) = false ∧
    Instr.wf (.latchedHighRead 0 0x10000) = false ∧ Instr.wf (.latchedHighRead 0 2) = false ∧ Instr.wf (.registerWrite 0 .bar0 0 9 0) = false ∧
    Instr.wf (.registerWrite 0 .bar0 0x10000 4 0) = false ∧ Instr.wf (.registerWrite 0 .bar2 0x2000 4 0) = false ∧ Instr.wf (.regRead 0 2) = false ∧
    Instr.wf (.regWrite 0 1 0) = false ∧ Instr.wf (.dumpRead 0 0) = false ∧ Instr.wf (.dumpRead 0 1025) = false ∧ Instr.wf (.doorbellPoll 0 16) = false := by
  decide
theorem wf_messages :
    Instr.wf (.keySet 0 0 [1]) = false ∧ Instr.wf (.challenge [1]) = false ∧ Instr.wf (.getMeasurements 1 false [1]) = false ∧
    Instr.wf (.requestFirmwareData 0 [] false) = false ∧ Instr.wf (.requestFirmwareData 0 (List.replicate 1025 0) false) = false ∧
    Instr.wf (.hostReadCompletion 0 0 []) = false ∧ Instr.wf (.getCertificate 8 0 0) = false := by decide
theorem wf_hostReadCompletion_long : Instr.wf (.hostReadCompletion 0 0 (List.replicate 4097 0)) = false := by
  rw [Instr.wf, List.length_replicate]; rfl
theorem wf_decks :
    Instr.wf (.pageProgram 55296 true) = false ∧ Instr.wf (.erasePulse 55296) = false ∧ Instr.wf (.readVerify 55296 (cleanFind 0)) = false ∧
    Instr.wf (.refreshSwap 55296) = false ∧ Instr.wf (.deckOwnerWrite 49152 0) = false ∧ Instr.wf (.deckOwnerChange 49152) = false := by decide
theorem wf_tests :
    Instr.wf (.selftestSlice 0 68 0 none) = false ∧ Instr.wf (.selftestSlice 0 0 6 none) = false ∧ Instr.wf (.screeRange 0 68 .pass) = false ∧
    Instr.wf (.linkFlitRetry 5 false) = false := by decide
theorem wf_accepts :
    Instr.wf (.pageProgram 55295 true) = true ∧ Instr.wf (.dumpRead 0 1024) = true ∧ Instr.wf (.registerWrite 0 .bar2 0x1FF8 8 0) = true := by decide

/-! ## Small tests of the commands -/

/-- No row of the table gives bits. -/
theorem test_no_words : decodeTableWord 8 0x10 = none ∧ (up.withFetchWord 8 0x10).pending = [] := by decide
/-- R40: beats of 62.5 us after reset. -/
theorem test_beatBoundary : (after up .beatBoundary).time.now = 62500 := by decide
/-- R392: the trip at 120 degrees. -/
theorem test_temperatureRead_trips : (after up (.temperatureRead (List.replicate 31 50 ++ [120]) [50, 50])).latches.tripped = true := by decide
theorem test_d3hotExit_waits_for_the_poll :
    let s := after (after (served []) (.d3hotEntry 0)) (.d3hotExit 0)
    (s.port 0).dmaOn = false ∧ ((after s (.doorbellPoll 0 0)).port 0).dmaOn = true := by decide +kernel
theorem test_thermTrip : (after up (.thermTrip 120)).latches.tripped = true ∧ (after up (.thermTrip 119)).latches.tripped = false := by decide
/-- R203: ADDI x1, x0, 5, with the pc behind it. -/
theorem test_addi :
    let t := ((after (seqState addiMem seqTask0) (.sequencerInstruction 0 .clean)).core 0).task 0
    t.x 1 = 5 ∧ t.pc = 4 ∧ t.minstret = 1 := by decide +kernel
/-- R220: FILL writes A's row to D's row. -/
theorem test_fill :
    let s := head fillW
    let s := s.setCore 0 { s.core 0 with scratch := [(256, 9), (511, 8)] }
    ((after s (.fill 0 0 .clean)).core 0).scratch = [(0, 9), (255, 8), (256, 9), (511, 8)] := by decide +kernel
/-- R167, R247: 3 times 2 is 6, as FP32 0x40C00000. -/
theorem test_mm :
    let s := head mmW
    let s := s.setCore 0 { s.core 0 with scratch := [(0, 3)], dcm := [(0, 2)] }
    ((after s (.mm 0 0 .clean)).core 0).scratch = [(0, 3), (514, 0xC0), (515, 0x40)] := by decide +kernel
/-- R98: a page is 64 bytes of a word-line. -/
theorem test_pageProgram :
    (((after (progState 0) (.pageProgram 0 true)).deck 0).cells.read 0 65 = List.replicate 64 1 ++ [0]) ∧
    ((after (progState 0) (.pageProgram 0 true)).deck 0).pages = 1 := by decide +kernel
/-- R100, R106: an erase ends ERASED with one more of wear. -/
theorem test_erasePulse :
    let d := (after (decksIn 7 [(0, eraseDeck true 1)]) (.erasePulse 0)).deck 0
    d.state = .erased ∧ d.wear = 1 := by decide +kernel
/-- R454: IDCODE goes out once; in DEPLOYED another instruction acts as BYPASS. -/
theorem test_idcode : (after up (.jtagInstruction .idcode)).out = [.jtag (idcode .szt640)] ∧ after (life .deployed) (.jtagInstruction (.other 9)) = life .deployed :=
  ⟨rfl, rfl⟩
/-- R428: a key enters its slot and leaves it. -/
theorem test_keys :
    sget none (after up (.keySet 3 2 key32)).verm.slots 3 = some (key32, 2) ∧ (after (after up (.keySet 3 2 key32)) (.keyClear 3)).verm.slots = [] := by
  decide
/-- R425: DEPLOYED does not go back to PROVISIONED. -/
theorem test_lifecycle_forward_only : (after (life .deployed) (.lcTransition .provisioned true flashAnswers)).fuses.life = .deployed := by decide +kernel
end Sys2Proof.Tests
end

section
/-!
What `exec` leaves of the bundle of Laws/Stable.lean, said once for all rows of the table; O2.
-/
namespace Sys2Proof.Machine

/-! ## The rows whose outcome is not one call -/

theorem execJtagInstruction_stable {j : JtagInstr} {s t : State} (h : execJtagInstruction j s = .next t) : t.stable = s.stable := by
  cases j with
  | idcode => obtain rfl := Host.Outcome.next.inj h; simp
  | bypass => obtain rfl := Host.Outcome.next.inj h; rfl
  | other n =>
    simp only [execJtagInstruction] at h
    split at h
    · cases h
    · obtain rfl := Host.Outcome.next.inj h; rfl

theorem execCirqueBudgetEpoch_stable {l : List Nat} {n : Nat} {s t : State} (h : execCirqueBudgetEpoch l n s = .next t) :
    t.stable = s.stable := by
  unfold execCirqueBudgetEpoch at h
  split at h
  · obtain rfl := Host.Outcome.next.inj h; simp
  · cases h

/-- TEMPERATURE_READ with readings of the right shape is `temperatureRead`; any other shape is ill-formed. -/
theorem execTemperatureRead_next {xs ys : List Int} {s t : State} (h : execTemperatureRead xs ys s = .next t) :
    t = temperatureRead xs ys s := by
  unfold execTemperatureRead at h
  split at h
  · exact (Host.Outcome.next.inj h).symm
  · cases h

theorem temperatureRead_lasting {xs ys : List Int} {s : State} :
    (temperatureRead xs ys s).stable.lasting = s.stable.lasting := by
  rcases temperatureRead_trips (xs := xs) (ys := ys) (s := s) with h | h
  · rw [h]
  · rw [h]; rfl

/-! ## All rows -/

/-- The rows that may change the bundle: resets, keys and fuses, the firmware image, tamper and the trip. -/
def changesStable : Instr → Bool
  | .powerOn .. | .deviceReady | .deviceReset .. | .deviceResetMessage _ | .activateFirmware _ | .lcTransition .. | .applyComplete _
  | .keySet .. | .keyClear _ | .keyRevoke _ | .fuseBlow | .aliasCertSign | .tamper _ | .temperatureRead .. | .thermTrip _ => true
  | _ => false

/-- Every other row leaves the whole bundle: each is one operation of Laws/Frames.lean. -/
theorem exec_stable {i : Instr} {s t : State} (hi : changesStable i = false) (h : exec i s = .next t) : t.stable = s.stable := by
  cases i with
  | powerOn | deviceReady | deviceReset | deviceResetMessage | activateFirmware | lcTransition | applyComplete
  | keySet | keyClear | keyRevoke | fuseBlow | aliasCertSign | tamper | temperatureRead | thermTrip => cases hi
  | jtagInstruction j => exact execJtagInstruction_stable h
  | cirqueBudgetEpoch l n => exact execCirqueBudgetEpoch_stable h
  | _ => obtain rfl := Host.Outcome.next.inj h; simp

/-- The rows that write the fuses or the flash by themselves; a reset only cuts a write of the flash that another row began. -/
def writesLasting : Instr → Bool
  | .keyRevoke _ | .fuseBlow | .applyComplete _ | .lcTransition .. => true
  | _ => false

/-- Every other row leaves the lasting part as it stands, or as a cut of the flash write leaves it. -/
theorem exec_lasting {i : Instr} {s t : State} (hi : writesLasting i = false) (h : exec i s = .next t) :
    t.stable.lasting = s.stable.lasting ∨ t.stable.lasting = s.cutUpdate.stable.lasting := by
  cases hc : changesStable i with
  | false => exact .inl (congrArg Stable.lasting (exec_stable hc h))
  | true =>
    cases i with
    | keyRevoke | fuseBlow | applyComplete | lcTransition => cases hi
    | powerOn => obtain rfl := Host.Outcome.next.inj h; exact .inr powerOn_lasting
    | deviceReset => obtain rfl := Host.Outcome.next.inj h; exact deviceReset_lasting
    | deviceResetMessage => obtain rfl := Host.Outcome.next.inj h; exact deviceResetMessage_lasting
    | temperatureRead => rw [execTemperatureRead_next h]; exact .inl temperatureRead_lasting
    | deviceReady | activateFirmware | keySet | keyClear | aliasCertSign | tamper | thermTrip =>
      obtain rfl := Host.Outcome.next.inj h
      exact .inl (by simp)
    | _ => cases hc

/-- Settles O2: outside the four rows that write the lasting part, the queue and the grade lie in it; those four have their own laws. -/
theorem commandsKeepQueueAndGrade : Obligations.CommandsKeepQueueAndGrade := by
  intro i s t h
  cases hw : writesLasting i with
  | false =>
    rcases exec_lasting hw h with e | e
    · exact (lasting_iff.1 e).imp_right And.left
    · exact (lasting_iff (s := s.cutUpdate).1 e).imp_right And.left
  | true =>
    cases i with
    | keyRevoke => obtain rfl := Host.Outcome.next.inj h; exact keyRevoke_keeps.imp_right And.left
    | fuseBlow => obtain rfl := Host.Outcome.next.inj h; exact fuseBlow_keeps.imp_right And.left
    | applyComplete => obtain rfl := Host.Outcome.next.inj h; exact applyComplete_keeps.imp_right And.left
    | lcTransition => obtain rfl := Host.Outcome.next.inj h; exact lcTransition_keeps.imp_right And.left
    | _ => cases hw

end Sys2Proof.Machine
end

section
/-!
Registers over the sideband (R10, R432): what a read clears, and the four messages case by case; O25.
-/
namespace Sys2Proof.Machine

/-! ## What a register read clears -/

/-- t is s with other hub and core registers. -/
def OnlyRegs (s t : State) : Prop := ∃ h c, t = { s with hub := h, cores := c }

theorem OnlyRegs.refl {s : State} : OnlyRegs s s := ⟨s.hub, s.cores, rfl⟩

theorem OnlyRegs.trans {s t u : State} : OnlyRegs s t → OnlyRegs t u → OnlyRegs s u := by
  rintro ⟨h, c, rfl⟩ ⟨h', c', rfl⟩
  exact ⟨h', c', rfl⟩

theorem onlyRegs_foldl {α : Type} {g : State → α → State} (hg : ∀ s x, OnlyRegs s (g s x)) (l : List α) (s : State) :
    OnlyRegs s (l.foldl g s) := by
  induction l generalizing s with
  | nil => exact .refl
  | cons x l ih => exact (hg s x).trans (ih _)

theorem onlyRegs_setHub {s : State} {o : Nat} {v : Word} : OnlyRegs s (s.setHub o v) := ⟨_, _, rfl⟩

theorem onlyRegs_modCore {s : State} {n : Nat} {f : Core → Core} : OnlyRegs s (s.modCore n f) := ⟨_, _, rfl⟩

theorem onlyRegs_clearRc (s : State) (x : Target) : OnlyRegs s (s.clearRc x) := by
  cases x with
  | hubReg o =>
    simp only [State.clearRc]
    split
    · exact onlyRegs_setHub
    · exact .refl
  | coreReg c o =>
    simp only [State.clearRc]
    split
    · exact onlyRegs_modCore
    · split
      · exact onlyRegs_modCore
      · exact .refl
  | _ => exact .refl

/-- The answer of a read that has cleared registers differs from s in the registers, the free values and the output. -/
theorem OnlyRegs.answered {s u : State} {code : Nat} {data : List Byte} (hu : OnlyRegs s u) :
    u.tookFree.answer code data =
      { s with hub := (u.tookFree.answer code data).hub, cores := (u.tookFree.answer code data).cores, freeCtr := s.freeCtr + 1,
               out := (u.tookFree.answer code data).out } ∧
    (u.tookFree.answer code data).out = .answer code data :: s.out := by
  obtain ⟨h, c, rfl⟩ := hu
  exact ⟨rfl, rfl⟩

/-! ## The four messages, case by case -/

section
variable {s : State} {da : BitVec 48} {size : Nat} {v : DWord} {ts : List Target}

theorem regRead_valid (hm : s.managed = true) (h : s.regWords da size = some ts) :
    regRead da size s = ((ts.foldl State.clearRc s).tookFree).answer ccSuccess (ts.flatMap fun t => toLe 4 (s.regWord t).toNat) := by
  simp [regRead, hm, h]

theorem regRead_invalid (hm : s.managed = true) (h : s.regWords da size = none) : regRead da size s = s.answer ccInvalid [] := by
  simp [regRead, hm, h]

theorem regWrite_invalid (hm : s.managed = true) (h : s.regWords da size = none) : regWrite da size v s = s.answer ccInvalid [] := by
  simp [regWrite, hm, h]

theorem regWrite_l3 (hm : s.managed = true) (h : s.regWords da size = some ts) (hl : s.latches.l3 = true) :
    regWrite da size v s = s.answer ccRefused [] := by
  simp [regWrite, hm, h, hl]

/-- The low word of a written value. -/
theorem half_low (v : DWord) : half v.toNat 0 = v.setWidth 32 := rfl

theorem regWrite_word {x : Target} (hm : s.managed = true) (h : s.regWords da size = some [x]) (hl : s.latches.l3 = false) :
    regWrite da size v s = (s.writeReg (v.setWidth 32) x).answer ccSuccess [] := by
  simp [regWrite, hm, h, hl, half_low]

theorem dumpRead_invalid {len : Nat} (hm : s.managed = true)
    (h : len = 0 ∨ 1024 < len ∨ (List.range len).mapM (fun i => s.target (da + BitVec.ofNat 48 i)) = none) :
    dumpRead da len s = s.answer ccInvalid [] := by
  unfold dumpRead
  rw [if_neg (by simp [hm])]
  split
  · rfl
  · rw [(h.resolve_left (by omega)).resolve_left (by omega)]

/-- A dump clears what its registers clear and answers the bytes as they stood. -/
theorem dumpRead_valid {len : Nat} (hm : s.managed = true) (h1 : 1 ≤ len) (h2 : len ≤ 1024)
    (h : (List.range len).mapM (fun i => s.target (da + BitVec.ofNat 48 i)) = some ts) :
    ∃ u, OnlyRegs s u ∧ dumpRead da len s = u.tookFree.answer ccSuccess (ts.map s.dumpByte) := by
  unfold dumpRead
  rw [if_neg (by simp [hm]), if_neg (by omega), h]
  refine ⟨_, onlyRegs_foldl (fun s x => ?_) ts s, rfl⟩
  cases x with
  | hubReg o | coreReg c o =>
    dsimp only
    split
    · exact onlyRegs_clearRc _ _
    · exact .refl
  | _ => exact .refl

theorem status_managed (hm : s.managed = true) :
    status s = s.answer ccSuccess (toLe 4 s.lcStatus.toNat ++ toLe 4 s.bootStatus.toNat ++ toLe 4 s.fltStatus.toNat) := by
  unfold status
  rw [if_neg]
  rintro (h | h) <;> simp [State.managed, h] at hm

end

@[simp] theorem hubWord_answered {u : State} {code : Nat} {data : List Byte} {o : Nat} :
    (u.tookFree.answer code data).hubWord o = u.hubWord o := rfl

@[simp] theorem core_answer {u : State} {code : Nat} {data : List Byte} {c : Nat} : (u.answer code data).core c = u.core c := rfl

theorem clearRc_hubReg_cores {s : State} {o : Nat} : (s.clearRc (.hubReg o)).cores = s.cores := by
  simp only [State.clearRc]
  split <;> rfl

/-- A read clears no hub register but the one it names. -/
theorem hubWord_clearRc_hubReg {s : State} {o q : Nat} :
    (s.clearRc (.hubReg o)).hubWord q = if q = o ∧ (hubRc o && !s.latches.l3) = true then hubReset o else s.hubWord q := by
  simp only [State.clearRc]
  split <;> simp_all

theorem applyWrite_noClear {old rw v : Word} : applyWrite old rw 0 v = old &&& ~~~rw ||| v &&& rw := by
  simp only [applyWrite, BitVec.ofNat_eq_ofNat, BitVec.and_zero, BitVec.not_zero, BitVec.and_allOnes]

/-- A sideband write of a core register outside DECK_OWNER. -/
theorem coreWrite_reg {s : State} {c o : Nat} {v : Word} (h : ¬(cDeckOwner ≤ o ∧ o < cDeckOwner + 0x300)) :
    s.coreWrite c o v = s.modCore c fun x => x.setReg o (x.reg o &&& ~~~coreRw o ||| v &&& coreRw o) := by
  unfold State.coreWrite
  simp only [if_neg h, applyWrite_noClear]

theorem timeCtrlWrite_alive {s : State} {v : Word} (hm : s.managed = true) (hl : s.latches.l3 = false) :
    timeCtrlWrite v s = { s with time := { s.time with ctrlPending := some v } } := by
  have ht : s.latches.tripped = false := by
    simp only [State.managed, Bool.and_eq_true, Bool.not_eq_true'] at hm
    exact hm.1
  simp [timeCtrlWrite, State.dead, ht, hl]

/-- Settles O25, message by message; what a read or a dump changes beside its answer is `OnlyRegs`. -/
theorem sidebandRegisterAccess : Obligations.SidebandRegisterAccess := by
  intro s hm
  refine ⟨?_, ?_, ?_, ?_, ?_, ?_, ?_, ?_, ?_⟩
  · intro da size ts h
    obtain ⟨hframe, hout⟩ := (onlyRegs_foldl onlyRegs_clearRc ts s).answered (code := ccSuccess)
      (data := ts.flatMap fun x => toLe 4 (s.regWord x).toNat)
    have hrun : exec (.regRead da size) s = .next _ := congrArg Host.Outcome.next (regRead_valid hm h)
    exact ⟨_, hrun, hrun, hframe, hout⟩
  · intro da o h
    refine ⟨_, congrArg Host.Outcome.next (regRead_valid hm h), clearRc_hubReg_cores, ?_, fun q hq => ?_⟩
    · simp [hubWord_clearRc_hubReg]
    · simp [hubWord_clearRc_hubReg, hq]
  · exact fun da size v h => ⟨congrArg Host.Outcome.next (regRead_invalid hm h), congrArg Host.Outcome.next (regWrite_invalid hm h)⟩
  · exact fun da size v ts h hl => congrArg Host.Outcome.next (regWrite_l3 hm h hl)
  · intro da v c o h hl ho
    refine ⟨_, congrArg Host.Outcome.next ((regWrite_word hm h hl).trans (congrArg (State.answer · ccSuccess []) (coreWrite_reg ho))),
      rfl, ?_, fun q hq => ?_, fun d hd => ?_⟩
    · simp
    · simp [hq]
    · simp [hd]
  · intro da v h hl
    refine ⟨_, congrArg Host.Outcome.next ((regWrite_word hm h hl).trans
      (congrArg (State.answer · ccSuccess []) (timeCtrlWrite_alive hm hl))), rfl, rfl⟩
  · intro da len ts h1 h2 h
    obtain ⟨u, hu, e⟩ := dumpRead_valid hm h1 h2 h
    obtain ⟨hframe, hout⟩ := hu.answered (code := ccSuccess) (data := ts.map s.dumpByte)
    exact ⟨_, congrArg Host.Outcome.next e, hframe, hout⟩
  · exact fun da len h => congrArg Host.Outcome.next (dumpRead_invalid hm h)
  · exact congrArg Host.Outcome.next (status_managed hm)

end Sys2Proof.Machine
end

section
/-!
A port's BARs (R346-R350): what a host read changes, and the writes of single registers; O26.
-/
namespace Sys2Proof.Machine

/-! ## A port and the link state -/

section
variable {s : State} {p : Nat} {x y : Port}

@[simp] theorem setPort_setPort : (s.setPort p x).setPort p y = s.setPort p y := by
  simp [State.setPort]

theorem setPort_port (hp : p < s.ports.length) : s.setPort p (s.port p) = s := by
  have h : s.ports.set p (s.port p) = s.ports := by simp [State.port, List.getD, hp]
  rw [State.setPort, h]

@[simp] theorem ports_length_setPort : (s.setPort p x).ports.length = s.ports.length := by
  simp [State.setPort]

@[simp] theorem port_emit {q : Nat} {m : Msg} : (s.emit m).port q = s.port q := rfl

/-- An access brings the link of the port out of L1 (R341). -/
def State.woken (s : State) (p : Nat) : State := s.setPort p { s.port p with l1 := false }

theorem woken_port (hp : p < s.ports.length) : (s.woken p).port p = { s.port p with l1 := false } := State.port_setPort hp

@[simp] theorem setPort_woken : (s.woken p).setPort p x = s.setPort p x := setPort_setPort

theorem woken_portWritable (hp : p < s.ports.length) : (s.woken p).portWritable p = s.portWritable p := by
  simp only [State.portWritable, woken_port hp]
  rfl

theorem woken_sqActive (hp : p < s.ports.length) : (s.woken p).sqActive p = s.sqActive p := by
  funext n
  simp only [State.sqActive, woken_port hp]
  rfl

/-! ## Reads of BAR0 -/

/-- A read puts out one value and changes at most the port's latches. -/
theorem barRead4_frame (hp : p < s.ports.length) (off : Nat) :
    ∃ l v, s.barRead4 p off = (s.setPort p { s.port p with latch := l }).emit (.hostRead p v) := by
  have self : s.setPort p { s.port p with latch := (s.port p).latch } = s := setPort_port hp
  unfold State.barRead4
  dsimp only
  split
  · exact ⟨_, _, congrArg (State.emit · _) self.symm⟩
  · split
    · exact ⟨_, _, rfl⟩
    · split
      · exact ⟨_, _, rfl⟩
      · exact ⟨_, _, congrArg (State.emit · _) self.symm⟩

theorem barRead_four {off : Nat} (h : off % 4 = 0) : s.barRead p off 4 = (s.woken p).barRead4 p off := by
  simp [State.barRead, h, State.woken]

/-- A read of another size, or one that is not aligned, returns zero (R347). -/
theorem barRead_misaligned {off size : Nat} (h : (size ≠ 4 ∧ size ≠ 8) ∨ off % size ≠ 0) :
    s.barRead p off size = (s.woken p).emit (.hostRead p 0) := by
  simp only [State.barRead, if_pos h, State.woken]

theorem barRead_frame (hp : p < s.ports.length) (off size : Nat) :
    ∃ l v, s.barRead p off size = (s.setPort p { s.port p with l1 := false, latch := l }).emit (.hostRead p v) := by
  by_cases h : (size ≠ 4 ∧ size ≠ 8) ∨ off % size ≠ 0
  · exact ⟨_, _, barRead_misaligned h⟩
  · by_cases h4 : size = 4
    · subst h4
      obtain ⟨l, v, e⟩ := barRead4_frame (s := s.woken p) (p := p) (by simpa [State.woken] using hp) off
      rw [setPort_woken, woken_port hp] at e
      exact ⟨l, v, (barRead_four (by omega)).trans e⟩
    · exact ⟨(s.port p).latch, _, by simp only [State.barRead, if_neg h, if_neg h4]; rfl⟩

/-- A read of a low half latches the high half (R347). -/
theorem barRead4_low {low : Nat} (h : wide low = some low) :
    s.barRead4 p low = (s.setPort p { s.port p with latch := sins (s.port p).latch low (s.barWord p (low + 4)) }).emit
      (.hostRead p (BitVec.ofNat 64 (s.barWord p low).toNat)) := by
  simp [State.barRead4, h]

/-- A read of a high half that is latched returns the latched value and frees the latch (R347). -/
theorem barRead4_high {low : Nat} {v : Word} (h : wide (low + 4) = some low) (hv : mget (s.port p).latch low = some v) :
    s.barRead4 p (low + 4) = (s.setPort p { s.port p with latch := sdel (s.port p).latch low }).emit (.hostRead p (v.setWidth 64)) := by
  simp [State.barRead4, h, hv]

/-- The two halves of a 64-bit register name the same register. -/
theorem wide_high {low : Nat} (h8 : low % 8 = 0) : wide (low + 4) = wide low := by
  have hdiv : (low + 4) / 8 = low / 8 := by omega
  have hmod : (low + 4) % 0x40 / 8 = low % 0x40 / 8 := by omega
  have hsq : 0x1000 ≤ low + 4 ∧ low + 4 < 0x2000 ↔ 0x1000 ≤ low ∧ low < 0x2000 := by omega
  have hcq : 0x2000 ≤ low + 4 ∧ low + 4 < 0x3000 ↔ 0x2000 ≤ low ∧ low < 0x3000 := by omega
  simp only [wide, hdiv, hmod, ← and_assoc, hsq, hcq]

/-- The words of DEVICE_TIME. -/
theorem barWord_deviceTime : s.barWord p 0xC000 = half s.time.now 0 ∧ s.barWord p 0xC004 = half s.time.now 4 := ⟨rfl, rfl⟩

end

/-! ## Writes of BAR0 and of the MSI-X table -/

section
variable {s : State} {p off size : Nat} {bar : Bar} {v : DWord}

theorem registerWrite_ignored (hr : s.reachable p = true) (hp : p < s.ports.length)
    (h : s.portWritable p = false ∨ (size ≠ 4 ∧ size ≠ 8) ∨ off % size ≠ 0) : registerWrite p bar off size v s = s.woken p := by
  have h' : (size ≠ 4 ∧ size ≠ 8) ∨ off % size ≠ 0 ∨ (s.woken p).portWritable p = false := by
    rw [woken_portWritable hp]; tauto
  simp only [registerWrite, hr]
  exact if_pos h'

/-- An aligned write of 4 or 8 bytes to a port that is not halted reaches its BAR. -/
theorem registerWrite_taken (hr : s.reachable p = true) (hp : p < s.ports.length) (hw : s.portWritable p = true)
    (hs : size = 4 ∨ size = 8) (ha : off % size = 0) :
    registerWrite p .bar0 off size v s = (s.woken p).bar0Write p off size v ∧
      registerWrite p .bar2 off size v s = (s.woken p).bar2Write p off size v := by
  have h' : ¬((size ≠ 4 ∧ size ≠ 8) ∨ off % size ≠ 0 ∨ (s.woken p).portWritable p = false) := by
    rw [woken_portWritable hp, hw]
    rintro (h | h | h)
    · omega
    · exact h ha
    · cases h
  simp only [registerWrite, hr]
  exact ⟨if_neg h', if_neg h'⟩

theorem bar0Write_pollCtrl : s.bar0Write p 0x118 4 v = s.setPort p { s.port p with pollCtrl := v.setWidth 32 &&& 0x1F } := rfl

theorem bar0Write_eventCtrl :
    s.bar0Write p 0x11C 4 v = s.setPort p { s.port p with eventCtrl := v.setWidth 32 &&& 0x8000003F } := rfl

/-- The device's identification at offset 0 is read-only (R348). -/
theorem bar0Write_identification : s.bar0Write p 0 4 v = s := rfl

/-- DOORBELL_BASE takes its bits 63:9 while no submission ring is active (R350). -/
theorem bar0Write_doorbellBase (idle : (List.range 64).any (s.sqActive p) = false) :
    s.bar0Write p 0x110 8 v = s.setPort p { s.port p with doorbellBase := v &&& ~~~0x1FF#64 } := by
  have taken : s.bar0Write p 0x110 8 v = s.writeWide p 0x110 0x110 v := rfl
  rw [taken, State.writeWide, if_pos rfl, if_neg (by simp [idle])]

/-- The data word of a vector of the MSI-X table takes every bit; a vector without a pending message sends none. -/
theorem bar2Write_data {n : Nat} (hn : n < 64) (hb : bitAt (s.port p).pba n = false) :
    s.bar2Write p (16 * n + 8) 4 v =
      s.setPort p { s.port p with msix := (s.port p).msix.write (16 * n + 8) (toLe 4 (v.setWidth 32).toNat) } := by
  have hmask : v.setWidth 32 &&& msixMask (16 * n + 8) = v.setWidth 32 := by
    rw [msixMask, if_neg (by omega), if_neg (by omega)]
    exact BitVec.and_allOnes
  have hvector : (16 * n + 8) / 16 = n := by omega
  have taken : s.bar2Write p (16 * n + 8) 4 v = s.msixWrite4 p (16 * n + 8) (v.setWidth 32) := rfl
  rw [taken, State.msixWrite4, if_neg (by omega), hmask]
  simp only [hvector, hb, Bool.false_and]
  rfl

end

/-- Settles O26: the reads by `barRead_frame` and the two halves of R347, the writes through `registerWrite_taken`. -/
theorem hostRegisterAccess : Obligations.HostRegisterAccess := by
  intro s p hr hp
  have read {off : Nat} : latchedHighRead p off s = s.barRead p off 4 := if_neg (by simp [hr])
  refine ⟨?_, ?_, ?_, ?_, ?_, ?_⟩
  · intro off v h8 hw hv
    have e : latchedHighRead p (off + 4) s =
        (s.setPort p { s.port p with l1 := false, latch := sdel (s.port p).latch off }).emit (.hostRead p (v.setWidth 64)) := by
      rw [read, barRead_four (by omega), barRead4_high ((wide_high h8).trans hw) (by rwa [woken_port hp]), setPort_woken, woken_port hp]
    exact ⟨_, congrArg Host.Outcome.next e, rfl, State.port_setPort hp⟩
  · refine congrArg Host.Outcome.next ?_
    rw [read, barRead_four rfl, barRead4_low rfl, setPort_woken, woken_port hp, barWord_deviceTime.1, barWord_deviceTime.2]
    rfl
  · exact fun off h => congrArg Host.Outcome.next (read.trans (barRead_misaligned (.inr h)))
  · intro da size
    obtain ⟨l, v, e⟩ := barRead_frame hp (fld da 15 0) size
    have run : rcRegisterRead (.host p) da size s = _ := (if_neg (by simp [hr])).trans e
    refine ⟨_, v, congrArg Host.Outcome.next run, rfl, ?_⟩
    rw [port_emit, State.port_setPort hp]
  · exact fun bar off size v h => congrArg Host.Outcome.next (registerWrite_ignored hr hp h)
  · intro hw v
    have taken {off size} (hs : size = 4 ∨ size = 8) (ha : off % size = 0) := registerWrite_taken (v := v) hr hp hw hs ha
    have port := woken_port hp
    refine ⟨?_, ?_, ?_, fun idle => ?_, fun n hn hb => ?_⟩ <;> refine congrArg Host.Outcome.next ?_
    · rw [(taken (.inl rfl) rfl).1, bar0Write_pollCtrl, setPort_woken, port]
    · rw [(taken (.inl rfl) rfl).1, bar0Write_eventCtrl, setPort_woken, port]
    · rw [(taken (.inl rfl) rfl).1, bar0Write_identification, State.woken]
    · rw [(taken (.inr rfl) rfl).1, bar0Write_doorbellBase (by rwa [woken_sqActive hp]), setPort_woken, port]
    · rw [(taken (.inl rfl) (by omega)).2, bar2Write_data hn (by rwa [port]), setPort_woken, port]

end Sys2Proof.Machine
end

section
/-!
What a report of an event and a completion entry write (R360, R361, R397-R399): registers of the hub, ports, messages, fault records and
the stored configuration, and nothing of what the block works on.
-/
namespace Sys2Proof.Machine

/-- The state without what reports and completion entries write. -/
def State.unreported (s : State) : State := { s with hub := [], ports := [], out := [], faults := [], config := Config.init }

@[simp] theorem unreported_fields {s : State} :
    s.unreported.pending = s.pending ∧ s.unreported.freeCtr = s.freeCtr ∧ s.unreported.grade = s.grade ∧
    s.unreported.latches = s.latches ∧ s.unreported.boot = s.boot ∧ s.unreported.time = s.time ∧ s.unreported.frame = s.frame ∧
    s.unreported.parts = s.parts ∧ s.unreported.overloadBeat = s.overloadBeat ∧ s.unreported.cmds = s.cmds ∧
    s.unreported.nextCmd = s.nextCmd ∧ s.unreported.streams = s.streams ∧ s.unreported.slots = s.slots ∧
    s.unreported.plans = s.plans ∧ s.unreported.runs = s.runs ∧ s.unreported.barriers = s.barriers ∧
    s.unreported.corpora = s.corpora ∧ s.unreported.batches = s.batches ∧ s.unreported.installs = s.installs ∧
    s.unreported.staging = s.staging ∧ s.unreported.cores = s.cores ∧ s.unreported.coreMap = s.coreMap ∧ s.unreported.phys = s.phys ∧
    s.unreported.snaps = s.snaps ∧ s.unreported.adoptions = s.adoptions ∧ s.unreported.retireDue = s.retireDue ∧
    s.unreported.deckOwner = s.deckOwner ∧ s.unreported.ownerPending = s.ownerPending ∧ s.unreported.regions = s.regions ∧
    s.unreported.power = s.power ∧ s.unreported.fuses = s.fuses ∧ s.unreported.verm = s.verm ∧ s.unreported.mgmt = s.mgmt ∧
    s.unreported.flash = s.flash := by
  refine ⟨?_, ?_, ?_, ?_, ?_, ?_, ?_, ?_, ?_, ?_, ?_, ?_, ?_, ?_, ?_, ?_, ?_, ?_, ?_, ?_, ?_, ?_, ?_, ?_, ?_, ?_, ?_, ?_, ?_, ?_, ?_, ?_, ?_, ?_⟩ <;> rfl

@[simp] theorem unreported_core {s : State} {k : Nat} : s.unreported.core k = s.core k := rfl

@[simp] theorem unreported_stream {s : State} {n : Nat} : s.unreported.stream n = s.stream n := rfl

@[simp] theorem unreported_plan? {s : State} {n : Nat} : s.unreported.plan? n = s.plan? n := rfl

@[simp] theorem ite_unreported (p : Prop) [Decidable p] (a b : State) :
    (if p then a else b).unreported = if p then a.unreported else b.unreported := apply_ite _ _ _ _

section
variable {s : State}

/-! ## Reports -/

@[simp] theorem setHub_unreported {o : Nat} {v : Word} : (s.setHub o v).unreported = s.unreported := rfl
@[simp] theorem hubInc_unreported {o k : Nat} : (s.hubInc o k).unreported = s.unreported := rfl
@[simp] theorem setHub64_unreported {o n : Nat} : (s.setHub64 o n).unreported = s.unreported := rfl
@[simp] theorem setPort_unreported {p : Nat} {x : Port} : (s.setPort p x).unreported = s.unreported := rfl
@[simp] theorem emit_unreported {m : Msg} : (s.emit m).unreported = s.unreported := rfl

@[simp] theorem hostWrite_unreported {p a : Nat} {bs : List Byte} : (s.hostWrite p a bs).unreported = s.unreported := by
  simp [State.hostWrite]

@[simp] theorem sendMsix_unreported {p vec : Nat} : (s.sendMsix p vec).unreported = s.unreported := by
  simp [State.sendMsix]

@[simp] theorem portEvent_unreported {p bit : Nat} : (s.portEvent p bit).unreported = s.unreported := by
  simp [State.portEvent]

@[simp] theorem portEvents_unreported {ps : List Nat} {bit : Nat} : (s.portEvents ps bit).unreported = s.unreported :=
  foldl_keeps State.unreported (fun _ _ => portEvent_unreported) ps s

@[simp] theorem reportAttention_unreported {src level : Nat} {parts : List Nat} :
    (s.reportAttention src level parts).unreported = s.unreported := by
  have fold := foldl_keeps State.unreported (g := fun s q => s.portEvents (s.partPorts q) 1) (fun _ _ => portEvents_unreported) parts s
  simp [State.reportAttention, fold]

@[simp] theorem aerOn_unreported {ps : List Nat} {fatal : Bool} : (s.aerOn ps fatal).unreported = s.unreported := by
  simp only [State.aerOn]
  exact foldl_keeps State.unreported (fun _ _ => by rfl) ps s

@[simp] theorem setFaultInst_unreported {f : FaultInst} : (s.setFaultInst f).unreported = s.unreported := by
  unfold State.setFaultInst
  split <;> rfl

@[simp] theorem severeReport_unreported {src inst : Nat} : (s.severeReport src inst).unreported = s.unreported := by
  simp [State.severeReport]

@[simp] theorem severeEnd_unreported {src inst : Nat} : (s.severeEnd src inst).unreported = s.unreported := by
  simp [State.severeEnd]

/-- An event below the Fatal level, of a source that no core counts. -/
theorem recordEvent_unreported {src inst lvl : Nat} (hl : lvl ≠ 3) (hs : ¬(6 ≤ src ∧ src ≤ 20)) :
    (s.recordEvent src inst lvl).1.unreported = s.unreported := by
  have count : (s.countEvent src inst).unreported = s.unreported := by simp only [State.countEvent, if_neg hs]; rfl
  unfold State.recordEvent
  split
  · rfl
  · simp only [apply_ite Prod.fst, ite_unreported, severeReport_unreported, hubInc_unreported, reportAttention_unreported,
      setFaultInst_unreported, count, ite_self]

theorem reportOnly_unreported {src inst lvl : Nat} (hl : lvl ≠ 3) (hs : ¬(6 ≤ src ∧ src ≤ 20)) :
    (s.reportOnly src inst lvl).unreported = s.unreported := by
  simp [State.reportOnly, recordEvent_unreported hl hs]

@[simp] theorem addRepair_unreported {region : Nat} {r : Repair} : (s.addRepair region r).unreported = s.unreported := by
  unfold State.addRepair
  dsimp only
  split
  · rfl
  · exact reportOnly_unreported (by decide) (by decide)

/-! ## Completions -/

@[simp] theorem writeEntry_unreported {e : Entry} : (s.writeEntry e).unreported = s.unreported := by simp [State.writeEntry]

@[simp] theorem headWord_unreported {p n : Nat} : (s.headWord p n).unreported = s.unreported := by simp [State.headWord]

@[simp] theorem signal_unreported {p n k : Nat} : (s.signal p n k).unreported = s.unreported := by simp [State.signal]

@[simp] theorem writeEntries_unreported {l : List Entry} : (s.writeEntries l).unreported = s.unreported := by
  simp only [State.writeEntries]
  rw [foldl_keeps State.unreported (fun _ _ => signal_unreported), foldl_keeps State.unreported (fun _ _ => headWord_unreported),
    foldl_keeps State.unreported (fun _ _ => writeEntry_unreported)]

@[simp] theorem countCompletion_unreported {part op status : Nat} : (s.countCompletion part op status).unreported = s.unreported := by
  simp [State.countCompletion]

/-- The state without an admitted command. -/
def State.without (s : State) (id : Nat) : State := { s with cmds := s.cmds.filter fun x => x.id != id }

@[simp] theorem without_cmds {id : Nat} : (s.without id).cmds = s.cmds.filter fun x => x.id != id := rfl
@[simp] theorem without_streams {id : Nat} : (s.without id).streams = s.streams := rfl
@[simp] theorem without_stream {id n : Nat} : (s.without id).stream n = s.stream n := rfl
@[simp] theorem without_plan? {id n : Nat} : (s.without id).plan? n = s.plan? n := rfl
@[simp] theorem without_installs {id : Nat} : (s.without id).installs = s.installs := rfl
@[simp] theorem without_staging {id : Nat} : (s.without id).staging = s.staging := rfl
@[simp] theorem without_core {id k : Nat} : (s.without id).core k = s.core k := rfl

/-- A command that joins no stream's commands leaves the admitted commands as it completes; beside that there is only its report. -/
theorem complete_unreported {c : Cmd} {r : Result} (h : c.stream? = none) : (s.complete c r).unreported = s.unreported.without c.id := by
  have books : (s.bookOut c r).unreported = s.unreported.without c.id := by
    simp only [State.bookOut, h]
    exact congrArg (State.without · c.id) countCompletion_unreported
  exact writeEntries_unreported.trans books

end

end Sys2Proof.Machine
end

section
/-!
Updates of a map whose keys are present or absent, and of every core of a list: what a lookup finds after them.
-/
namespace Sys2Proof.Machine

/-! ## Maps whose keys are present or absent -/

section
variable {α : Type} {m : SMap α} {k j : Nat} {v : α}

@[simp] theorem mget_sins : mget (sins m k v) j = if j = k then some v else mget m j := by
  induction m with
  | nil => simp [sins, mget, eq_comm]
  | cons e m ih =>
    simp only [sins]
    split
    · simp_all [mget, eq_comm]
    · split
      · simp [mget, eq_comm]
      · simp_all only [mget]
        split <;> simp_all

@[simp] theorem mget_sdel_same : mget (sdel m k) k = none := by
  induction m with
  | nil => rfl
  | cons e m ih => simp only [sdel]; split <;> simp_all [mget]

end

/-! ## Updates of the cores -/

/-- The state without its cores. -/
def State.shell (s : State) : State := { s with cores := [] }

/-- States with the same shell differ in the cores alone. -/
theorem eq_of_shell {s t : State} (h : t.shell = s.shell) : t = { s with cores := t.cores } := by
  have e := congrArg (fun u : State => ({ u with cores := t.cores } : State)) h
  exact e

section
variable {s : State} {f : State → Nat → Core → Core} {l : List Nat} {k : Nat}

theorem foldl_modCore_eq : l.foldl (fun (s : State) k => s.modCore k (f s k)) s =
    { s with cores := (l.foldl (fun (s : State) k => s.modCore k (f s k)) s).cores } :=
  eq_of_shell (foldl_keeps State.shell (fun _ _ => by rfl) l s)

theorem core_foldl_modCore_of_notMem (hk : k ∉ l) : (l.foldl (fun (s : State) k => s.modCore k (f s k)) s).core k = s.core k := by
  induction l generalizing s with
  | nil => rfl
  | cons j l ih =>
    obtain ⟨hj, hl⟩ := not_or.1 (mt List.mem_cons.2 hk)
    exact (ih hl).trans (by simp [hj])

/-- A core of the list is updated once, in a state that differs from s in the cores alone. -/
theorem core_foldl_modCore_of_mem {P : Core → Prop} (hl : l.Nodup) (hk : k ∈ l) (h : ∀ cs, P (f { s with cores := cs } k (s.core k))) :
    P ((l.foldl (fun (s : State) k => s.modCore k (f s k)) s).core k) := by
  induction l generalizing s with
  | nil => cases hk
  | cons j l ih =>
    obtain ⟨hj, hl⟩ := List.nodup_cons.1 hl
    rw [List.foldl_cons]
    by_cases e : k = j
    · subst e
      rw [core_foldl_modCore_of_notMem hj, State.core_modCore, if_pos rfl]
      exact h s.cores
    · refine ih hl ((List.mem_cons.1 hk).resolve_left e) fun cs => ?_
      rw [State.core_modCore, if_neg e]
      exact h cs

theorem planCores_nodup (b : List Byte) : (planCores b).Nodup := List.nodup_range.filter _

end

end Sys2Proof.Machine
end

section
/-!
Cores that retire, the spare that adopts, and the replay of a unit (R20, R402, R403); O53.
-/
namespace Sys2Proof.Machine

section
variable {s : State} {core p q src : Nat}

/-! ## Retirement (R403) -/

/-- The state with a physical core retired, before a spare is chosen for it. -/
def State.retired (s : State) (core p : Nat) : State :=
  { s.setPhys p { s.physCore p with state := .retired } with retireDue := sdel s.retireDue core }

theorem retired_physCore_same : ((s.retired core p).physCore p).state = .retired := by
  simp [State.retired, State.physCore, State.setPhys]

theorem retired_physCore_other (h : q ≠ p) : (s.retired core p).physCore q = s.physCore q := by
  simp [State.retired, State.physCore, State.setPhys, h]

/-- A free spare other than the core that retires leaves a free spare, and the retired core is none. -/
theorem freeSpare_retired {r : Nat} (h : s.freeSpare r = some q) (hne : q ≠ p) :
    ∃ n, (s.retired core p).freeSpare r = some n ∧ n ≠ p := by
  have hgood := List.find?_some h
  have hfree : ((s.retired core p).freeSpare r).isSome = true := by
    refine List.find?_isSome.2 ⟨q, List.mem_of_find?_eq_some h, ?_⟩
    rw [retired_physCore_other hne]
    exact hgood
  obtain ⟨n, hn⟩ := Option.isSome_iff_exists.1 hfree
  refine ⟨n, hn, ?_⟩
  rintro rfl
  have hstate := List.find?_some hn
  simp [retired_physCore_same] at hstate

theorem retireCore_spare {n : Nat} (hp : s.physOf core = some p) (hn : (s.retired core p).freeSpare (regionOf core) = some n) :
    s.retireCore core src = { s.retired core p with adoptions := s.adoptions ++ [(core, n, src)] } := by
  unfold State.retireCore
  rw [hp]
  dsimp only
  split
  · next m hm =>
    obtain rfl : m = n := Option.some.inj (hm.symm.trans hn)
    rfl
  · next hnone => cases hnone.symm.trans hn

theorem coreRetirement_due (hd : mget s.retireDue core = some src) (hs : s.serving = true) (hu : s.unitStart core = true) :
    coreRetirement core s = s.retireCore core src := by
  simp [coreRetirement, hd, hs, hu]

theorem coreRetirement_waits (h : mget s.retireDue core = none ∨ s.unitStart core = false) : coreRetirement core s = s := by
  unfold coreRetirement
  rcases h with h | h
  · rw [h]
  · split <;> simp [h]

/-! ## Adoption (R20) -/

/-- A batch whose corpus has no deck in the slice of a core goes on when those that have are restarted. -/
theorem mem_batches_restartBatches {b : Nat × Batch} (hb : b ∈ s.batches)
    (h : ∀ x, s.corpus? b.1 = some x → (x.decks.any fun d => d.1 / 192 == core) = false) : b ∈ (s.restartBatches core).batches := by
  refine List.mem_map.2 ⟨b, hb, if_neg ?_⟩
  cases hc : s.corpus? b.1 with
  | none => simp [hc]
  | some x => simp [hc, h x hc]

section
variable {c c' : Core} {f : Task → Task} (h : c'.tasks = c.tasks.map f)
include h

/-- A task of a core whose tasks were all updated alike; a number that the core does not have reads as the initial task. -/
theorem task_of_tasks_map (k : Nat) : c'.task k = f (c.task k) ∨ c'.task k = Task.init ∧ c.task k = Task.init := by
  by_cases hk : k < c.tasks.length
  · exact .inl (by simp [Core.task, h, List.getD, hk])
  · exact .inr (by simp [Core.task, h, List.getD, hk])

theorem queue_of_tasks_map (hf : ∀ t, (f t).queue = []) (k : Nat) : (c'.task k).queue = [] := by
  rcases task_of_tasks_map h k with e | ⟨e, -⟩ <;> rw [e]
  · exact hf _
  · rfl

theorem tokens_of_tasks_map (hf : ∀ t, (f t).tokens = t.tokens) (k : Nat) : (c'.task k).tokens = (c.task k).tokens := by
  rcases task_of_tasks_map h k with e | ⟨e, e'⟩
  · rw [e, hf]
  · rw [e, e']

end

theorem settled_tokens {c : Core} {k : Nat} : (c.settled.task k).tokens = (c.task k).tokens :=
  tokens_of_tasks_map rfl (fun _ => by rfl) k

/-- What an adoption takes from a core, and what it leaves. -/
structure Adopted (c c' : Core) : Prop where
  scratch : c'.scratch = []
  dcm : c'.dcm = c.dcm
  decks : c'.decks = c.decks
  queue : ∀ k, (c'.task k).queue = []
  tokens : ∀ k, (c'.task k).tokens = (c.task k).tokens

/-- The state at the boundary at which a core's binding changes, before the core's memories are lost. -/
def State.rebound (s : State) (core q : Nat) : State :=
  { (s.advanceTo s.nextBoundary).restartBatches core with
    adoptions := s.adoptions.filter fun a => a.1 != core, coreMap := sput none s.coreMap core (some (some q)) }

@[simp] theorem rebound_fields : (s.rebound core q).time = (s.advanceTo s.nextBoundary).time ∧ (s.rebound core q).runs = s.runs ∧
    (s.rebound core q).batches = ((s.advanceTo s.nextBoundary).restartBatches core).batches ∧
    (s.rebound core q).adoptions = (s.adoptions.filter fun a => a.1 != core) ∧
    (s.rebound core q).coreMap = sput none s.coreMap core (some (some q)) := by
  refine ⟨?_, ?_, rfl, rfl, rfl⟩ <;> simp [State.rebound, State.restartBatches]

@[simp] theorem rebound_core {k : Nat} : (s.rebound core q).core k = s.core k := rfl

/-- An adoption in whose core no unit is in progress cuts none: what it leaves is the binding, the restarted batches and the core. -/
theorem spareCoreAdoption_idle {c : Nat} (hf : s.adoptions.find? (fun a => a.1 == core) = some (c, q, src)) (hs : s.serving = true)
    (hr : ∀ n ∈ s.plansOn core, ∀ r, s.run? n = some r → r.inStep = false) :
    ∃ f, (spareCoreAdoption core s).unreported = ((s.rebound core q).modCore core f).unreported ∧ ∀ x, Adopted x (f x) := by
  unfold spareCoreAdoption
  simp only [hf, hs]
  rw [if_neg (by simp), List.filter_eq_nil_iff (l := (s.advanceTo s.nextBoundary).plansOn core) |>.2 fun n hn => ?idle]
  case idle =>
    have h := hr n hn
    split
    · next r e => simp [h r e]
    · simp
  refine ⟨_, addRepair_unreported, fun x => ?_⟩
  exact
    { scratch := rfl
      dcm := rfl
      decks := rfl
      queue := queue_of_tasks_map (c := x.settled) rfl fun _ => rfl
      tokens := fun k => by
        refine Eq.trans ?_ settled_tokens
        exact tokens_of_tasks_map rfl (fun _ => by rfl) k }

/-! ## Replay (R402) -/

/-- The tasks of a plan as their snapshots hold them, on every core of the plan. -/
def State.restored (s : State) (image : List Byte) : State :=
  (planCores image).foldl (fun s c => s.modCore c fun x =>
    x.setTask (planTask image) ((x.task (planTask image)).restore (sget Task.init s.snaps (4 * c + planTask image)))) s

theorem restored_eq {b : List Byte} : s.restored b = { s with cores := (s.restored b).cores } := foldl_modCore_eq

theorem core_restored {b : List Byte} {k : Nat} (hk : k ∈ planCores b) :
    (s.restored b).core k = (s.core k).setTask (planTask b)
      (((s.core k).task (planTask b)).restore (sget Task.init s.snaps (4 * k + planTask b))) :=
  core_foldl_modCore_of_mem (P := (· = _)) (planCores_nodup b) hk fun _ => rfl

/-- A restored task holds what its snapshot holds, and nothing is queued. -/
theorem task_restored {b : List Byte} {k : Nat} (hk : k ∈ planCores b) (hlen : planTask b < (s.core k).tasks.length) :
    ((s.restored b).core k).task (planTask b) = ((s.core k).task (planTask b)).restore (sget Task.init s.snaps (4 * k + planTask b)) := by
  rw [core_restored hk, Core.task_setTask_same hlen]

theorem scratch_restored {b : List Byte} (k : Nat) : ((s.restored b).core k).scratch = (s.core k).scratch := by
  by_cases hk : k ∈ planCores b
  · rw [core_restored hk]; rfl
  · rw [State.restored, core_foldl_modCore_of_notMem hk]

/-- The run of a replayed unit; a step is counted again when it starts. -/
def Run.replay (r : Run) (stepped : Bool) : Run :=
  { r with broken := false, replayed := true, events := r.events ||| evReplayed, inStep := if stepped then false else r.inStep,
           step := if stepped then r.step - 1 else r.step }

theorem replay_handled {n : Nat} {pl : Plan} {r : Run} (hs : s.serving = true) (hp : s.plan? n = some pl) (hr : s.run? n = some r)
    (hb : r.broken = true) (hf : r.fail = none) (hh : s.handled pl.image = true) :
    replay n s = ((s.restored pl.image).setRun n (r.replay (planStepped pl.image))).hubInc rReplayCount 1 := by
  unfold replay
  rw [hp, hr]
  dsimp only
  rw [if_neg (by simp [hs, hb, hf, hh])]
  rfl

theorem run?_setRun {n m : Nat} {r : Run} : (s.setRun n r).run? m = if m = n then some r else s.run? m := mget_sins

end

/-- Settles O53, event by event: the retirement, the adoption where no unit is in progress, and the replay. -/
theorem coresRetireAndUnitsReplay : Obligations.CoresRetireAndUnitsReplay := by
  intro s hs
  refine ⟨?_, ?_, ?_, ?_⟩
  · intro core src p q hd hu hp hq hne
    obtain ⟨n, hn, hnp⟩ := freeSpare_retired (core := core) hq hne
    have run := (coreRetirement_due hd hs hu).trans (retireCore_spare hp hn)
    exact ⟨_, congrArg Host.Outcome.next run, rfl, retired_physCore_same (core := core), mget_sdel_same, n, rfl, hnp⟩
  · exact fun core h => congrArg Host.Outcome.next (coreRetirement_waits h)
  · intro core c q src hf hr
    obtain ⟨f, left, hadopt⟩ := spareCoreAdoption_idle hf hs hr
    refine ⟨spareCoreAdoption core s, rfl, ?_⟩
    generalize spareCoreAdoption core s = t at left
    have bound : t.coreMap = sput none s.coreMap core (some (some q)) := by simpa using congrArg State.coreMap left
    have adoptions : t.adoptions = s.adoptions.filter fun a => a.1 != core.val := by simpa using congrArg State.adoptions left
    have batches : t.batches = ((s.advanceTo s.nextBoundary).restartBatches core).batches := by simpa using congrArg State.batches left
    have time : t.time = (s.advanceTo s.nextBoundary).time := by simpa using congrArg State.time left
    have runs : t.runs = s.runs := by simpa using congrArg State.runs left
    have cores (d : Nat) : t.core d = if d = core then f (s.core core) else s.core d := by simpa using congrArg (State.core · d) left
    have self := hadopt (s.core core)
    refine ⟨by simp [State.physOf, bound], time, ?_, fun k _ => ?_, ?_, ?_, fun d hd => ?_, fun a ha => ?_,
      runs, fun b hb hout => ?_⟩
    · rw [cores, if_pos rfl, self.scratch]
    · rw [cores, if_pos rfl]
      exact ⟨self.queue k, self.tokens k⟩
    · rw [cores, if_pos rfl, self.dcm]
    · rw [cores, if_pos rfl, self.decks]
    · rw [cores, if_neg hd]
    · rw [adoptions] at ha
      simpa using (List.mem_filter.1 ha).2
    · rw [batches]
      exact mem_batches_restartBatches (s := s.advanceTo s.nextBoundary) hb hout
  · intro n p r hp hr hb hf hh hlen
    refine ⟨_, r.replay (planStepped p.image), congrArg Host.Outcome.next (replay_handled hs hp hr hb hf hh), ?_, ?_, rfl, rfl, rfl, rfl, ?_,
      fun k hk => ?_, scratch_restored, fun m hm => ?_⟩
    · rw [restored_eq]; rfl
    · exact run?_setRun.trans (if_pos rfl)
    · rw [restored_eq]
      exact State.hubWord_hubInc.trans (if_pos rfl)
    · intro snap a
      have ha : a = ((s.core k).task (planTask p.image)).restore snap := task_restored hk (hlen k hk)
      rw [ha]
      exact ⟨rfl, rfl, rfl, rfl, rfl, rfl⟩
    · rw [restored_eq]
      exact run?_setRun.trans (if_neg hm)

end Sys2Proof.Machine
end

section
/-!
MODEL_INSTALL and PLAN_LOAD (R120, R235, R236): how each of them begins, ends and fails; O41.
-/
namespace Sys2Proof.Machine

/-! ## Admitted commands -/

section
variable {s s' : State} {id op : Nat} {c : Cmd}

theorem cmd?_of_admitted (h : s.admitted id op = some c) : s.cmd? id = some c := by
  unfold State.admitted at h
  split at h
  · exact (Option.filter_eq_some_iff.1 h).1
  · cases h

theorem op_of_admitted (h : s.admitted id op = some c) : c.op = op := by
  unfold State.admitted at h
  split at h
  · simpa using (Option.filter_eq_some_iff.1 h).2
  · cases h

theorem id_of_admitted (h : s.admitted id op = some c) : c.id = id := by
  simpa using List.find?_some (cmd?_of_admitted h)

theorem stream?_modelInstall (h : c.op = 0x22) : c.stream? = none := by simp [Cmd.stream?, Cmd.names, h]

theorem stream?_planLoad (h : c.op = 0x30) : c.stream? = none := by simp [Cmd.stream?, Cmd.names, h]

/-- The command that is written is the one that its number finds. -/
theorem cmd?_setCmd (h : (s.cmd? c.id).isSome = true) : (s.setCmd c).cmd? c.id = some c := by
  have same : ((fun x : Cmd => x.id == c.id) ∘ fun x => if x.id = c.id then c else x) = fun x => x.id == c.id := by
    funext x
    by_cases e : x.id = c.id <;> simp [e]
  obtain ⟨x, hx⟩ := Option.isSome_iff_exists.1 h
  have hid : x.id = c.id := by simpa using List.find?_some hx
  unfold State.cmd? at hx
  unfold State.cmd? State.setCmd
  rw [List.find?_map, same, hx, Option.map_some, if_pos hid]

theorem cmd?_begin_ (h : (s.cmd? c.id).isSome = true) : (s.begin_ c).cmd? c.id = some { c with phase := .running } :=
  cmd?_setCmd (c := { c with phase := .running }) h

theorem hubStart_eq (h : s.hubStart c = some s') : s' = s.advanceTo s.nextBoundary := by
  simp only [State.hubStart] at h
  split at h
  · exact (Option.some.inj h).symm
  · cases h

end

/-! ## Decks that are given to a command -/

section
variable {s : State} {c : Cmd} {i j d id : Nat} {x : Deck} {fmt4 colcheck : Bool} {crc : Option (Nat × Nat)} {lines : List (List Byte)}

theorem deck_setDeck : (s.setDeck i x).deck j = if j = i then x else s.deck j := by
  split
  · next h => rw [h, State.deck_setDeck_same]
  · next h =>
    by_cases hq : j / 216 = i / 216
    · have hr : j % 216 ≠ i % 216 := by omega
      simp [State.deck, State.setDeck, hq, hr]
    · simp [State.deck, State.setDeck, hq]

/-- A write of a deck moves no logical deck to another position. -/
theorem deckIdx_setDeck : (s.setDeck i x).deckIdx d = s.deckIdx d := by
  unfold State.deckIdx State.setDeck
  rw [State.core_modCore]
  split
  · next h => rw [h]; rfl
  · rfl

/-- The deck is being programmed for a command, in a format. -/
structure Deck.GivenTo (x : Deck) (id : Nat) (fmt4 colcheck : Bool) : Prop where
  state : x.state = .programming
  programs : x.programs id = true
  fmt4 : x.fmt4 = fmt4
  colcheck : x.colcheck = colcheck

theorem deckIdx_giveProgram : (s.giveProgram c j fmt4 colcheck crc lines).deckIdx d = s.deckIdx d := deckIdx_setDeck

/-- A deck that is given to a command, or was before, is with it. -/
theorem givenTo_giveProgram (h : d = j ∨ (s.deck (s.deckIdx d)).GivenTo c.id fmt4 colcheck) :
    ((s.giveProgram c j fmt4 colcheck crc lines).deck (s.deckIdx d)).GivenTo c.id fmt4 colcheck := by
  unfold State.giveProgram
  dsimp only
  rw [deck_setDeck]
  split
  · exact ⟨rfl, by simp [Deck.programs], rfl, rfl⟩
  · next hne => exact h.resolve_left fun e => hne (e ▸ rfl)

variable {β : Type} {crcs : Nat × β → Option (Nat × Nat)} {body : Nat × β → List (List Byte)} {l : List (Nat × β)}

theorem givenTo_foldl_giveProgram (h : d ∈ l.map (·.1) ∨ (s.deck (s.deckIdx d)).GivenTo c.id fmt4 colcheck) :
    ((l.foldl (fun (s : State) e => s.giveProgram c e.1 fmt4 colcheck (crcs e) (body e)) s).deck (s.deckIdx d)).GivenTo c.id fmt4 colcheck := by
  induction l generalizing s with
  | nil => exact h.resolve_left (by simp)
  | cons e l ih =>
    have step := ih (s := s.giveProgram c e.1 fmt4 colcheck (crcs e) (body e))
    rw [deckIdx_giveProgram] at step
    rcases h with h | h
    · rcases List.mem_cons.1 h with h | h
      · exact step (.inr (givenTo_giveProgram (.inl h)))
      · exact step (.inl h)
    · exact step (.inr (givenTo_giveProgram (.inr h)))

theorem foldl_giveProgram_shell :
    (l.foldl (fun (s : State) e => s.giveProgram c e.1 fmt4 colcheck (crcs e) (body e)) s).shell = s.shell :=
  foldl_keeps State.shell (fun _ _ => by rfl) l s

theorem foldl_setDeck_eq {l : List Nat} {at_ : State → Nat → Nat} {x : State → Nat → Deck} :
    l.foldl (fun (s : State) k => s.setDeck (at_ s k) (x s k)) s =
      { s with cores := (l.foldl (fun (s : State) k => s.setDeck (at_ s k) (x s k)) s).cores } :=
  eq_of_shell (foldl_keeps State.shell (fun _ _ => by rfl) l s)

end

/-! ## MODEL_INSTALL (R120, R369) -/

section
variable {s : State} {id : Nat} {c : Cmd}

theorem modelInstall_waiting (ha : s.admitted id 0x22 = some c) (hp : c.phase = .waiting) (hm : s.mayStart c = true)
    (hd : (s.port c.port).dmaOn = true) : modelInstall id s = s.startInstall c := by
  simp [modelInstall, ha, hp, hm, hd]

theorem modelInstall_running (ha : s.admitted id 0x22 = some c) (hp : c.phase = .running) (hf : c.fail = none) :
    modelInstall id s = if s.allReady c.decks = true then s.endInstall c else s := by
  simp [modelInstall, ha, hp, hf]

theorem startInstall_refused {st : Nat} (h : s.decksStatus c = some st) : s.startInstall c = s.complete c (c.result st 0 0) := by
  simp [State.startInstall, h]

/-- An install from the host's bytes begins to program every deck that it names, in cores alone, and runs. -/
theorem startInstall_plain (h : s.decksStatus c = none) (hf : c.flag 0 = false) :
    ∃ g : State, s.startInstall c = g.begin_ { c with content := [] } ∧ g = { s with cores := g.cores } ∧
      ∀ d ∈ c.decks, (g.deck (s.deckIdx d)).GivenTo c.id (c.flag 1) false := by
  unfold State.startInstall
  simp only [h, hf]
  refine ⟨_, rfl, eq_of_shell foldl_giveProgram_shell, fun d hd => givenTo_foldl_giveProgram (.inl ?_)⟩
  rwa [List.map_fst_zip (by simp)]

/-- The record that an install leaves (R120, R423). -/
def State.installRecord (s : State) (c : Cmd) : Install := { part := c.part, decks := c.decks, digest := s.contentsDigest c.decks }

/-- An install of the host's bytes ends with its record: cores, the installs and the admitted commands change, and there is its report. -/
theorem endInstall_plain (hc : c.stream? = none) (hf : c.flag 0 = false) :
    ∃ cs, (s.endInstall c).unreported =
      ({ s with cores := cs, installs := s.installs ++ [s.installRecord c] } : State).unreported.without c.id := by
  unfold State.endInstall
  dsimp only
  rw [if_neg (by simp [hf]), complete_unreported hc, ite_unreported, hostWrite_unreported, ite_self, foldl_setDeck_eq]
  exact ⟨_, rfl⟩

end

/-! ## PLAN_LOAD (R235, R236) -/

section
variable {c : Core} {b : List Byte} {k : Nat}

theorem loadLayers_tasks : (c.loadLayers b k).tasks = c.tasks := by
  refine foldl_keeps Core.tasks (fun c e => ?_) _ _
  dsimp only
  split
  · rfl
  · exact foldl_keeps Core.tasks (fun _ _ => by rfl) _ _

theorem loadReserves_tasks : (c.loadReserves b k).tasks = c.tasks := by
  unfold Core.loadReserves
  split
  · rfl
  · refine foldl_keeps Core.tasks (fun c t => ?_) _ _
    split <;> rfl

end

section
variable {s : State} {b : List Byte} {n part stage base : Nat}

theorem loadPlan_eq : s.loadPlan b n part stage base =
    { s with plans := sins s.plans n { part := part, image := b, stageBase := stage, codeBase := base, chunks := 0 },
             cores := (s.loadPlan b n part stage base).cores } := foldl_modCore_eq

/-- The load puts the plan's task on every core of its mask (R236). -/
theorem task_loadPlan {k : Nat} (hk : k ∈ planCores b) (hlen : planTask b < (s.core k).tasks.length) :
    ((s.loadPlan b n part stage base).core k).task (planTask b) = planTaskOf b n part stage k := by
  refine core_foldl_modCore_of_mem (P := fun x => x.task (planTask b) = planTaskOf b n part stage k) (planCores_nodup b) hk fun cs => ?_
  refine Core.task_setTask_same ?_
  rw [loadReserves_tasks, loadLayers_tasks]
  exact hlen

/-- The state with a checked plan loaded, and its stream open. -/
def State.planOpened (s : State) (b : List Byte) (n part stage base : Nat) : State :=
  (s.loadPlan b n part stage base).setStream n
    { Stream.init with state := .idle, kind := 3, part := part, plan := n, openBeat := (s.loadPlan b n part stage base).beat,
                       prefill := 0xFFFF, stop := List.replicate 4 0xFFFFFFFF }

@[simp] theorem planOpened_fields :
    (s.planOpened b n part stage base).staging = s.staging ∧ (s.planOpened b n part stage base).cmds = s.cmds := by
  unfold State.planOpened
  rw [loadPlan_eq]
  exact ⟨rfl, rfl⟩

@[simp] theorem planOpened_plan? {m : Nat} : (s.planOpened b n part stage base).plan? m =
    if m = n then some { part := part, image := b, stageBase := stage, codeBase := base, chunks := 0 } else s.plan? m := by
  unfold State.planOpened
  rw [loadPlan_eq]
  exact mget_sins

theorem planOpened_stream_same : (s.planOpened b n part stage base).stream n =
    { Stream.init with state := .idle, kind := 3, part := part, plan := n, openBeat := (s.loadPlan b n part stage base).beat,
                       prefill := 0xFFFF, stop := List.replicate 4 0xFFFFFFFF } := State.stream_setStream.trans (if_pos rfl)

theorem planOpened_stream_other {m : Nat} (h : m ≠ n) : (s.planOpened b n part stage base).stream m = s.stream m := by
  unfold State.planOpened
  rw [State.stream_setStream, if_neg h, loadPlan_eq]
  rfl

@[simp] theorem planOpened_core {k : Nat} : (s.planOpened b n part stage base).core k = (s.loadPlan b n part stage base).core k := rfl

end

/-- The length that a PLAN_LOAD names is not that of the container, or too large (R227, R235). -/
def State.lengthWrong (s : State) (c : Cmd) : Prop :=
  c.par 0x20 4 ≠ (s.port c.port).host.num (c.par 0x18 8 + 0xC) 4 ∨ 0x1000000 < c.par 0x20 4

/-- The container that a PLAN_LOAD names, as the host wrote it. -/
def State.container (s : State) (c : Cmd) : List Byte := (s.port c.port).host.read (c.par 0x18 8) (c.par 0x20 4)

section
variable {s s' : State} {id base : Nat} {c : Cmd}

theorem port_hubStart {p : Nat} (hs : s.hubStart c = some s') : s'.port p = s.port p := by
  rw [hubStart_eq hs]
  rfl

variable (ha : s.admitted id 0x30 = some c) (hd : (s.port c.port).dmaOn = true) (hs : s.hubStart c = some s')
include ha hd hs

theorem planLoad_lengthWrong (h : s.lengthWrong c) : planLoad id s = s'.complete c { c.result stPlanInvalid 0 0 with reason := 2 } := by
  unfold State.lengthWrong at h
  simp only [planLoad, ha, hd, hs, port_hubStart hs, if_pos h, reduceCtorEq, if_false]

variable (hlen : ¬s.lengthWrong c)
include hlen

theorem planLoad_noRoom (h : s'.stageFree (c.par 0x20 4) = none) : planLoad id s = s'.complete c (c.result stQuotaExceeded 0 0) := by
  unfold State.lengthWrong at hlen
  simp only [planLoad, ha, hd, hs, port_hubStart hs, if_neg hlen, h, reduceCtorEq, if_false]

variable (hbase : s'.stageFree (c.par 0x20 4) = some base)
include hbase

theorem planLoad_rejected {st r : Nat} (h : (s'.stageContainer base (s.container c)).planCheck (s.container c) c.part base = some (st, r)) :
    planLoad id s = (s'.stageContainer base (s.container c)).complete c { c.result st 0 0 with reason := r } := by
  unfold State.lengthWrong at hlen
  unfold State.container at h ⊢
  simp only [planLoad, ha, hd, hs, port_hubStart hs, if_neg hlen, hbase, h, reduceCtorEq, if_false]

theorem planLoad_loads {n stage : Nat} (h : (s'.stageContainer base (s.container c)).planCheck (s.container c) c.part base = none)
    (hn : (s'.stageContainer base (s.container c)).freeStream = some n)
    (hw : (s'.stageContainer base (s.container c)).stageWindow (s.container c) base = some stage) :
    (planLoad id s).unreported =
      ((s'.stageContainer base (s.container c)).planOpened (s.container c) n c.part stage base).unreported.without c.id := by
  unfold State.lengthWrong at hlen
  unfold State.container at h hn hw ⊢
  simp only [planLoad, ha, hd, hs, port_hubStart hs, if_neg hlen, hbase, h, hn, hw, reduceCtorEq, if_false]
  exact complete_unreported (stream?_planLoad (op_of_admitted ha))

end

/-- Settles O41: an install and a load, each by what its start and its end leave. -/
theorem installsAndPlanLoads : Obligations.InstallsAndPlanLoads := by
  intro s id c
  refine ⟨fun ha hf hp hm hd => ⟨fun h => ?_, fun st h => ?_⟩, fun ha hf hp hfail hr => ?_, fun ha hp hfail hr => ?_, ?_⟩
  · obtain ⟨g, hstart, same, given⟩ := startInstall_plain h hf
    obtain rfl := id_of_admitted ha
    have found : g.cmd? c.id = some c := by
      rw [same]
      exact cmd?_of_admitted ha
    refine ⟨_, congrArg Host.Outcome.next ((modelInstall_waiting ha hp hm hd).trans hstart), ?_, fun d hd => ?_, ?_, ?_⟩
    · rw [cmd?_begin_ (c := { c with content := [] }) (by rw [found]; rfl)]
      rfl
    · exact ⟨(given d hd).state, (given d hd).programs, (given d hd).fmt4, (given d hd).colcheck⟩
    · rw [same]; rfl
    · rw [same]; rfl
  · exact congrArg Host.Outcome.next ((modelInstall_waiting ha hp hm hd).trans (startInstall_refused h))
  · obtain ⟨cs, left⟩ := endInstall_plain (s := s) (stream?_modelInstall (op_of_admitted ha)) hf
    refine ⟨_, congrArg Host.Outcome.next ((modelInstall_running ha hp hfail).trans (if_pos hr)), ?_, ?_, ?_⟩
    · simpa [id_of_admitted ha] using congrArg State.cmds left
    · simpa [State.installRecord] using congrArg State.installs left
    · simpa using congrArg State.streams left
  · exact congrArg Host.Outcome.next ((modelInstall_running ha hp hfail).trans (if_neg (by simp [hr])))
  · intro s' ha hd hs h len b
    have right (hlen : len = h.num (c.par 0x18 8 + 0xC) 4) (hmax : len ≤ 0x1000000) : ¬s.lengthWrong c :=
      not_or.2 ⟨not_not.2 hlen, not_lt.2 hmax⟩
    refine ⟨fun hwrong => congrArg Host.Outcome.next (planLoad_lengthWrong ha hd hs hwrong),
      fun hlen hmax hfree => congrArg Host.Outcome.next (planLoad_noRoom ha hd hs (right hlen hmax) hfree),
      fun base hlen hmax hbase => ?_⟩
    intro s2
    refine ⟨fun n stage hcheck hn hw => ?_, fun st r hcheck => ?_⟩
    · have left : (planLoad id s).unreported = (s2.planOpened b n c.part stage base).unreported.without c.id :=
        planLoad_loads ha hd hs (right hlen hmax) hbase hcheck hn hw
      refine ⟨planLoad id s, rfl, ?_⟩
      generalize planLoad id s = t at left
      obtain rfl := hubStart_eq hs
      have plan (m) := congrArg (State.plan? · m) left
      have stream (m) : t.stream m = (s2.planOpened b n c.part stage base).stream m := by simpa using congrArg (State.stream · m) left
      have staging : t.staging = s2.staging := by simpa using congrArg State.staging left
      have cmds : t.cmds = s2.cmds.filter fun x => x.id != id := by simpa [id_of_admitted ha] using congrArg State.cmds left
      have core (k) : t.core k = (s2.loadPlan b n c.part stage base).core k := by simpa using congrArg (State.core · k) left
      have opened := (stream n).trans planOpened_stream_same
      refine ⟨by simpa using plan n, staging, by rw [opened], by rw [opened], by rw [opened], by rw [opened], by rw [opened], cmds,
        fun m hm => ⟨?_, ?_⟩, fun k hk hlen => ?_⟩
      · have other : t.plan? m = s2.plan? m := by simpa [hm] using plan m
        exact other
      · exact (stream m).trans (planOpened_stream_other hm)
      · rw [core, task_loadPlan (s := s2) hk hlen]
        exact ⟨rfl, rfl⟩
    · exact congrArg Host.Outcome.next (planLoad_rejected ha hd hs (right hlen hmax) hbase hcheck)

end Sys2Proof.Machine
end

section
/-!
Steps of the queue (R31) and of the time base (R31-R41): the two equations of `step`, edges and dialogs, the writes that wait for a
boundary, the change of the beat length, and holdover; O1, O9 to O12.
-/
namespace Sys2Proof.Machine

theorem step_cons {s : State} {c : Instr} {rest : List Instr} (h : s.pending = c :: rest) :
    step s = exec c { s with pending := rest } := by
  rw [step, h]

theorem step_nil {s : State} (h : s.pending = []) : step s = .next (idleTick s) := by
  rw [step, h]

/-- Settles O1: the two cases of the queue. -/
theorem stepRunsFrontCommand : Obligations.StepRunsFrontCommand :=
  ⟨fun _ _ _ h => step_cons h, fun _ h => step_nil h⟩

/-! ## Hub registers and device time -/

section
variable {s : State} {o t : Nat}

@[simp] theorem hubWord_advanceTo : (s.advanceTo t).hubWord o = s.hubWord o := rfl

theorem now_advanceTo (h : s.time.now ≤ t) : (s.advanceTo t).time.now = t := by
  simp only [State.advanceTo]
  split <;> omega

end

/-! ## Inputs of the time base (R32, R33, R38) -/

section
variable {s : State} {edge o : Nat} {offset freq : Int}

/-- An edge in LOCKED: accepted within 10 us of a whole number of seconds after the last one, else rejected. -/
theorem ppsEdge_locked {l : Nat} (hd : s.dead = false) (hsrc : s.timeSource = 1) (hl : s.time.lock = .locked) (hlast : s.time.lastEdge = some l)
    (hnow : s.time.now ≤ edge) :
    ppsEdge edge freq s =
      if (secondsAfter (s.edgeBase l) edge).1 ≤ 10000 then
        ((s.advanceTo edge).measured (nearestSecond (edge + s.time.slew) - edge) freq).acceptEdge edge (nearestSecond (edge + s.time.slew) - edge)
      else (s.advanceTo edge).rejectEdge := by
  have go : ¬(s.dead = true ∨ s.timeSource ≠ 1 ∨ edge < s.time.now) := by
    simp [hd, hsrc, hnow]
  have locked : (s.advanceTo edge).time.lock = .locked := hl
  have last : (s.advanceTo edge).time.lastEdge = some l := hlast
  unfold ppsEdge
  rw [if_neg go]
  simp only [locked, last, reduceCtorEq, or_self, if_false, if_true]
  rfl

@[simp] theorem hubWord_measured : (s.measured offset freq).hubWord o =
    if o = rFreqOffset then BitVec.ofInt 32 freq else if o = rPhaseOffset then BitVec.ofInt 32 offset else s.hubWord o := by
  simp [State.measured]

@[simp] theorem hubWord_acceptEdge : (s.acceptEdge edge offset).hubWord o = s.hubWord o := rfl

@[simp] theorem slew_acceptEdge : (s.acceptEdge edge offset).time.slew = offset := rfl

@[simp] theorem hubWord_rejectEdge : s.rejectEdge.hubWord o = if o = rTimeEvents then s.hubWord rTimeEvents ||| 1 else s.hubWord o :=
  State.hubWord_hubOr

/-- The state after a good dialog in LOCKED: its offset and frequency are measured, and the offset is to be slewed. -/
def State.corrected (s : State) (offset freq : Int) : State :=
  { s.measured offset freq with time := { s.time with bad := 0, slew := offset } }

@[simp] theorem hubWord_corrected : (s.corrected offset freq).hubWord o = (s.measured offset freq).hubWord o := rfl

theorem ptmDialog_notDue {ok : Bool} (h : s.dialogDue = false) : ptmDialog ok offset freq s = s := by
  simp [ptmDialog, h]

theorem ptmDialog_failed (hd : s.dead = false) (hsrc : s.timeSource = 2) (h : s.dialogDue = true) :
    ptmDialog false offset freq s = { s with time := { s.time with dialogAt := some s.beat, bad := s.time.bad + 1, good := 0 } } := by
  simp [ptmDialog, hd, hsrc, h]

theorem ptmDialog_locked (hd : s.dead = false) (hsrc : s.timeSource = 2) (h : s.dialogDue = true) (hup : (s.port s.ptmPort).linkUp = true)
    (hl : s.time.lock = .locked) :
    ptmDialog true offset freq s = ({ s with time := { s.time with dialogAt := some s.beat } } : State).corrected offset freq := by
  let u : State := { s with time := { s.time with dialogAt := some s.beat } }
  have go : ¬(s.dead = true ∨ s.timeSource ≠ 2 ∨ s.dialogDue = false) := by simp [hd, hsrc, h]
  have up : ¬((!true) = true ∨ (u.port u.ptmPort).linkUp = false) := by
    rintro (e | e)
    · cases e
    · cases hup.symm.trans e
  have stays : (if u.time.lock = .free ∨ u.time.lock = .holdover then u.acquire else u) = u :=
    if_neg (by rintro (e | e) <;> cases hl.symm.trans e)
  have locked : ((if u.time.lock = .free ∨ u.time.lock = .holdover then u.acquire else u).measured offset freq).time.lock = .locked := by
    rw [stays]
    exact hl
  exact (if_neg go).trans ((if_neg up).trans ((if_pos locked).trans (congrArg (State.corrected · offset freq) stays)))

theorem timeFreqLost_noted (hd : s.dead = false) (hp : s.time.freqPresent = true) (h : ¬(s.timeSource = 1 ∧ s.time.lock = .locked)) :
    timeFreqLost s = { s with time := { s.time with freqPresent := false } } :=
  (if_neg (by simp [hd, hp])).trans (if_neg h)

theorem timeFreqRestored_noted (hd : s.dead = false) (h0 : fld (s.hubWord rTimeCtrl) 7 6 ≠ 0) (h3 : fld (s.hubWord rTimeCtrl) 7 6 ≠ 3) :
    timeFreqRestored s = { s with time := { s.time with freqPresent := true } } :=
  if_neg (by simp [hd, h0, h3])

end

/-- Settles O9, input by input. -/
theorem timeInputsTakeEffect : Obligations.TimeInputsTakeEffect := by
  intro s hd
  refine ⟨fun edge freq l hsrc hl hlast hnow => ?_, fun ok offset freq _ hwait => ?_, fun offset freq hsrc hdue => ⟨?_, fun hup hl => ?_⟩,
    fun hp h => congrArg Host.Outcome.next (timeFreqLost_noted hd hp h),
    fun h0 h3 => congrArg Host.Outcome.next (timeFreqRestored_noted hd h0 h3)⟩
  · have run := ppsEdge_locked (freq := freq) hd hsrc hl hlast hnow
    refine ⟨_, congrArg Host.Outcome.next run, ?_⟩
    split
    · refine ⟨rfl, now_advanceTo hnow, hl, rfl, rfl, rfl, ?_, ?_, fun o h1 h2 => ?_⟩ <;> simp_all [rPhaseOffset, rFreqOffset]
    · refine ⟨rfl, now_advanceTo hnow, hl, hlast, rfl, ?_, fun o h => ?_⟩ <;> simp_all
  · obtain ⟨b, hb, hle, hlt⟩ := hwait
    refine congrArg Host.Outcome.next (ptmDialog_notDue ?_)
    simp only [State.dialogDue, hb]
    simp
    omega
  · exact congrArg Host.Outcome.next (ptmDialog_failed hd hsrc hdue)
  · refine ⟨_, congrArg Host.Outcome.next (ptmDialog_locked hd hsrc hdue hup hl), rfl, rfl, ?_, ?_⟩
    · simp [rPhaseOffset, rFreqOffset]
    · simp

/-! ## Writes of TIME_CTRL and source changes (R37) -/

section
variable {s : State} {v : Word}

theorem timeCtrlWrite_waits (hd : s.dead = false) : timeCtrlWrite v s = { s with time := { s.time with ctrlPending := some v } } :=
  if_neg (by simp [hd])

theorem sourceChange_due (hd : s.dead = false) (hp : s.time.ctrlPending = some v)
    (hc : isSourceChange (s.hubWord rTimeCtrl) (timeCtrlNew (s.hubWord rTimeCtrl) v) = true) :
    sourceChange s = (s.advanceTo s.nextBoundary).applyTimeCtrl := by
  simp [sourceChange, hp, hd, hc]

/-- A source change that takes effect: TIME_CTRL takes its value, and the time base and the stored source change. -/
theorem applyTimeCtrl_source (hp : s.time.ctrlPending = some v)
    (hc : isSourceChange (s.hubWord rTimeCtrl) (timeCtrlNew (s.hubWord rTimeCtrl) v) = true) :
    ∃ tm cfg, s.applyTimeCtrl = { s.setHub rTimeCtrl (timeCtrlNew (s.hubWord rTimeCtrl) v) with time := tm, config := cfg } ∧
      tm.now = s.time.now ∧ tm.ctrlPending = none ∧
      tm.lock = if fld (timeCtrlNew (s.hubWord rTimeCtrl) v) 1 0 = 0 then .free else .acquiring := by
  unfold State.applyTimeCtrl
  rw [hp]
  simp only [hc, if_true]
  split
  · exact ⟨_, _, rfl, rfl, rfl, rfl⟩
  · exact ⟨_, _, rfl, rfl, rfl, rfl⟩

end

/-- Settles O11: the write, and the change at the next beat boundary. -/
theorem timeControlWritesWait : Obligations.TimeControlWritesWait := by
  intro s hd
  refine ⟨fun v => congrArg Host.Outcome.next (timeCtrlWrite_waits hd), fun v hp hc => ?_⟩
  obtain ⟨tm, cfg, run, hnow, hpending, hlock⟩ := applyTimeCtrl_source (s := s.advanceTo s.nextBoundary) hp hc
  refine ⟨_, congrArg Host.Outcome.next ((sourceChange_due hd hp hc).trans run), rfl, hnow, hpending, ?_, fun o ho => ?_, hlock⟩
  · exact State.hubWord_setHub.trans (if_pos rfl)
  · exact State.hubWord_setHub.trans (if_neg ho)

/-! ## The beat length (R40, R41) -/

theorem beatNsOf_pos (code : Nat) : 0 < beatNsOf code := by
  unfold beatNsOf
  split <;> decide

theorem State.beatNs_pos {s : State} : 0 < s.beatNs := beatNsOf_pos _

/-- Each beat length divides every longer one. -/
theorem beatNsOf_dvd {a b : Nat} (h : beatNsOf a ≤ beatNsOf b) : beatNsOf a ∣ beatNsOf b := by
  unfold beatNsOf at *
  split at h <;> split at h <;> omega

theorem le_ceilDiv_mul {a b : Nat} (hb : 0 < b) : a ≤ ceilDiv a b * b := by
  have h := Nat.div_add_mod (a + b - 1) b
  have := Nat.mod_lt (a + b - 1) hb
  unfold ceilDiv
  rw [Nat.mul_comm]
  omega

section
variable {s : State} {v : Word} {code : Nat}

theorem beatLenWrite_eq (hd : s.dead = false) :
    beatLenWrite v s = if s.time.lenLocked then s.frameError 4 else if fld v 1 0 = s.beatCode then s
      else { s with time := { s.time with lenPending := some (fld v 1 0) } } :=
  if_neg (by simp [hd])

/-- The longer of the present beat length and a waiting one. -/
def State.longerBeat (s : State) (code : Nat) : Nat := if s.beatNs < beatNsOf code then beatNsOf code else s.beatNs

theorem longerBeat_dvd : s.beatNs ∣ s.longerBeat code ∧ beatNsOf code ∣ s.longerBeat code := by
  unfold State.longerBeat
  split
  · next h => exact ⟨beatNsOf_dvd h.le, dvd_rfl⟩
  · next h => exact ⟨dvd_rfl, beatNsOf_dvd (not_lt.1 h)⟩

/-- The change comes at the next boundary of the longer length. -/
theorem beatLenChange_due (hd : s.dead = false) (hp : s.time.lenPending = some code) :
    ∃ u, u = (s.advanceTo (ceilDiv s.time.now (s.longerBeat code) * s.longerBeat code)).setHub rBeatCfg (BitVec.ofNat 32 code) ∧
      beatLenChange s = { u with time := { u.time with lenPending := none }, frame := { u.frame with origin := u.beat } } := by
  refine ⟨_, rfl, ?_⟩
  unfold beatLenChange
  rw [hp]
  exact if_neg (by simp [hd])

theorem beatNs_setHub (h : code < 4) : (s.setHub rBeatCfg (BitVec.ofNat 32 code)).beatNs = beatNsOf code := by
  have hc : (s.setHub rBeatCfg (BitVec.ofNat 32 code)).beatCode = code := by
    simp only [State.beatCode, State.hubWord_setHub, if_true, fld, BitVec.toNat_ofNat]
    interval_cases code <;> rfl
  rw [State.beatNs, hc]

end

/-- Settles O12: the write, and the change at a boundary of both lengths. -/
theorem beatLengthChanges : Obligations.BeatLengthChanges := by
  intro s hd
  refine ⟨fun v => congrArg Host.Outcome.next (beatLenWrite_eq hd), fun code hcode hp => ?_⟩
  obtain ⟨u, hu, run⟩ := beatLenChange_due hd hp
  have hpos : 0 < s.longerBeat code := by
    unfold State.longerBeat
    split
    · exact beatNsOf_pos _
    · exact State.beatNs_pos
  have hlater : s.time.now ≤ ceilDiv s.time.now (s.longerBeat code) * s.longerBeat code := le_ceilDiv_mul hpos
  have hnow : u.time.now = ceilDiv s.time.now (s.longerBeat code) * s.longerBeat code := by rw [hu]; exact now_advanceTo hlater
  have hns : u.beatNs = beatNsOf code := by rw [hu]; exact beatNs_setHub hcode
  have hdvd := longerBeat_dvd (s := s) (code := code)
  refine ⟨_, congrArg Host.Outcome.next run, ?_, hns, rfl, ?_, ?_, ?_, ?_⟩
  · rw [hu]; rfl
  · exact Nat.mod_eq_zero_of_dvd (hnow ▸ hdvd.2.mul_left _)
  · exact Nat.mod_eq_zero_of_dvd (hnow ▸ hdvd.1.mul_left _)
  · exact hnow ▸ hlater
  · rw [← hns]; rfl

/-! ## Holdover (R32, R35, R36) -/

section
variable {s : State}

/-- The fault of the time base is a report and nothing more. -/
@[simp] theorem timeFault_unreported : s.timeFault.unreported = s.unreported :=
  (reportOnly_unreported (by decide) (by decide)).trans portEvents_unreported

/-- The state with the hub's event of a change of the lock state, and that change. -/
def State.relocked (s : State) (event : Word) (tm : TimeBase) : State := { s.hubOr rTimeEvents event with time := tm }

@[simp] theorem relocked_unreported {e : Word} {tm : TimeBase} : (s.relocked e tm).unreported = { s.unreported with time := tm } := rfl

/-- The time base that has entered HOLDOVER at the next beat boundary. -/
def State.heldOver (s : State) : TimeBase :=
  { s.time with now := (s.advanceTo s.nextBoundary).time.now, lock := .holdover,
                holdoverAt := some (s.advanceTo s.nextBoundary).time.now, changedAt := none, good := 0 }

theorem holdoverEntered_met (hd : s.dead = false) (h : s.lossMet = true) :
    holdoverEntered s = (s.relocked 8 s.heldOver).timeFault :=
  if_neg (by simp [hd, h])

theorem holdoverExpired_due {t : Nat} (hd : s.dead = false) (hl : s.time.lock = .holdover) (ht : s.time.holdoverAt = some t)
    (hdue : second * s.holdoverLimit + t ≤ s.time.now) :
    holdoverExpired s = (s.relocked 4 { s.time with lock := .free, holdoverAt := none }).timeFault := by
  unfold holdoverExpired
  rw [hl, ht]
  exact if_neg (by simp [hd, hdue])

/-- What a change of the lock state with its fault leaves. -/
theorem relocked_timeFault {e : Word} {tm : TimeBase} {t : State} (ht : t = (s.relocked e tm).timeFault) :
    t.time = tm ∧ t.frame = s.frame ∧ t.streams = s.streams ∧ t.plans = s.plans ∧ t.cmds = s.cmds ∧ t.cores = s.cores := by
  have left : t.unreported = { s.unreported with time := tm } := by rw [ht, timeFault_unreported, relocked_unreported]
  exact ⟨(congrArg State.time left :), (congrArg State.frame left :), (congrArg State.streams left :), (congrArg State.plans left :),
    (congrArg State.cmds left :), (congrArg State.cores left :)⟩

end

/-- Settles O10: both changes of the lock state by `relocked_timeFault`. -/
theorem holdoverEntersAndExpires : Obligations.HoldoverEntersAndExpires := by
  intro s hd
  exact ⟨fun h => ⟨_, rfl, relocked_timeFault (holdoverEntered_met hd h)⟩,
    fun _ hl ht hdue => ⟨_, rfl, relocked_timeFault (holdoverExpired_due hd hl ht hdue)⟩⟩

end Sys2Proof.Machine
end

section
/-!
Commands of order and of statistics (R53, R372-R374); O34.
-/
namespace Sys2Proof.Machine

section
variable {s s' : State} {id : Nat} {c : Cmd} {ring : Bool}

/-- A command may start where its not-before beat has come and no command admitted before it holds it back. -/
theorem mayStart_iff : s.mayStart c = true ↔ c.notBefore ≤ s.beat ∧ ∀ e ∈ s.cmds, e.id < c.id → s.blocks e c = false := by
  simp only [State.mayStart, Bool.and_eq_true, decide_eq_true_eq, List.all_eq_true, Bool.or_eq_true, Bool.not_eq_true']
  exact and_congr_right fun _ => forall₂_congr fun e _ => by rw [← not_lt, imp_iff_not_or]

theorem hubStart_some (h : s.hubStart c = some s') :
    s' = s.advanceTo s.nextBoundary ∧ c.notBefore ≤ s'.beat ∧ ∀ e ∈ s.cmds, e.id < c.id → s'.blocks e c = false := by
  obtain rfl := hubStart_eq h
  refine ⟨rfl, mayStart_iff.1 ?_⟩
  by_contra hno
  simp [State.hubStart, hno] at h

theorem fence_started (ha : s.admitted id 0x50 = some c) (hs : s.hubStart c = some s') (hf : c.flag 0 = ring) :
    fence ring id s = s'.complete c (c.result stSuccess 0 0) := by
  simp [fence, ha, hs, hf]

theorem fence_other (ha : s.admitted id 0x50 = some c) (hf : c.flag 0 ≠ ring) : fence ring id s = s := by
  simp [fence, ha, hf]

theorem fence_waits (ha : s.admitted id 0x50 = some c) (hs : s.hubStart c = none) : fence ring id s = s := by
  simp [fence, ha, hs]

theorem timeWait_started (ha : s.admitted id 0x51 = some c) (hs : s.hubStart c = some s') :
    timeWait id s = s'.complete c (c.result stSuccess 0 0) := by
  simp [timeWait, ha, hs]

theorem timeWait_waits (ha : s.admitted id 0x51 = some c) (hs : s.hubStart c = none) : timeWait id s = s := by
  simp [timeWait, ha, hs]

theorem stats_admitted (ha : s.admitted id 0x52 = some c) : stats id s = (s.doStats c).1.complete c (s.doStats c).2 := by
  simp [stats, ha]

theorem stream?_stats (h : c.op = 0x52) : c.stream? = none := if_pos h

/-- The state in which STATS has counted itself in its stream's entry (R289). -/
def State.statsCounted (s : State) (c : Cmd) : State :=
  s.setStream c.named { s.stream c.named with lastTime := s.time.now, commands := (s.stream c.named).commands + 1 }

@[simp] theorem stream_statsCounted {m : Nat} : (s.statsCounted c).tookFree.stream m =
    if m = c.named then { s.stream c.named with lastTime := s.time.now, commands := (s.stream c.named).commands + 1 } else s.stream m :=
  State.stream_setStream

@[simp] theorem stepLength_statsCounted : (s.statsCounted c).tookFree.stepLength c.named = s.stepLength c.named := by
  simp only [State.stepLength, stream_statsCounted, if_true]
  rfl

/-- STATS writes the entry of its stream, and with its flag the service block. -/
theorem doStats_eq : s.doStats c =
    ((s.statsCounted c).tookFree.hostWrite c.port (c.par 0x18 8) (s.streamEntry c.named ++ (if c.flag 0 then s.serviceBlock c.part else [])),
      { Result.plain stSuccess c.named with r0 := s.stepLength c.named }) :=
  congrArg (fun r0 => (_, { Result.plain stSuccess c.named with r0 := r0 })) stepLength_statsCounted

/-- A command that writes to the host and completes outside every stream's order leaves the streams. -/
theorem hostWrite_complete_unreported {a : Nat} {bs : List Byte} {r : Result} (h : c.stream? = none) :
    ((s.hostWrite c.port a bs).complete c r).unreported = s.unreported.without c.id := by
  rw [complete_unreported h, hostWrite_unreported]

end

/-- Settles O34, command by command. -/
theorem orderCommandsComplete : Obligations.OrderCommandsComplete := by
  intro s id c
  refine ⟨fun s' h => hubStart_some h, fun s' ha hs => ⟨fun hf => ⟨?_, ?_⟩, fun hf => ⟨?_, ?_⟩⟩, fun s' ha hs => ?_,
    fun hs => ⟨fun ha => ⟨?_, ?_⟩, fun ha => ?_⟩, fun ha => ?_⟩
  · exact congrArg Host.Outcome.next (fence_started ha hs hf)
  · exact congrArg Host.Outcome.next (fence_other ha (by simp [hf]))
  · exact congrArg Host.Outcome.next (fence_started ha hs hf)
  · exact congrArg Host.Outcome.next (fence_other ha (by simp [hf]))
  · exact congrArg Host.Outcome.next (timeWait_started ha hs)
  · exact congrArg Host.Outcome.next (fence_waits ha hs)
  · exact congrArg Host.Outcome.next (fence_waits ha hs)
  · exact congrArg Host.Outcome.next (timeWait_waits ha hs)
  · have run := stats_admitted ha
    rw [doStats_eq] at run
    have left := hostWrite_complete_unreported (s := (s.statsCounted c).tookFree) (a := c.par 0x18 8)
      (bs := s.streamEntry c.named ++ (if c.flag 0 then s.serviceBlock c.part else []))
      (r := { Result.plain stSuccess c.named with r0 := s.stepLength c.named }) (stream?_stats (op_of_admitted ha))
    rw [← run] at left
    have stream (m : Nat) : (stats id s).stream m = (s.statsCounted c).tookFree.stream m := (congrArg (State.stream · m) left :)
    refine ⟨stats id s, rfl, ?_, ?_, ?_, fun m hm => ?_, run⟩
    · have cmds : (stats id s).cmds = s.cmds.filter fun x => x.id != c.id := (congrArg State.cmds left :)
      rwa [id_of_admitted ha] at cmds
    · simp [stream]
    · simp [stream]
    · simp [stream, hm]

end Sys2Proof.Machine
end

section
/-!
What reaches the ports and the messages alone, and the start of service by DEVICE_READY (R345, R349); O21.
-/
namespace Sys2Proof.Machine

/-! ## Updates of the ports -/

/-- The state without its ports and messages. -/
def State.unported (s : State) : State := { s with ports := [], out := [] }

section
variable {s t : State} {p : Nat}

/-- States that are alike without their ports and messages differ in these alone. -/
theorem eq_of_unported (h : t.unported = s.unported) : t = { s with ports := t.ports, out := t.out } := by
  have e := congrArg (fun u : State => ({ u with ports := t.ports, out := t.out } : State)) h
  exact e

@[simp] theorem ite_unported (c : Prop) [Decidable c] (a b : State) :
    (if c then a else b).unported = if c then a.unported else b.unported := apply_ite _ _ _ _

@[simp] theorem setPort_unported {x : Port} : (s.setPort p x).unported = s.unported := rfl
@[simp] theorem emit_unported {m : Msg} : (s.emit m).unported = s.unported := rfl
@[simp] theorem hostWrite_unported {a : Nat} {bs : List Byte} : (s.hostWrite p a bs).unported = s.unported := by simp [State.hostWrite]
@[simp] theorem sendMsix_unported {v : Nat} : (s.sendMsix p v).unported = s.unported := by simp [State.sendMsix]
@[simp] theorem portEvent_unported {bit : Nat} : (s.portEvent p bit).unported = s.unported := by simp [State.portEvent]

@[simp] theorem portEvents_unported {ps : List Nat} {bit : Nat} : (s.portEvents ps bit).unported = s.unported :=
  foldl_keeps State.unported (fun _ _ => portEvent_unported) ps s

end

/-! ## DEVICE_READY -/

/-- A block that has booted and is made ready, before its ports say so. -/
def State.madeReady (s : State) : State :=
  { s with boot := { s.boot with phase := .ready }, time := { s.time with lenLocked := true }, mgmt := { s.mgmt with lastFuse := s.time.now } }

theorem deviceReady_unported {s : State} (hd : s.dead = false) (hb : s.boot.phase = .booted) :
    (deviceReady s).unported = s.madeReady.unported := by
  unfold deviceReady
  rw [if_neg (by simp [hd, hb])]
  exact portEvents_unported.trans (foldl_keeps State.unported (fun _ _ => setPort_unported) _ _)

theorem serving_iff {s : State} : s.serving = true ↔ s.dead = false ∧ s.boot.phase = .ready := by
  simp [State.serving, State.dead]

/-- Settles O21: beside its ports and messages the state is the one made ready. -/
theorem deviceReadySets : Obligations.DeviceReadySets := by
  intro s hd hb
  have left := deviceReady_unported hd hb
  exact ⟨_, rfl, eq_of_unported left, (congrArg State.serving left).trans (serving_iff.2 ⟨hd, rfl⟩)⟩

end Sys2Proof.Machine
end

section
/-!
What the record of an event writes in the hub (R397-R400): the fault registers from FLT_STICKY to the counter of the event's source.
-/
namespace Sys2Proof.Machine

section
variable {s : State} {o src inst lvl : Nat}

@[simp] theorem reportAttention_unported {level : Nat} {parts : List Nat} : (s.reportAttention src level parts).unported = s.unported := by
  have fold := foldl_keeps State.unported (g := fun s q => s.portEvents (s.partPorts q) 1) (fun _ _ => portEvents_unported) parts s
  simp [State.reportAttention, fold]

@[simp] theorem aerOn_unported {ps : List Nat} {fatal : Bool} : (s.aerOn ps fatal).unported = s.unported := by
  simp only [State.aerOn]
  exact foldl_keeps State.unported (fun _ _ => by rfl) ps s

@[simp] theorem hubWord_reportAttention {level : Nat} {parts : List Nat} : (s.reportAttention src level parts).hubWord o = s.hubWord o :=
  (congrArg (State.hubWord · o) reportAttention_unported :)

@[simp] theorem hubWord_aerOn {ps : List Nat} {fatal : Bool} : (s.aerOn ps fatal).hubWord o = s.hubWord o :=
  (congrArg (State.hubWord · o) aerOn_unported :)

@[simp] theorem hubWord_setFaultInst {f : FaultInst} : (s.setFaultInst f).hubWord o = s.hubWord o := by
  unfold State.setFaultInst
  split <;> rfl

@[simp] theorem hubWord_severeEnd : (s.severeEnd src inst).hubWord o = s.hubWord o := by simp [State.severeEnd]

@[simp] theorem hubWord_fatal : (s.fatal src).hubWord o = s.hubWord o := by
  have told (u : State) : (if u.mgmt.eventsOn then u.emit (.platformEvent src 3) else u).hubWord o = u.hubWord o := by split <;> rfl
  exact (told _).trans hubWord_aerOn

/-- A register below FLT_STICKY, or above the counter of a source, is none that an event of the source writes. -/
def besideEvents (src o : Nat) : Prop := o < rFltSticky ∨ rFltCount + 4 * src < o

variable (h : besideEvents src o)
include h

theorem hubWord_countEvent : (s.countEvent src inst).hubWord o = s.hubWord o := by
  have hsticky : o ≠ rFltSticky := by unfold besideEvents rFltSticky rFltCount at *; omega
  have hcount : o ≠ rFltCount + 4 * src := by unfold besideEvents rFltSticky rFltCount at *; omega
  have regs : ((s.hubOr rFltSticky (BitVec.ofNat 32 (2 ^ src))).hubInc (rFltCount + 4 * src) 1).hubWord o = s.hubWord o := by
    simp [hsticky, hcount]
  unfold State.countEvent
  dsimp only
  split
  · exact regs
  · exact regs

theorem hubWord_severeReport : (s.severeReport src inst).hubWord o = s.hubWord o := by
  have hne : o ≠ rSevereCount := by unfold besideEvents rFltSticky rFltCount rSevereCount at *; omega
  simp [State.severeReport, hne]

theorem hubWord_recordEvent : (s.recordEvent src inst lvl).1.hubWord o = s.hubWord o := by
  have hne : o ≠ rEscalateCount := by unfold besideEvents rFltSticky rFltCount rEscalateCount at *; omega
  unfold State.recordEvent
  simp only [apply_ite Prod.fst, apply_ite (State.hubWord · o), hubWord_severeReport h, hubWord_fatal, State.hubWord_hubInc, if_neg hne,
    hubWord_reportAttention, hubWord_setFaultInst, hubWord_countEvent h, ite_self]

theorem hubWord_reportOnly : (s.reportOnly src inst lvl).hubWord o = s.hubWord o := by
  unfold State.reportOnly
  dsimp only
  split
  · rw [hubWord_severeEnd, hubWord_recordEvent h]
  · exact hubWord_recordEvent h

end

end Sys2Proof.Machine
end

section
/-!
The beat boundary with nothing waiting, and the start and the end of a run of a region (R31, R40, R43, R46, R202); O19.
-/
namespace Sys2Proof.Machine

/-! ## What the power control changes at a boundary -/

/-- The state without its regions and messages. -/
def State.unregioned (s : State) : State := { s with regions := [], out := [] }

/-- The service states of the regions. -/
def State.services (s : State) : List Service := s.regions.map (·.service)

section
variable {s t : State} {r : Nat} {x : Region}

/-- States that are alike without their regions and messages differ in these alone. -/
theorem eq_of_unregioned (h : t.unregioned = s.unregioned) : t = { s with regions := t.regions, out := t.out } := by
  have e := congrArg (fun u : State => ({ u with regions := t.regions, out := t.out } : State)) h
  exact e

theorem setRegion_services (h : x.service = (s.region r).service) : (s.setRegion r x).services = s.services := by
  refine List.ext_getElem? fun i => ?_
  rw [State.services, State.services, State.setRegion, List.map_set, List.getElem?_set, h]
  by_cases hi : r = i
  · subst hi
    by_cases hr : r < s.regions.length <;> simp [State.region, List.getD, hr]
  · rw [if_neg hi]

theorem sleepy_congr (hh : t.hub = s.hub) (hs : t.services = s.services) : t.sleepy = s.sleepy := by
  have any (u : State) : u.regions.any (fun x => decide (x.service = .entering)) = u.services.any fun v => decide (v = .entering) := by
    simp [State.services, List.any_map, Function.comp_def]
  have hib : t.hubWord rHibStatus = s.hubWord rHibStatus := by unfold State.hubWord; rw [hh]
  rw [State.sleepy, State.sleepy, any, any, hs, hib]

/-- The control of the regions' points and levels leaves all but the regions and messages, and every service state. -/
def State.besideLevels (s : State) : State × List Service := (s.unregioned, s.services)

theorem setRegion_besideLevels (h : x.service = (s.region r).service) : (s.setRegion r x).besideLevels = s.besideLevels :=
  Prod.ext rfl (setRegion_services h)

theorem command_besideLevels {v : Nat} : (s.command r v).besideLevels = s.besideLevels := rfl

theorem seekPoint_besideLevels {v : Nat} : (s.seekPoint r v).besideLevels = s.besideLevels := by
  unfold State.seekPoint
  dsimp only
  split
  · exact setRegion_besideLevels (by rfl)
  · split
    · exact setRegion_besideLevels (by rfl)
    · split
      · rfl
      · exact command_besideLevels.trans (setRegion_besideLevels (by rfl))

theorem setLevels_besideLevels : s.setLevels.besideLevels = s.besideLevels := by
  unfold State.setLevels
  exact foldl_keeps State.besideLevels (fun _ _ => seekPoint_besideLevels.trans (setRegion_besideLevels (by rfl))) _ _

theorem predictBeat_besideLevels : s.predictBeat.besideLevels = s.besideLevels := by
  unfold State.predictBeat
  exact foldl_keeps State.besideLevels (fun _ _ => setRegion_besideLevels (by rfl)) _ _

/-! ## The boundary -/

/-- The boundary's slewing, cadences and phase tags. -/
def State.boundaryBegun (s : State) : State :=
  ({ s.slewStep with ports := s.ports.map Port.takeCadence } : State).mapCores fun _ c => { c with tasks := c.tasks.map Task.takePhase }

/-- A boundary at which these, the levels and the predictions are all that takes effect. -/
def State.quietBoundary (s : State) : State := s.boundaryBegun.setLevels.predictBeat

theorem quietBoundary_besideLevels : s.quietBoundary.besideLevels = s.boundaryBegun.besideLevels :=
  predictBeat_besideLevels.trans setLevels_besideLevels

theorem quietBoundary_eq : ∃ cores regions out, s.quietBoundary =
    { s.slewStep with ports := s.ports.map Port.takeCadence, cores := cores, regions := regions, out := out } := by
  exact ⟨_, _, _, eq_of_unregioned (congrArg Prod.fst quietBoundary_besideLevels)⟩

theorem testDeadlines_nil (h : s.cmds = []) : s.testDeadlines = s := by
  rw [State.testDeadlines, h]
  rfl

theorem settleSleep_awake (h : s.sleepy = false) : s.settleSleep = s := by
  simp [State.settleSleep, h]

theorem atBoundary_quiet (hc : s.cmds = []) (hs : s.sleepy = false) (ht : s.time.ctrlPending = none) (hp : s.power.cfgPending = none)
    (hb : s.braked = false) : s.atBoundary = s.quietBoundary := by
  have left := quietBoundary_besideLevels (s := s)
  have kept : s.quietBoundary.unregioned = _ := congrArg Prod.fst left
  have hslew : s.slewStep.takeTimeCtrl = s.slewStep := by
    have none : s.slewStep.time.ctrlPending = none := ht
    simp [State.takeTimeCtrl, none]
  have hpower : s.slewStep.applyPwrCfg = s.slewStep := by
    have none : s.slewStep.power.cfgPending = none := hp
    simp [State.applyPwrCfg, none]
  have hbraked : s.quietBoundary.braked = false := (congrArg State.braked kept :).trans hb
  have hcmds : s.quietBoundary.cmds = [] := (congrArg State.cmds kept :).trans hc
  have hservices : s.quietBoundary.services = s.services := congrArg Prod.snd left
  have hhub : s.quietBoundary.hub = s.hub := (congrArg State.hub kept :)
  have hsleepy : s.quietBoundary.sleepy = false := (sleepy_congr hhub hservices).trans hs
  unfold State.atBoundary
  rw [hslew, hpower]
  change (if (if s.quietBoundary.braked then s.quietBoundary.hubInc rBrakeBeats 1 else s.quietBoundary).serving then
    (if s.quietBoundary.braked then s.quietBoundary.hubInc rBrakeBeats 1 else s.quietBoundary).testDeadlines else
    (if s.quietBoundary.braked then s.quietBoundary.hubInc rBrakeBeats 1 else s.quietBoundary)).settleSleep = s.quietBoundary
  simp only [hbraked, Bool.false_eq_true, if_false, testDeadlines_nil hcmds, ite_self]
  exact settleSleep_awake hsleepy

theorem beatBoundary_alive (hd : s.dead = false) : beatBoundary s = (s.advanceTo ((s.beat + 1) * s.beatNs)).atBoundary :=
  if_neg (by simp [hd])

/-- The start of the next beat lies ahead. -/
theorem now_lt_nextBeat : s.time.now < (s.beat + 1) * s.beatNs := by
  unfold State.beat
  rw [Nat.mul_comm]
  exact Nat.lt_mul_div_succ _ State.beatNs_pos

theorem taskSwitch_begins {r slot : Nat} (hs : s.serving = true) (hr : (s.region r).run = none) (ha : s.active r = true)
    (hnow : s.time.now ≤ s.slotStart s.beat slot) (hfirst : runFirst (fun j => s.slotByte s.beat j r) slot = slot) :
    taskSwitch r slot s = ((s.advanceTo (s.slotStart s.beat slot)).setRegion r { s.region r with run := some (s.runAt s.beat slot r) }).mapCores
      fun n c => if regionOf n = r then c.enterRun (s.runAt s.beat slot r) else c := by
  unfold taskSwitch
  refine (if_neg (by simp [hs, hr, ha])).trans ?_
  rw [if_pos hnow]
  exact if_neg (not_not.2 hfirst)

/-- The run of a region has ended: what is left is the count of an overrun. -/
def State.runLeft (s : State) (r guardLeft : Nat) (run : RegionRun) : State :=
  (((s.advanceTo (s.slotStart run.beat (run.first + run.slots))).setRegion r { s.region r with run := none }).mapCores
    fun n c => if regionOf n = r then c.leaveRun run else c).setHub rGuardLow (BitVec.ofNat 32 (min (s.hubWord rGuardLow).toNat guardLeft))

theorem runEnd_running {r late guardLeft : Nat} {run : RegionRun} (hd : s.dead = false) (hr : (s.region r).run = some run) :
    runEnd r late guardLeft s =
      if late = 0 then s.runLeft r guardLeft run else ((s.runLeft r guardLeft run).hubInc rOverrunCount 1).reportOnly 1 r 1 := by
  simp only [runEnd, hr]
  exact if_neg (by simp [hd])

theorem hubWord_runLeft_overrun {r guardLeft : Nat} {run : RegionRun} :
    (s.runLeft r guardLeft run).hubWord rOverrunCount = s.hubWord rOverrunCount :=
  (State.hubWord_setHub ..).trans (if_neg (by decide))

end

/-- Settles O19: a quiet boundary, the first slot of a run, and the end of a run with and without an overrun. -/
theorem beatBoundaryAndRuns : Obligations.BeatBoundaryAndRuns := by
  refine fun s => ⟨fun hd => congrArg Host.Outcome.next (beatBoundary_alive hd), fun hd hc hs ht hp hb => ?_,
    fun r slot hs hr ha hlen hnow hfirst => ?_, fun r late guardLeft run hd hr hlen => ?_⟩
  · have quiet := atBoundary_quiet (s := s.advanceTo ((s.beat + 1) * s.beatNs)) hc hs ht hp hb
    obtain ⟨cores, regions, out, kept⟩ := quietBoundary_eq (s := s.advanceTo ((s.beat + 1) * s.beatNs))
    refine ⟨_, congrArg Host.Outcome.next ((beatBoundary_alive hd).trans (quiet.trans kept)), ?_, rfl, rfl, rfl, rfl, rfl, rfl⟩
    exact if_pos now_lt_nextBeat
  · refine ⟨_, congrArg Host.Outcome.next (taskSwitch_begins hs hr ha hnow hfirst), rfl, (now_advanceTo hnow :), s.runAt s.beat slot r,
      (congrArg Region.run (State.region_setRegion hlen) :), rfl, hfirst, ?_, ?_⟩
    · exact congrArg (fun k => slotClass (s.slotByte s.beat k r)) hfirst
    · exact congrArg (fun k => slotPart (s.slotByte s.beat k r)) hfirst
  · refine ⟨_, congrArg Host.Outcome.next (runEnd_running hd hr), ?_⟩
    by_cases hl : late = 0
    · rw [if_pos hl]
      exact ⟨State.le_now_advanceTo, fun _ => ⟨rfl, (congrArg Region.run (State.region_setRegion hlen) :), by simp [State.runLeft]⟩,
        fun h => absurd hl h⟩
    · rw [if_neg hl]
      have left := reportOnly_unreported (s := (s.runLeft r guardLeft run).hubInc rOverrunCount 1) (src := 1) (inst := r) (lvl := 1)
        (by decide) (by decide)
      have low : besideEvents 1 rOverrunCount := by unfold besideEvents; decide
      refine ⟨?_, fun h => absurd h hl, fun _ => ?_⟩
      · have now := congrArg (fun u : State => u.time.now) left
        exact le_of_le_of_eq State.le_now_advanceTo now.symm
      · rw [hubWord_reportOnly low, State.hubWord_hubInc, if_pos rfl, hubWord_runLeft_overrun]

end Sys2Proof.Machine
end

section
/-!
Ring service at a poll (R351, R357, R358): what every part of a poll leaves of the block and of its port; O28.
-/
namespace Sys2Proof.Machine

/-! ## What a poll leaves -/

/-- Of a port: which rings are enabled and in effect, whether work resumes, its last poll and its cadence, and whether it may issue
requests. -/
def Port.switches (x : Port) : (Nat → Word × Bool) × (Nat → Word × Bool) × Bool × Option Nat × Nat × Bool :=
  (fun n => ((x.sq n).cfg, (x.sq n).inEffect), fun n => ((x.cq n).cfg, (x.cq n).inEffect), x.resuming, x.polledAt, x.cadence, x.dmaOn)

/-- Of a core: its tasks, scratchpad and decks. -/
def Core.memories (c : Core) : List Task × Mem × SMap Deck := (c.tasks, c.scratch, c.decks)

/-- Of the state: time, regions, plans, the other ports, the port's switches, and the cores' memories. -/
def State.besidePoll (p : Nat) (s : State) := (s.time, s.regions, s.plans, (fun q => if q = p then none else some (s.port q)),
  (s.port p).switches, fun n => (s.core n).memories)

section
variable {s t : State} {p n : Nat} {x : Port}

theorem switches_setSq {q : SubRing} (h : (q.cfg, q.inEffect) = ((x.sq n).cfg, (x.sq n).inEffect)) : (x.setSq n q).switches = x.switches := by
  have sqs : (fun m => (((x.setSq n q).sq m).cfg, ((x.setSq n q).sq m).inEffect)) = fun m => ((x.sq m).cfg, (x.sq m).inEffect) := by
    funext m
    rw [Port.sq_setSq]
    split
    next e => rw [e, h]
    next => rfl
  exact congrArg (·, x.switches.2) sqs

theorem switches_setCq {c : CplRing} (h : (c.cfg, c.inEffect) = ((x.cq n).cfg, (x.cq n).inEffect)) : (x.setCq n c).switches = x.switches := by
  have cqs : (fun m => (((x.setCq n c).cq m).cfg, ((x.setCq n c).cq m).inEffect)) = fun m => ((x.cq m).cfg, (x.cq m).inEffect) := by
    funext m
    rw [Port.cq_setCq]
    split
    next e => rw [e, h]
    next => rfl
  exact congrArg (fun f => (x.switches.1, f, x.switches.2.2)) cqs

theorem port_setPort_out (h : s.ports.length ≤ p) : s.setPort p x = s := by
  rw [State.setPort, List.set_eq_of_length_le h]

theorem setPort_besidePoll (h : x.switches = (s.port p).switches) : (s.setPort p x).besidePoll p = s.besidePoll p := by
  by_cases hp : p < s.ports.length
  · have others : (fun q => if q = p then none else some ((s.setPort p x).port q)) = fun q => if q = p then none else some (s.port q) := by
      funext q
      split
      next => rfl
      next hq => rw [State.port_setPort_other hq]
    have mine : ((s.setPort p x).port p).switches = (s.port p).switches := by rw [State.port_setPort hp, h]
    exact congrArg₂ (fun f g => (s.time, s.regions, s.plans, f, g, fun n => (s.core n).memories)) others mine
  · rw [port_setPort_out (not_lt.1 hp)]

theorem modCore_besidePoll {f : Core → Core} (h : (f (s.core n)).memories = (s.core n).memories) :
    (s.modCore n f).besidePoll p = s.besidePoll p := by
  have cores : (fun m => ((s.modCore n f).core m).memories) = fun m => (s.core m).memories := by
    funext m
    rw [State.core_modCore]
    split
    next e => rw [e, h]
    next => rfl
  exact congrArg (fun g => (s.time, s.regions, s.plans, (fun q => if q = p then none else some (s.port q)), (s.port p).switches, g)) cores

theorem hostWrite_besidePoll {a : Nat} {bs : List Byte} : (s.hostWrite p a bs).besidePoll p = s.besidePoll p := by
  unfold State.hostWrite
  dsimp only
  split
  · exact setPort_besidePoll rfl
  · exact setPort_besidePoll rfl

theorem sendMsix_besidePoll {v : Nat} : (s.sendMsix p v).besidePoll p = s.besidePoll p := by
  unfold State.sendMsix
  dsimp only
  split
  · exact setPort_besidePoll rfl
  · split
    · exact setPort_besidePoll rfl
    · rfl

theorem switches_of_besidePoll (h : t.besidePoll p = s.besidePoll p) : (t.port p).switches = (s.port p).switches :=
  congrArg (·.2.2.2.2.1) h

/-- A ring of the port, read before a step that leaves its switches, is written back with the same enable. -/
theorem setSq_besidePoll {q : SubRing} (h : t.besidePoll p = s.besidePoll p)
    (hq : (q.cfg, q.inEffect) = (((s.port p).sq n).cfg, ((s.port p).sq n).inEffect)) :
    (t.setPort p ((t.port p).setSq n q)).besidePoll p = s.besidePoll p := by
  have same := congrFun (congrArg Prod.fst (switches_of_besidePoll h)) n
  exact (setPort_besidePoll (switches_setSq (hq.trans same.symm))).trans h

theorem setCq_besidePoll {c : CplRing} (h : t.besidePoll p = s.besidePoll p)
    (hc : (c.cfg, c.inEffect) = (((s.port p).cq n).cfg, ((s.port p).cq n).inEffect)) :
    (t.setPort p ((t.port p).setCq n c)).besidePoll p = s.besidePoll p := by
  have same := congrFun (congrArg (·.2.1) (switches_of_besidePoll h)) n
  exact (setPort_besidePoll (switches_setCq (hc.trans same.symm))).trans h

/-! ## Entries and head words -/

theorem headWord_besidePoll : (s.headWord p n).besidePoll p = s.besidePoll p := setSq_besidePoll hostWrite_besidePoll rfl

theorem writeEntry_besidePoll {e : Entry} : (s.writeEntry e).besidePoll e.port = s.besidePoll e.port := setCq_besidePoll hostWrite_besidePoll rfl

theorem signal_besidePoll {k : Nat} : (s.signal p n k).besidePoll p = s.besidePoll p := by
  unfold State.signal
  dsimp only
  split
  · exact sendMsix_besidePoll.trans (setCq_besidePoll rfl rfl)
  · exact setCq_besidePoll rfl rfl

/-- A fold whose every step, for the elements of the list, leaves a projection. -/
theorem foldl_keeps_of_mem {α β γ : Type} (π : β → γ) {g : β → α → β} {l : List α} (h : ∀ b, ∀ a ∈ l, π (g b a) = π b)
    (b : β) : π (l.foldl g b) = π b := by
  induction l generalizing b with
  | nil => rfl
  | cons a l ih =>
    exact (ih (fun b c hc => h b c (List.mem_cons_of_mem a hc)) (g b a)).trans (h b a List.mem_cons_self)

theorem writeEntries_besidePoll {l : List Entry} (hl : ∀ e ∈ l, e.port = p) : (s.writeEntries l).besidePoll p = s.besidePoll p := by
  have rings (f : Entry → Nat) : ∀ r ∈ (l.map fun e => (e.port, f e)).eraseDups, r.1 = p := by
    intro r hr
    obtain ⟨e, he, rfl⟩ := List.mem_map.1 (List.mem_eraseDups.1 hr)
    exact hl e he
  unfold State.writeEntries
  dsimp only
  rw [foldl_keeps_of_mem (State.besidePoll p) fun b c hc => ?_, foldl_keeps_of_mem (State.besidePoll p) fun b r hr => ?_,
    foldl_keeps_of_mem (State.besidePoll p) fun b e he => ?_]
  · rw [← hl e he]
    exact writeEntry_besidePoll
  · rw [rings _ r hr]
    exact headWord_besidePoll
  · rw [rings _ c hc]
    exact signal_besidePoll

/-! ## Admission -/

theorem zeroFrame_memories {c : Core} {dcm kind f : Nat} : (c.zeroFrame dcm kind f).memories = c.memories := by
  have written (c : Core) (l first n : Nat) : (c.rowsWritten l first n).memories = c.memories := by
    unfold Core.rowsWritten
    split
    · split <;> rfl
    · rfl
  unfold Core.zeroFrame
  dsimp only
  split
  · exact written _ _ _ _
  · rfl

theorem allocPage_besidePoll {slot : Nat} : (s.allocPage slot).besidePoll p = s.besidePoll p := by
  unfold State.allocPage
  split
  · rfl
  · dsimp only
    split
    · rfl
    · exact foldl_keeps (State.besidePoll p) (fun _ _ => modCore_besidePoll zeroFrame_memories) _ _

/-- The state in which a first STREAM_GENERATE has its slot, whose page 0 is allocated with it (R293, R297). -/
def State.slotTaken (s : State) (c : Cmd) (n : Nat) : State :=
  match decide (c.op = 0x02) && (s.stream n).slot.isNone, s.freeSlot with
  | true, some k => ({ s with slots := sins s.slots k { stream := n, allocated := 0 } }.allocPage k).setStream n { s.stream n with slot := some k }
  | _, _ => s

theorem slotTaken_besidePoll {c : Cmd} : (s.slotTaken c n).besidePoll p = s.besidePoll p := by
  unfold State.slotTaken
  split
  · exact (rfl : _ = State.besidePoll p (State.allocPage _ _)).trans allocPage_besidePoll
  · rfl

theorem allocPage_cmds {slot : Nat} : (s.allocPage slot).cmds = s.cmds := by
  unfold State.allocPage
  split
  · rfl
  · dsimp only
    split
    · rfl
    · exact foldl_keeps State.cmds (fun _ _ => (rfl : (State.modCore _ _ _).cmds = _)) _ _

theorem slotTaken_cmds {c : Cmd} : (s.slotTaken c n).cmds = s.cmds := by
  unfold State.slotTaken
  split
  · exact (rfl : _ = State.cmds (State.allocPage _ _)).trans allocPage_cmds
  · rfl

/-- A command that joins its stream changes, beside the slot, that stream and, where it aborts, the marks of the stream's commands. -/
theorem admitStream_some {c : Cmd} (h : c.stream? = some n) : ∃ x : Stream, s.admitStream c =
    if c.op == 0x04 && c.flag 0 then
      { (s.slotTaken c n).setStream n x with cmds := (s.slotTaken c n).cmds.map fun e => if e.stream? = some n then { e with abort := true } else e }
    else (s.slotTaken c n).setStream n x := by
  unfold State.admitStream
  rw [h]
  exact ⟨_, rfl⟩

theorem admitStream_besidePoll {c : Cmd} : (s.admitStream c).besidePoll p = s.besidePoll p := by
  cases h : c.stream? with
  | none => rw [State.admitStream, h]
  | some n =>
    have marked (u : State) (x : Stream) (l : List Cmd) : ({ u.setStream n x with cmds := l } : State).besidePoll p = u.besidePoll p := rfl
    have joined (u : State) (x : Stream) : (u.setStream n x).besidePoll p = u.besidePoll p := rfl
    obtain ⟨x, e⟩ := admitStream_some (s := s) h
    rw [e]
    split
    · exact (marked _ _ _).trans slotTaken_besidePoll
    · exact (joined _ _).trans slotTaken_besidePoll

theorem admitStream_cmds_length {c : Cmd} : (s.admitStream c).cmds.length = s.cmds.length := by
  cases h : c.stream? with
  | none => rw [State.admitStream, h]
  | some n =>
    obtain ⟨x, e⟩ := admitStream_some (s := s) h
    rw [e, ← slotTaken_cmds (s := s) (c := c) (n := n)]
    split
    · exact List.length_map _
    · rfl

theorem admitCmd_besidePoll {c : Cmd} : (s.admitCmd c).besidePoll p = s.besidePoll p :=
  (rfl : _ = (s.admitStream _).besidePoll p).trans admitStream_besidePoll

theorem admitCmd_cmds_length {c : Cmd} : (s.admitCmd c).cmds.length = s.cmds.length + 1 := by
  simp [State.admitCmd, admitStream_cmds_length]

/-! ## One descriptor -/

theorem holdRing_besidePoll {part : Option Nat} : (s.holdRing p n part).besidePoll p = s.besidePoll p := by
  have held : (s.holdRing p n none).besidePoll p = s.besidePoll p := setSq_besidePoll rfl rfl
  unfold State.holdRing
  dsimp only
  split
  · exact held
  · split
    · exact held
    · exact held

theorem holdRing_cmds {part : Option Nat} : (s.holdRing p n part).cmds = s.cmds := by
  unfold State.holdRing
  dsimp only
  split
  · rfl
  · split <;> rfl

theorem reserve_besidePoll {cq : Nat} : (s.reserve p cq).besidePoll p = s.besidePoll p := setCq_besidePoll rfl rfl

theorem passHead_besidePoll : (s.passHead p n).besidePoll p = s.besidePoll p := setSq_besidePoll rfl rfl

theorem examine_besidePoll : (s.examine p n).1.besidePoll p = s.besidePoll p := by
  have passed (cq : Nat) : ((s.reserve p cq).passHead p n).besidePoll p = s.besidePoll p := passHead_besidePoll.trans reserve_besidePoll
  unfold State.examine
  dsimp only
  split
  · have held := holdRing_besidePoll (s := s) (p := p) (n := n) (part := s.portPart p)
    generalize s.holdRing p n (s.portPart p) = u at held
    exact Eq.trans (setCq_besidePoll (by rfl) (by rfl)) held
  · split
    · exact holdRing_besidePoll
    · dsimp only
      split
      · exact passed _
      · exact passed _
    · exact admitCmd_besidePoll.trans (passed _)

theorem cmdOf_port {part : Nat} {d : List Byte} : (s.cmdOf p n part d).port = p := by
  unfold State.cmdOf
  dsimp only
  split <;> rfl

/-- A descriptor is held, consumed or admitted: at most one that is not held joins the commands, and an entry is one of its port. -/
theorem examine_outcome : s.cmds.length ≤ (s.examine p n).1.cmds.length ∧
    (s.examine p n).1.cmds.length ≤ s.cmds.length + b2n (s.examine p n).2.1 ∧ ∀ e, (s.examine p n).2.2 = some e → e.port = p := by
  have held : (s.holdRing p n (s.portPart p)).cmds.length = s.cmds.length := congrArg List.length holdRing_cmds
  unfold State.examine
  dsimp only
  split
  · exact ⟨held.ge, held.le, by simp⟩
  · split
    · exact ⟨held.ge, held.le, by simp⟩
    · dsimp only
      split
      · exact ⟨le_rfl, Nat.le_succ _, by rintro e ⟨⟩; exact cmdOf_port⟩
      · exact ⟨le_rfl, Nat.le_succ _, by rintro e ⟨⟩; exact cmdOf_port⟩
    · rw [admitCmd_cmds_length]
      exact ⟨Nat.le_succ _, le_rfl, by simp⟩

/-! ## Ring service -/

/-- The service of rings so far: what a poll leaves, entries of the port alone, and commands no more than descriptors examined. -/
structure Served (s : State) (p limit : Nat) (a : State × Nat × List Entry) : Prop where
  beside : a.1.besidePoll p = s.besidePoll p
  entries : ∀ e ∈ a.2.2, e.port = p
  kept : s.cmds.length ≤ a.1.cmds.length
  bounded : a.1.cmds.length + a.2.1 ≤ s.cmds.length + limit

theorem Served.ring {limit w : Nat} {a : State × Nat × List Entry} (h : Served s p limit a) : Served s p limit (State.serveRing p n w a) := by
  induction w generalizing a with
  | zero => exact h
  | succ w ih =>
    obtain ⟨u, left, es⟩ := a
    obtain ⟨least, most, mine⟩ := examine_outcome (s := u) (p := p) (n := n)
    have same := examine_besidePoll (s := u) (p := p) (n := n)
    obtain ⟨beside, entries, kept, bounded⟩ := h
    unfold State.serveRing
    split
    · exact ⟨beside, entries, kept, bounded⟩
    · next go =>
      split
      · next u' e hx =>
        rw [hx] at least most mine same
        refine ih ⟨same.trans beside, ?_, kept.trans least, ?_⟩
        · intro e' he'
          obtain he' | he' := List.mem_append.1 he'
          · exact entries e' he'
          · exact mine e' (Option.mem_toList.1 he')
        · have pos : left ≠ 0 := fun h => go (.inl h)
          dsimp only [b2n] at *
          simp only [if_true] at most
          omega
      · next u' e hx =>
        rw [hx] at least most mine same
        refine ⟨same.trans beside, entries, kept.trans least, ?_⟩
        exact (Nat.add_le_add_right most _).trans bounded

theorem Served.round {limit : Nat} {order : List Nat} {a : State × Nat × List Entry} (h : Served s p limit a) :
    Served s p limit (State.serveRound p order a) := by
  unfold State.serveRound
  induction order generalizing a with
  | nil => exact h
  | cons n order ih => exact ih h.ring

theorem Served.rounds {limit fuel : Nat} {order : List Nat} {a : State × Nat × List Entry} (h : Served s p limit a) :
    Served s p limit (State.serveRounds p fuel order a) := by
  induction fuel generalizing order a with
  | zero => exact h
  | succ fuel ih =>
    unfold State.serveRounds
    dsimp only
    split
    · exact h.round
    · exact ih h.round

theorem writeEntries_cmds {l : List Entry} : (s.writeEntries l).cmds = s.cmds :=
  (congrArg State.cmds writeEntries_unreported :)

/-- The port with what it remembers of the starts of its rounds (R358). -/
def Port.rounded (x : Port) (beat : Nat) : Port := if x.lastFirstBeat = some beat then x else { x with lastFirst := x.thisFirst }

theorem rounded_cadence {beat : Nat} : (x.rounded beat).cadence = x.cadence := by
  unfold Port.rounded
  split <;> rfl

theorem rounded_switches {beat : Nat} : (x.rounded beat).switches = x.switches := by
  unfold Port.rounded
  split <;> rfl

theorem serveRings_none (h : ((s.port p).rounded s.beat).startRing = none) : s.serveRings p = s := by
  unfold Port.rounded at h
  simp only [State.serveRings, h]

/-- The port that serves its rings from a start. -/
def Port.started (x : Port) (beat st : Nat) : Port :=
  if (x.rounded beat).lastFirstBeat = some beat then x.rounded beat else { x.rounded beat with thisFirst := st, lastFirstBeat := some beat }

theorem started_cadence {beat st : Nat} : (x.started beat st).cadence = x.cadence := by
  unfold Port.started
  split
  · exact rounded_cadence
  · exact rounded_cadence

theorem started_switches {beat st : Nat} : (x.started beat st).switches = x.switches := by
  unfold Port.started
  split
  · exact rounded_switches
  · exact (rfl : _ = (x.rounded beat).switches).trans rounded_switches

theorem serveRings_some {st : Nat} (h : ((s.port p).rounded s.beat).startRing = some st) : ∃ fuel order limit,
    limit = ceilDiv 256 (s.port p).cadence ∧ s.serveRings p =
      (State.serveRounds p fuel order (s.setPort p ((s.port p).started s.beat st), limit, [])).1.writeEntries
        (State.serveRounds p fuel order (s.setPort p ((s.port p).started s.beat st), limit, [])).2.2 := by
  refine ⟨ceilDiv 256 ((s.port p).started s.beat st).cadence + 1, (List.range 64).map fun i => (st + i) % 64,
    ceilDiv 256 ((s.port p).started s.beat st).cadence, congrArg (ceilDiv 256) started_cadence, ?_⟩
  unfold Port.rounded at h
  simp only [State.serveRings, h]
  rfl

theorem serveRings_serves : (s.serveRings p).besidePoll p = s.besidePoll p ∧ s.cmds.length ≤ (s.serveRings p).cmds.length ∧
    (s.serveRings p).cmds.length ≤ s.cmds.length + ceilDiv 256 (s.port p).cadence := by
  cases h : ((s.port p).rounded s.beat).startRing with
  | none =>
    rw [serveRings_none h]
    exact ⟨rfl, le_rfl, Nat.le_add_right ..⟩
  | some st =>
    obtain ⟨fuel, order, limit, rfl, e⟩ := serveRings_some h
    have start : Served s p (ceilDiv 256 (s.port p).cadence) (s.setPort p ((s.port p).started s.beat st), ceilDiv 256 (s.port p).cadence, []) :=
      ⟨setPort_besidePoll started_switches, by simp, le_rfl, le_rfl⟩
    have served : Served s p _ (State.serveRounds p fuel order _) := start.rounds
    rw [e]
    refine ⟨(writeEntries_besidePoll served.entries).trans served.beside, ?_, ?_⟩
    · rw [writeEntries_cmds]
      exact served.kept
    · rw [writeEntries_cmds]
      exact (Nat.le_add_right _ _).trans served.bounded

end

/-! ## Enables and doorbells (R351, R357) -/

theorem sget_map_snd {α : Type} {d : α} {f : α → α} (hd : f d = d) {m : SMap α} {k : Nat} :
    sget d (m.map fun e => (e.1, f e.2)) k = f (sget d m k) := by
  induction m with
  | nil => exact hd.symm
  | cons e m ih =>
    rw [List.map_cons, sget, sget]
    split
    · rfl
    · exact ih

section
variable {s t : State} {p n : Nat} {x : Port}

/-- A submission ring with its enable in effect. -/
def SubRing.takeEnable (q : SubRing) : SubRing :=
  if bitAt q.cfg 31 && !q.inEffect then { q with inEffect := true, head := 0, tail := 0, held := false, dbErr := false, headDirty := false }
  else { q with inEffect := bitAt q.cfg 31 }

/-- A completion ring with its enable in effect. -/
def CplRing.takeEnable (c : CplRing) : CplRing :=
  if bitAt c.cfg 31 && !c.inEffect then
    { c with inEffect := true, count := 0, cqHead := 0, reserved := 0, full := false, unsignalled := 0 }
  else { c with inEffect := bitAt c.cfg 31 }

/-- At a poll the rings in effect are those that are enabled. -/
theorem sq_takeEnables : ((x.takeEnables.sq n).cfg, (x.takeEnables.sq n).inEffect) = ((x.sq n).cfg, bitAt (x.sq n).cfg 31) := by
  have e : x.takeEnables.sq n = (x.sq n).takeEnable := sget_map_snd (f := SubRing.takeEnable) (by decide)
  rw [e, SubRing.takeEnable]
  split
  next h => exact congrArg _ (Bool.and_eq_true_iff.1 h).1.symm
  next => rfl

theorem cq_takeEnables : ((x.takeEnables.cq n).cfg, (x.takeEnables.cq n).inEffect) = ((x.cq n).cfg, bitAt (x.cq n).cfg 31) := by
  have e : x.takeEnables.cq n = (x.cq n).takeEnable := sget_map_snd (f := CplRing.takeEnable) (by decide)
  rw [e, CplRing.takeEnable]
  split
  next h => exact congrArg _ (Bool.and_eq_true_iff.1 h).1.symm
  next => rfl

/-- A ring that reports a doorbell error of its completion ring. -/
def SubRing.reportCq (cq : Nat) (q : SubRing) : SubRing :=
  if q.inEffect ∧ fld q.cfg 21 16 = cq then { q with dbErr := true, headDirty := true } else q

theorem reportCq_switches : ({ x with sqs := x.sqs.map fun e => (e.1, e.2.reportCq n) } : Port).switches = x.switches := by
  have sqs : (fun m => ((sget SubRing.init (x.sqs.map fun e => (e.1, e.2.reportCq n)) m).cfg,
      (sget SubRing.init (x.sqs.map fun e => (e.1, e.2.reportCq n)) m).inEffect)) = fun m => ((x.sq m).cfg, (x.sq m).inEffect) := by
    funext m
    rw [sget_map_snd (f := SubRing.reportCq n) (by simp [SubRing.reportCq, SubRing.init]), SubRing.reportCq]
    split <;> rfl
  exact congrArg (·, x.switches.2) sqs

/-- What a doorbell word's tail does to a ring of the port. -/
def Port.takeTail (x : Port) (n : Nat) (tail : Word) : Port :=
  if (x.sq n).inEffect then
    if (x.sq n).size < (tail - (x.sq n).head).toNat then x.setSq n { x.sq n with dbErr := true, headDirty := true }
    else x.setSq n { x.sq n with tail := tail }
  else x

theorem takeTail_switches {tail : Word} : (x.takeTail n tail).switches = x.switches := by
  unfold Port.takeTail
  split
  · split
    · exact switches_setSq rfl
    · exact switches_setSq rfl
  · rfl

/-- What a doorbell word's completion head does. -/
def Port.takeHead (x : Port) (n : Nat) (cqh : Word) : Port :=
  if (x.cq n).inEffect then
    if (x.cq n).size < ((x.cq n).count - cqh).toNat then { x with sqs := x.sqs.map fun e => (e.1, e.2.reportCq n) }
    else x.setCq n { x.cq n with cqHead := cqh, full := (x.cq n).full && !({ x.cq n with cqHead := cqh } : CplRing).hasPlace }
  else x

theorem takeHead_switches {cqh : Word} : (x.takeHead n cqh).switches = x.switches := by
  unfold Port.takeHead
  split
  · split
    · exact reportCq_switches
    · exact switches_setCq rfl
  · rfl

theorem takeDoorbell_switches : (x.takeDoorbell n).switches = x.switches := by
  have e : x.takeDoorbell n =
      (x.takeTail n (BitVec.ofNat 32 (x.host.num (x.doorbellBase.toNat + 8 * n) 8))).takeHead n
        (BitVec.ofNat 32 (x.host.num (x.doorbellBase.toNat + 8 * n) 8 / 2 ^ 32)) := rfl
  rw [e]
  exact takeHead_switches.trans takeTail_switches

/-! ## A whole poll -/

/-- A port that a poll has read: its enables in effect and its doorbells taken. -/
def Port.read (x : Port) : Port :=
  if ({ x.takeEnables with l1 := false } : Port).doorbellBase.toNat = 0 then { x.takeEnables with l1 := false }
  else (List.range 64).foldl Port.takeDoorbell { x.takeEnables with l1 := false }

theorem read_switches : x.read.switches = x.takeEnables.switches := by
  unfold Port.read
  split
  · rfl
  · exact foldl_keeps Port.switches (fun _ _ => takeDoorbell_switches) _ _

theorem poll_eq : s.poll p = ((List.range 64).filter fun n => ((((s.setPort p (s.port p).read).serveRings p).port p).sq n).headDirty).foldl
    (fun s n => s.headWord p n) ((s.setPort p (s.port p).read).serveRings p) := rfl

theorem poll_besidePoll : (s.poll p).besidePoll p = (s.setPort p (s.port p).read).besidePoll p := by
  rw [poll_eq]
  exact (foldl_keeps (State.besidePoll p) (fun _ _ => headWord_besidePoll) _ _).trans serveRings_serves.1

theorem headWord_cmds : (s.headWord p n).cmds = s.cmds := (congrArg State.cmds headWord_unreported :)

theorem read_cadence : x.read.cadence = x.cadence := congrArg (·.2.2.2.2.1) read_switches

/-- No command is lost at a poll, and no more than its limit are admitted. -/
theorem poll_cmds (hp : p < s.ports.length) :
    s.cmds.length ≤ (s.poll p).cmds.length ∧ (s.poll p).cmds.length ≤ s.cmds.length + ceilDiv 256 (s.port p).cadence := by
  obtain ⟨-, least, most⟩ := serveRings_serves (s := s.setPort p (s.port p).read) (p := p)
  rw [State.port_setPort hp, read_cadence] at most
  rw [poll_eq, foldl_keeps State.cmds fun _ _ => headWord_cmds]
  exact ⟨least, most⟩

/-! ## Posted writes that waited -/

theorem flushPort_besidePoll : (s.flushPort p).besidePoll p = s.besidePoll p := by
  have send (u : State) (w : HostWrite) : (u.send p w).besidePoll p = u.besidePoll p := by
    cases w with
    | bytes a bs => exact hostWrite_besidePoll
    | msix v => exact sendMsix_besidePoll
  unfold State.flushPort
  dsimp only
  split
  · rfl
  · exact (foldl_keeps (State.besidePoll p) (fun _ _ => send _ _) _ _).trans (setPort_besidePoll rfl)

theorem resumePort_besidePoll : (s.resumePort p).besidePoll p = (s.setPort p { s.port p with resuming := false }).besidePoll p := by
  unfold State.resumePort
  split
  · exact flushPort_besidePoll
  next h =>
    have e : ({ s.port p with resuming := false } : Port) = s.port p := by
      rw [← Bool.eq_false_of_not_eq_true h]
    rw [e]
    exact (setPort_besidePoll rfl).symm

theorem resumePort_idle (h : (s.port p).resuming = false) : s.resumePort p = s := if_neg (by simp [h])

theorem lt_length_of_dmaOn (h : (s.port p).dmaOn = true) : p < s.ports.length := by
  by_contra hp
  rw [State.port, List.getD_eq_default _ _ (not_lt.1 hp)] at h
  exact absurd h (by decide)

/-- The instant of a poll lies in the beat only where no port whose turn comes later, nor this one, has polled at it. -/
theorem turn_lt_of_polledAt {k q : Nat} (hq : q < 4) (ha : (s.port q).polledAt = some (s.pollInstant p k))
    (hb : s.pollInstant p k / s.beatNs = s.beat) : (q + 4 - s.beat % 4) % 4 < (p + 4 - s.beat % 4) % 4 := by
  unfold State.pollInstant at ha hb
  dsimp only at ha hb
  split at ha
  next h =>
    rw [if_pos h] at hb
    have free := h.2
    simp only [State.polledPast, List.any_eq_false, List.mem_range, decide_eq_true_eq, hb] at free
    exact not_le.1 fun le => free q hq ⟨ha, le⟩
  next h =>
    rw [if_neg h, Nat.add_div_right _ State.beatNs_pos] at hb
    have least : s.beat ≤ (s.beat * s.beatNs + k * s.beatNs / (s.port p).cadence) / s.beatNs :=
      (Nat.le_div_iff_mul_le State.beatNs_pos).2 (Nat.le_add_right _ _)
    omega

end

/-! ## The statement on polls, time-outs and completions of reads -/

section
variable {s t : State} {p q k n : Nat}

theorem port_of_besidePoll (h : t.besidePoll p = s.besidePoll p) (hq : q ≠ p) : t.port q = s.port q := by
  have others := congrFun (congrArg (·.2.2.2.1) h) q
  simpa [State.besidePoll, hq] using others

theorem port_poll_other (hq : q ≠ p) : (s.poll p).port q = s.port q :=
  (port_of_besidePoll poll_besidePoll hq).trans (State.port_setPort_other hq)

theorem poll_switches (hp : p < s.ports.length) : ((s.poll p).port p).switches = (s.port p).takeEnables.switches := by
  rw [switches_of_besidePoll poll_besidePoll, State.port_setPort hp]
  exact read_switches

theorem poll_time : (s.poll p).time = s.time := (congrArg (·.1) poll_besidePoll :)

theorem memories_poll : ((s.poll p).core n).memories = (s.core n).memories := congrFun (congrArg (·.2.2.2.2.2) poll_besidePoll) n

theorem resuming_resumePort (hp : p < s.ports.length) : ((s.resumePort p).port p).resuming = false := by
  have same := congrArg (·.2.2.1) (switches_of_besidePoll (resumePort_besidePoll (s := s) (p := p)))
  rw [State.port_setPort hp] at same
  exact same

theorem doorbellPoll_serving (hs : s.serving = true) (hk : k < (s.port p).cadence) :
    doorbellPoll p k s = if (((s.advanceTo (s.pollInstant p k)).resumePort p).port p).dmaOn then
      (((s.advanceTo (s.pollInstant p k)).resumePort p).setPort p { ((s.advanceTo (s.pollInstant p k)).resumePort p).port p with
        polledAt := some ((s.advanceTo (s.pollInstant p k)).resumePort p).time.now }).poll p
      else (s.advanceTo (s.pollInstant p k)).resumePort p :=
  if_neg (by simp [hs, hk])

/-- The block at the instant of a poll, with the poll noted. -/
def State.polled (s : State) (p k : Nat) : State :=
  (s.advanceTo (s.pollInstant p k)).setPort p { s.port p with polledAt := some (s.advanceTo (s.pollInstant p k)).time.now }

theorem doorbellPoll_dmaOn (hs : s.serving = true) (hk : k < (s.port p).cadence) (hd : (s.port p).dmaOn = true) :
    doorbellPoll p k s = (s.polled p k).poll p := by
  have awake : ((s.advanceTo (s.pollInstant p k)).port p).resuming = false := by
    have on := hd
    simp only [Port.dmaOn, Bool.and_eq_true, Bool.not_eq_true'] at on
    exact on.2
  rw [doorbellPoll_serving hs hk, resumePort_idle awake]
  exact if_pos hd

/-- The work of a port left in D3hot resumes at a poll. -/
theorem doorbellPoll_resumes (hs : s.serving = true) (hk : k < (s.port p).cadence) (hp : p < s.ports.length) :
    ((doorbellPoll p k s).port p).resuming = false ∧ ∀ q, q ≠ p → (doorbellPoll p k s).port q = s.port q := by
  have left := resumePort_besidePoll (s := s.advanceTo (s.pollInstant p k)) (p := p)
  have other {q : Nat} (hq : q ≠ p) : ((s.advanceTo (s.pollInstant p k)).resumePort p).port q = s.port q :=
    (port_of_besidePoll left hq).trans (State.port_setPort_other hq)
  have mine := resuming_resumePort (s := s.advanceTo (s.pollInstant p k)) hp
  rw [doorbellPoll_serving hs hk]
  generalize (s.advanceTo (s.pollInstant p k)).resumePort p = u at other mine
  split
  next hd =>
    have hu := lt_length_of_dmaOn hd
    refine ⟨?_, fun q hq => (port_poll_other hq).trans ((State.port_setPort_other hq).trans (other hq))⟩
    have same := congrArg (·.2.2.1) (poll_switches (s := u.setPort p { u.port p with polledAt := some u.time.now }) (p := p) (by simpa using hu))
    rw [State.port_setPort hu] at same
    exact Eq.trans same mine
  next => exact ⟨mine, fun q hq => other hq⟩

/-- A message on a vector leaves the rings of its port and what the port has read. -/
theorem sendMsix_rings {v : Nat} : ((s.sendMsix p v).port p).sqs = (s.port p).sqs ∧ ((s.sendMsix p v).port p).cqs = (s.port p).cqs ∧
    ((s.sendMsix p v).port p).host = (s.port p).host := by
  have set {x : Port} (h : (x.sqs, x.cqs, x.host) = ((s.port p).sqs, (s.port p).cqs, (s.port p).host)) :
      ((s.setPort p x).port p).sqs = (s.port p).sqs ∧ ((s.setPort p x).port p).cqs = (s.port p).cqs ∧
        ((s.setPort p x).port p).host = (s.port p).host := by
    by_cases hp : p < s.ports.length
    · rw [State.port_setPort hp]
      simpa using h
    · rw [port_setPort_out (not_lt.1 hp)]
      exact ⟨rfl, rfl, rfl⟩
  unfold State.sendMsix
  dsimp only
  split
  · exact set rfl
  · split
    · exact set rfl
    · exact ⟨rfl, rfl, rfl⟩

/-- The beat boundary at which the messages of a completion ring may wait no longer (R350). -/
def State.coalesceEnd (s : State) (c : CplRing) : Nat :=
  ceilDiv (max s.time.now ((c.oldestBeat + fld c.coal 7 0) * s.beatNs)) s.beatNs * s.beatNs

theorem max_le_coalesceEnd {c : CplRing} : max s.time.now ((c.oldestBeat + fld c.coal 7 0) * s.beatNs) ≤ s.coalesceEnd c :=
  le_ceilDiv_mul State.beatNs_pos

/-- The block at that boundary, with no entry of the ring unsignalled. -/
def State.signalled (s : State) (p n : Nat) : State :=
  (s.advanceTo (s.coalesceEnd ((s.port p).cq n))).setPort p ((s.port p).setCq n { (s.port p).cq n with unsignalled := 0 })

theorem now_signalled : (s.signalled p n).time.now = s.coalesceEnd ((s.port p).cq n) :=
  now_advanceTo ((le_max_left _ _).trans max_le_coalesceEnd)

theorem msixCoalesceTimeout_due (hd : s.dead = false) (hu : ((s.port p).cq n).unsignalled ≠ 0) (hc : bitAt ((s.port p).cq n).coal 31 = true) :
    msixCoalesceTimeout p n s = (s.signalled p n).sendMsix p (fld ((s.port p).cq n).coal 29 24) :=
  if_neg (by simp [hd, hu, hc])

theorem hostReadCompletion_serving {addr : DWord} {data : List Byte} (hs : s.serving = true) (hd : (s.port p).dmaOn = true) :
    hostReadCompletion p addr data s = s.setPort p { s.port p with host := (s.port p).host.write addr.toNat data, l1 := false } :=
  if_neg (by simp [hs, hd])

end

/-- Settles O28: each part of a poll leaves what it does not serve; the time-out and the completion of a read are single updates. -/
theorem pollServesRings : Obligations.PollServesRings := by
  refine fun s p => ⟨fun k hs hk hd hr => ?_, fun k hs hk _ hp => ⟨_, rfl, doorbellPoll_resumes hs hk hp⟩,
    fun k _ q ha hb hq => turn_lt_of_polledAt hq ha hb, fun k hs hk hd => ?_, fun cq hd hu hc => ?_, fun addr data hs hd hp => ?_⟩
  · have idle : (s.advanceTo (s.pollInstant p k)).resumePort p = s.advanceTo (s.pollInstant p k) := resumePort_idle hr
    refine congrArg Host.Outcome.next ((doorbellPoll_serving hs hk).trans ?_)
    rw [idle]
    exact if_neg (ne_true_of_eq_false hd)
  · have hp := lt_length_of_dmaOn hd
    have hu : p.val < (s.polled p k).ports.length := by simpa [State.polled] using hp
    have mine : (s.polled p k).port p = { s.port p with polledAt := some (s.advanceTo (s.pollInstant p k)).time.now } := State.port_setPort hp
    have switches := poll_switches hu
    obtain ⟨least, most⟩ := poll_cmds hu
    rw [mine] at switches most
    refine ⟨_, congrArg Host.Outcome.next (doorbellPoll_dmaOn hs hk hd), poll_time, fun _ => ?_, fun n _ => ?_, fun n _ => ?_,
      fun q hq => (port_poll_other hq).trans (State.port_setPort_other hq), least, most, (congrArg (·.2.1) poll_besidePoll :),
      (congrArg (·.2.2.1) poll_besidePoll :), fun n => ?_⟩
    · exact (congrArg (·.2.2.2.1) switches).trans (congrArg (fun u : TimeBase => some u.now) (poll_time (s := s.polled p k))).symm
    · have sq := congrFun (congrArg Prod.fst switches) n
      exact congrArg Prod.snd (sq.trans sq_takeEnables)
    · have cq := congrFun (congrArg (·.2.1) switches) n
      exact congrArg Prod.snd (cq.trans cq_takeEnables)
    · have kept := memories_poll (s := s.polled p k) (p := p) (n := n)
      exact ⟨congrArg (·.1) kept, congrArg (·.2.1) kept, congrArg (·.2.2) kept⟩
  · have left := eq_of_unported (sendMsix_unported (s := s.signalled p cq) (p := p) (v := fld ((s.port p).cq cq).coal 29 24))
    obtain ⟨sqs, cqs, host⟩ := sendMsix_rings (s := s.signalled p cq) (p := p) (v := fld ((s.port p).cq cq).coal 29 24)
    have due := msixCoalesceTimeout_due hd hu hc
    generalize (s.signalled p cq).sendMsix p (fld ((s.port p).cq cq).coal 29 24) = t at left sqs cqs host due
    have time : t.time = (s.signalled p cq).time := (congrArg State.time left :)
    have bound := max_le_coalesceEnd (s := s) (c := (s.port p).cq cq)
    refine ⟨t, congrArg Host.Outcome.next due, ?_, ?_, ?_, ?_, fun hp => ?_⟩
    · rw [time]
      exact left
    · rw [time, now_signalled]
      exact (le_max_left _ _).trans bound
    · rw [time, now_signalled]
      exact Nat.mul_mod_left _ _
    · rw [time, now_signalled]
      exact (le_max_right _ _).trans bound
    · have mine : (s.signalled p cq).port p = (s.port p).setCq cq { (s.port p).cq cq with unsignalled := 0 } := State.port_setPort hp
      rw [mine] at sqs cqs host
      have ring : (t.port p).cq cq = ((s.port p).setCq cq { (s.port p).cq cq with unsignalled := 0 }).cq cq :=
        congrArg (sget CplRing.init · cq) cqs
      rw [Port.cq_setCq, if_pos rfl] at ring
      exact ⟨congrArg CplRing.unsignalled ring, sqs, host⟩
  · refine ⟨_, congrArg Host.Outcome.next (hostReadCompletion_serving hs hd), rfl, State.port_setPort hp, fun i hi => ?_, fun a ha => ?_⟩
    · rw [State.port_setPort hp, Mem.byte_write, if_pos (by omega), Nat.add_sub_cancel_left]
    · rw [State.port_setPort hp]
      exact Mem.byte_write_outside ha

end Sys2Proof.Machine
end

section
/-!
Steps and runs of plans as they begin and end (R52, R241), and commands that are booked out; part of O37.
-/
namespace Sys2Proof.Machine

/-! ## A step begins (R52) -/

/-- A task at the start of a step. -/
def Task.openStep (t : Task) : Task :=
  if t.doneEnd then t else { t with doneStep := false, rowsLeft := [], seq := if t.seq = .waitStep then .running else t.seq }

theorem openStep_marks {t : Task} (h : t.openStep.doneEnd = false) : t.openStep.rowsLeft = [] ∧ t.openStep.doneStep = false := by
  unfold Task.openStep at h ⊢
  split at h
  next he => exact absurd h (by simp [he])
  next he =>
    rw [if_neg he]
    exact ⟨rfl, rfl⟩

/-- The tasks of a plan with a step's start at them all. -/
def State.openSteps (s : State) (p : Plan) : State := (planCores p.image).foldl (fun s k => s.modTask k (planTask p.image) Task.openStep) s

/-- The state at the beat boundary of a step of a plan without decode, its tasks at the step's start. -/
def State.stepOpened (s : State) (n : Nat) (p : Plan) (r : Run) (b : Nat) : State :=
  (if r.replayed then s.advanceTo (b * s.beatNs) else (s.advanceTo (b * s.beatNs)).snapUnit n).openSteps p

section
variable {s : State} {n b l : Nat} {p : Plan} {r : Run}

theorem openSteps_eq : s.openSteps p = { s with cores := (s.openSteps p).cores } := foldl_modCore_eq

theorem openSteps_marks {e : Nat × Task} (he : e ∈ (s.openSteps p).planTasks p) (hd : e.2.doneEnd = false)
    (hlen : planTask p.image < (s.core e.1).tasks.length) : e.2.rowsLeft = [] ∧ e.2.doneStep = false := by
  obtain ⟨k, hk, rfl⟩ := List.mem_map.1 he
  have open_ : ((s.openSteps p).core k).task (planTask p.image) = ((s.core k).task (planTask p.image)).openStep :=
    core_foldl_modCore_of_mem (P := fun x => x.task (planTask p.image) = ((s.core k).task (planTask p.image)).openStep)
      (planCores_nodup p.image) hk fun _ => Core.task_setTask_same hlen
  dsimp only at hd ⊢
  rw [open_] at hd ⊢
  exact openStep_marks hd

theorem snapUnit_eq : ∃ snaps runs, s.snapUnit n = { s with snaps := snaps, runs := runs } := by
  unfold State.snapUnit
  split
  · exact ⟨_, _, rfl⟩
  · dsimp only
    split
    · exact ⟨_, _, rfl⟩
    · exact ⟨_, _, rfl⟩

theorem stepOpened_eq : ∃ snaps runs cores,
    s.stepOpened n p r b = { s.advanceTo (b * s.beatNs) with snaps := snaps, runs := runs, cores := cores } := by
  unfold State.stepOpened
  rw [openSteps_eq]
  split
  · exact ⟨_, _, _, rfl⟩
  · obtain ⟨snaps, runs, e⟩ := snapUnit_eq (s := s.advanceTo (b * s.beatNs)) (n := n)
    rw [e]
    exact ⟨_, _, _, rfl⟩

theorem stepOpened_marks {e : Nat × Task} (he : e ∈ (s.stepOpened n p r b).planTasks p) (hd : e.2.doneEnd = false)
    (hlen : planTask p.image < (s.core e.1).tasks.length) : e.2.rowsLeft = [] ∧ e.2.doneStep = false := by
  unfold State.stepOpened at he
  refine openSteps_marks he hd ?_
  split
  · exact hlen
  · obtain ⟨snaps, runs, e⟩ := snapUnit_eq (s := s.advanceTo (b * s.beatNs)) (n := n)
    rw [e]
    exact hlen

theorem stepStart_opens (hs : s.serving = true) (hp : s.plan? n = some p) (hr : s.run? n = some r) (hk : planClass p.image ≠ 1)
    (hready : s.stepReady p r = true) (hb : s.nextBoundary / s.beatNs = b) (hafter : r.firstBeat + r.beats ≤ b)
    (hown : s.firstOwned (planUses p.image) (planClass p.image) p.part b = some b) (hl : s.stepLast p.image p.part b = some l) :
    stepStart n s = (s.stepOpened n p r b).setRun n { r with inStep := true, firstBeat := b, beats := l + 1 - b, step := r.step + 1 } := by
  unfold stepStart
  have plain : (planClass p.image == 1) = false := by simpa using hk
  simp only [hp, hr, hb, plain, List.filter_false, List.all_nil, hs, hready, hown, hl]
  exact if_neg (by simp [hafter])

/-! ## A step or run ends (R241) -/

/-- The grades that a task adds to its run. -/
def Run.addGrades (r : Run) (e : Nat × Task) : Run := { r with klass := max r.klass e.2.resClass, events := r.events ||| e.2.resEvents }

theorem foldGrades_eq : ∃ k e, s.foldGrades p r = { r with klass := k, events := e } := by
  have grades (l : List (Nat × Task)) (r : Run) : ∃ k e, l.foldl Run.addGrades r = { r with klass := k, events := e } := by
    induction l generalizing r with
    | nil => exact ⟨_, _, rfl⟩
    | cons x l ih => exact ih (r.addGrades x)
  exact grades _ r

/-- The state whose plan's tasks await the next step. -/
def State.stepPassed (s : State) (p : Plan) : State := (planCores p.image).foldl (fun s k => s.modTask k (planTask p.image) Task.nextStep) s

theorem stepPassed_eq : s.stepPassed p = { s with cores := (s.stepPassed p).cores } := foldl_modCore_eq

/-- A step of a run with a command completes where every task has marked its end, and some task goes on. -/
theorem stepComplete_passes {id : Nat} {c : Cmd} (hs : s.serving = true) (hp : s.plan? n = some p) (hr : s.run? n = some r)
    (hin : r.inStep = true) (hbroken : r.broken = false) (hfail : r.fail = none) (hcmd : r.cmd = some id) (hc : s.cmd? id = some c)
    (habort : c.abort = false) (herror : s.runError p = none) (hall : ∀ e ∈ s.planTasks p, e.2.doneStep = true ∨ e.2.doneEnd = true)
    (hsome : ∃ e ∈ s.planTasks p, e.2.doneEnd = false ∧ e.2.seq ≠ .halted) : ∃ k e, stepComplete n s = (s.stepPassed p).setRun n
      { r with klass := k, events := e, inStep := false, stepsDone := r.stepsDone + 1, replayed := false } := by
  obtain ⟨k, e, grades⟩ := foldGrades_eq (s := s) (p := p) (r := r)
  have marked : ((s.planTasks p).all fun e => e.2.doneStep || e.2.doneEnd || e.2.haltedOut) = true :=
    List.all_eq_true.2 fun e he => by simpa using Or.inl (hall e he)
  have goes : ((s.planTasks p).all fun e => e.2.doneEnd || e.2.haltedOut) = false := by
    obtain ⟨e, he, hd, hh⟩ := hsome
    refine List.all_eq_false.2 ⟨e, he, ?_⟩
    simp [hd, Task.haltedOut, hh]
  refine ⟨k, e, ?_⟩
  unfold stepComplete
  simp only [hp, hr, herror, grades, hcmd, Option.bind_some, hc, habort, Option.isNone_some]
  exact if_neg (by simp [hs, hin, hbroken, hfail, marked, goes])

/-- The state whose plan's tasks have stopped. -/
def State.tasksStopped (s : State) (p : Plan) : State := (planCores p.image).foldl (fun s k => s.modTask k (planTask p.image) fun t =>
  { t.cut with seq := .idle, err := { t.err with discarding := false } }) s

theorem tasksStopped_eq : s.tasksStopped p = { s with cores := (s.tasksStopped p).cores } := foldl_modCore_eq

theorem stopRun_eq : ∃ cores, s.stopRun n p = { s with cores := cores, runs := sdel s.runs n } :=
  ⟨(s.tasksStopped p).cores, congrArg (State.endRun · n) (tasksStopped_eq (s := s) (p := p))⟩

/-- A command leaves the admitted commands as it is booked out; beside that there are a count and its stream. -/
theorem bookOut_books {c : Cmd} {x : Result} : ∃ streams, (s.bookOut c x).unreported = { s.unreported.without c.id with streams := streams } := by
  have counted := countCompletion_unreported (s := s) (part := c.part) (op := c.op) (status := x.status)
  have same (streams) := congrArg (fun u : State => { u.without c.id with streams := streams }) counted
  unfold State.bookOut
  dsimp only
  split
  · exact ⟨_, same _⟩
  · exact ⟨_, (same _ :)⟩

theorem complete_books {c : Cmd} {x : Result} : ∃ streams, (s.complete c x).unreported = { s.unreported.without c.id with streams := streams } := by
  obtain ⟨streams, e⟩ := bookOut_books (s := s) (c := c) (x := x)
  exact ⟨streams, writeEntries_unreported.trans e⟩

theorem writeWords_unreported {c : Cmd} : (s.writeWords c p).unreported = s.unreported := by
  unfold State.writeWords
  dsimp only
  split
  · rfl
  · refine foldl_keeps State.unreported (fun u e => ?_) _ _
    split
    · exact hostWrite_unreported
    · rfl

theorem endRunCmd_books {c : Cmd} (h : c.op ≠ 0x32) :
    ∃ streams, (s.endRunCmd c p r).unreported = { s.unreported.without c.id with streams := streams } := by
  unfold State.endRunCmd
  rw [if_neg h]
  obtain ⟨streams, e⟩ := complete_books (s := (s.writeWords c p).addUnits c.named 1) (c := c)
    (x := { status := stSuccess, klass := r.klass, events := r.events, reason := 0, stream := c.named, r0 := r.stepsDone,
            r1 := ((s.writeWords c p).addUnits c.named 1).firstWords p })
  have written := congrArg (fun u : State => { u.without c.id with streams := streams }) (writeWords_unreported (s := s) (p := p) (c := c))
  exact ⟨streams, e.trans written⟩

/-- A run whose tasks have all ended completes its command. -/
theorem runComplete_ends {id : Nat} {c : Cmd} (hs : s.serving = true) (hp : s.plan? n = some p) (hr : s.run? n = some r)
    (hbroken : r.broken = false) (hfail : r.fail = none) (hcmd : r.cmd = some id) (hc : s.cmd? id = some c)
    (habort : c.abort = false) (herror : s.runError p = none) (hall : ∀ e ∈ s.planTasks p, e.2.doneEnd = true) :
    ∃ r', runComplete n s = (s.endRunCmd c p r').stopRun n p := by
  have ended : ((s.planTasks p).all fun e => e.2.doneEnd || e.2.haltedOut) = true :=
    List.all_eq_true.2 fun e he => by simp [hall e he]
  refine ⟨{ s.foldGrades p r with stepsDone := r.stepsDone + b2n r.inStep }, ?_⟩
  unfold runComplete
  simp only [hp, hr, hs, hfail, hbroken, ended, herror, hcmd, Option.bind_some, hc, habort]
  rfl

theorem mget_sdel_other {α : Type} {m : SMap α} {j k : Nat} (h : j ≠ k) : mget (sdel m k) j = mget m j := by
  induction m with
  | nil => rfl
  | cons e m ih =>
    obtain ⟨i, v⟩ := e
    unfold sdel
    split
    next hi =>
      rw [mget, if_neg (hi ▸ h.symm)]
      exact ih
    next => rw [mget, mget, ih]

end

end Sys2Proof.Machine
end

section
/-!
Pages of a slot, whose frames are filled with zeros (R190, R297), and the ring of prefill chunks (R301); O37.
-/
namespace Sys2Proof.Machine

/-! ## Ranges of a memory filled with zeros -/

theorem sget_filter_key {α : Type} {d : α} {q : Nat → Bool} {m : SMap α} {k : Nat} :
    sget d (m.filter fun e => q e.1) k = if q k then sget d m k else d := by
  induction m with
  | nil => simp
  | cons e m ih =>
    obtain ⟨j, v⟩ := e
    rw [List.filter_cons, sget]
    by_cases hj : j = k
    · subst hj
      by_cases hq : q j = true
      · simp [hq, sget]
      · simp [hq, ih]
    · by_cases hq : q j = true
      · rw [if_pos hq, sget, if_neg hj, if_neg hj, ih]
      · rw [if_neg hq, if_neg hj, ih]

theorem Mem.byte_clear {m : Mem} {a n b : Nat} : (Mem.clear m a n).byte b = if a ≤ b ∧ b < a + n then 0 else m.byte b := by
  refine (sget_filter_key (q := fun k => decide (k < a) || decide (a + n ≤ k))).trans ?_
  by_cases h : a ≤ b ∧ b < a + n
  · rw [if_pos h, if_neg (by simpa using h)]
  · rw [if_neg h, if_pos (by simpa using by omega)]
    rfl

theorem byte_foldl_clear_of_mem {l : List Nat} {base : Nat → Nat} {len a i : Nat} (hi : i ∈ l) (h : base i ≤ a ∧ a < base i + len) {m : Mem} :
    (l.foldl (fun m i => m.clear (base i) len) m).byte a = 0 := by
  have stays (l : List Nat) (m : Mem) (hm : m.byte a = 0) : (l.foldl (fun m i => m.clear (base i) len) m).byte a = 0 := by
    induction l generalizing m with
    | nil => exact hm
    | cons j l ih => exact ih _ (by rw [Mem.byte_clear, hm, ite_self])
  induction l generalizing m with
  | nil => cases hi
  | cons j l ih =>
    obtain rfl | hl := List.mem_cons.1 hi
    · exact stays l _ (by rw [Mem.byte_clear, if_pos h])
    · exact ih hl

theorem byte_foldl_clear_outside {l : List Nat} {base : Nat → Nat} {len a : Nat} (h : ∀ i ∈ l, ¬(base i ≤ a ∧ a < base i + len))
    {m : Mem} :
    (l.foldl (fun m i => m.clear (base i) len) m).byte a = m.byte a := by
  induction l generalizing m with
  | nil => rfl
  | cons j l ih =>
    refine (ih fun i hi => h i (List.mem_cons_of_mem j hi)).trans ?_
    rw [Mem.byte_clear, if_neg (h j List.mem_cons_self)]

/-! ## Frames of a core -/

/-- The byte address lies in frame f of a kind in a DCM (R191-R193). -/
def inFrame (dcm kind f a : Nat) : Prop :=
  ∃ i < (frameRows kind f).2.1, ∃ j < (frameRows kind f).2.2.1, a = dcmAddr dcm ((frameRows kind f).1 + i) + (frameRows kind f).2.2.2 + j

section
variable {c : Core} {dcm kind f a : Nat}

theorem dcmView_whole (h : c.anyLost = false) : c.dcmView = c.dcm := if_neg (by simp [h])

theorem dcm_dcmStore (h : c.anyLost = false) {m : Mem} : (c.dcmStore m).dcm = m := if_neg (by simp [h])

theorem anyLost_setDcmInfo (h : c.anyLost = false) {l : Nat} {x : Dcm} (hx : x.lost = false) : (c.setDcmInfo l x).anyLost = false := by
  unfold Core.anyLost at h ⊢
  rw [List.any_eq_false] at h ⊢
  intro e he
  unfold Core.setDcmInfo sput at he
  dsimp only at he
  split at he
  · exact h e (mem_sdel he)
  · obtain rfl | he := mem_sins he
    · simp [hx]
    · exact h e he

theorem rowsWritten_dcm {l first n : Nat} : (c.rowsWritten l first n).dcm = c.dcm := by
  unfold Core.rowsWritten
  split
  · split <;> rfl
  · rfl

theorem anyLost_rowsWritten (h : c.anyLost = false) {l first n : Nat} : (c.rowsWritten l first n).anyLost = false := by
  unfold Core.rowsWritten
  split
  · split
    next hw => exact anyLost_setDcmInfo h hw.2.2
    next => exact h
  · exact h

theorem anyLost_zeroFrame (h : c.anyLost = false) : (c.zeroFrame dcm kind f).anyLost = false := by
  unfold Core.zeroFrame
  dsimp only
  split
  · exact anyLost_rowsWritten (c := c.dcmStore _) h
  · exact h

theorem dcm_zeroFrame (h : c.anyLost = false) : (c.zeroFrame dcm kind f).dcm = (List.range (frameRows kind f).2.1).foldl
    (fun m i => m.clear (dcmAddr dcm ((frameRows kind f).1 + i) + (frameRows kind f).2.2.2) (frameRows kind f).2.2.1) c.dcm := by
  unfold Core.zeroFrame
  dsimp only
  split
  · rw [rowsWritten_dcm, dcm_dcmStore h, dcmView_whole h]
  · rw [dcm_dcmStore h, dcmView_whole h]

theorem zeroFrame_zero (h : c.anyLost = false) (ha : inFrame dcm kind f a) : (c.zeroFrame dcm kind f).dcm.byte a = 0 := by
  obtain ⟨i, hi, j, hj, rfl⟩ := ha
  rw [dcm_zeroFrame h]
  exact byte_foldl_clear_of_mem (List.mem_range.2 hi) ⟨Nat.le_add_right _ _, by omega⟩

theorem zeroFrame_outside (h : c.anyLost = false) (ha : ¬inFrame dcm kind f a) : (c.zeroFrame dcm kind f).dcm.byte a = c.dcm.byte a := by
  rw [dcm_zeroFrame h]
  refine byte_foldl_clear_outside fun i hi hin => ha ⟨i, List.mem_range.1 hi, _, ?_, (Nat.add_sub_of_le hin.1).symm⟩
  omega

/-- The frames of a list filled with zeros one after the other: DCM, kind and number of each. -/
def Core.zeroFrames (c : Core) (l : List (Nat × Nat × Nat)) : Core := l.foldl (fun c f => c.zeroFrame f.1 f.2.1 f.2.2) c

theorem zeroFrames_zero (h : c.anyLost = false) {l : List (Nat × Nat × Nat)} {f : Nat × Nat × Nat} (hf : f ∈ l)
    (ha : inFrame f.1 f.2.1 f.2.2 a) : (c.zeroFrames l).dcm.byte a = 0 := by
  have stays (l : List (Nat × Nat × Nat)) (c : Core) (h : c.anyLost = false) (hz : c.dcm.byte a = 0) : (c.zeroFrames l).dcm.byte a = 0 := by
    induction l generalizing c with
    | nil => exact hz
    | cons g l ih =>
      refine ih _ (anyLost_zeroFrame h) ?_
      by_cases hg : inFrame g.1 g.2.1 g.2.2 a
      · exact zeroFrame_zero h hg
      · exact (zeroFrame_outside h hg).trans hz
  induction l generalizing c with
  | nil => cases hf
  | cons g l ih =>
    obtain rfl | hl := List.mem_cons.1 hf
    · exact stays l _ (anyLost_zeroFrame h) (zeroFrame_zero h ha)
    · exact ih (anyLost_zeroFrame h) hl

theorem zeroFrames_outside (h : c.anyLost = false) {l : List (Nat × Nat × Nat)} (ha : ∀ f ∈ l, ¬inFrame f.1 f.2.1 f.2.2 a) :
    (c.zeroFrames l).dcm.byte a = c.dcm.byte a := by
  induction l generalizing c with
  | nil => rfl
  | cons g l ih =>
    exact (ih (anyLost_zeroFrame h) fun f hf => ha f (List.mem_cons_of_mem g hf)).trans (zeroFrame_outside h (ha g List.mem_cons_self))

end

/-! ## The next page of a slot -/

/-- Updates of cores that a key names: a core takes those of its own elements, in their order. -/
theorem core_foldl_modCore_key {α : Type} {key : α → Nat} {g : α → Core → Core} {l : List α} {s : State} {n : Nat} :
    (l.foldl (fun (s : State) a => s.modCore (key a) (g a)) s).core n = (l.filter fun a => key a = n).foldl (fun c a => g a c) (s.core n) := by
  induction l generalizing s with
  | nil => rfl
  | cons a l ih =>
    rw [List.foldl_cons, ih, State.core_modCore, List.filter_cons]
    by_cases h : n = key a
    · subst h
      simp
    · rw [if_neg h, if_neg (by simpa using Ne.symm h)]

section
variable {s : State} {k : Nat} {x : Slot} {p : Plan}

/-- The state whose slot has one page more, its frames not yet zero. -/
def State.slotGrown (s : State) (k : Nat) (x : Slot) : State := { s with slots := sins s.slots k { x with allocated := x.allocated + 1 } }

/-- The state with the frames of a page of a plan's slot filled with zeros. -/
def State.pageZeroed (s : State) (p : Plan) (k page : Nat) : State := (pageOf p.image k page).foldl (fun s f =>
  s.modCore f.1 fun c => c.zeroFrame f.2.1 (Config.pageKind p.image f.1 f.2.1 % 3) f.2.2) s

theorem allocPage_none (hx : mget s.slots k = some x) (hp : s.planOf x.stream = none) : s.allocPage k = s.slotGrown k x := by
  have planless : (s.slotGrown k x).planOf x.stream = none := hp
  unfold State.slotGrown at planless
  simp only [State.allocPage, hx, planless]
  rfl

theorem allocPage_some (hx : mget s.slots k = some x) (hp : s.planOf x.stream = some p) :
    s.allocPage k = (s.slotGrown k x).pageZeroed p k x.allocated := by
  have planned : (s.slotGrown k x).planOf x.stream = some p := hp
  unfold State.slotGrown at planned
  simp only [State.allocPage, hx, planned]
  rfl

theorem pageZeroed_eq {page : Nat} : s.pageZeroed p k page = { s with cores := (s.pageZeroed p k page).cores } :=
  eq_of_shell (foldl_keeps State.shell (fun _ _ => by rfl) _ _)

theorem allocPage_eq (hx : mget s.slots k = some x) : s.allocPage k = { s.slotGrown k x with cores := (s.allocPage k).cores } := by
  cases hp : s.planOf x.stream with
  | none => rw [allocPage_none hx hp]
  | some p =>
    rw [allocPage_some hx hp]
    exact pageZeroed_eq

/-- The frames of a page that lie on a core, with their kinds. -/
def framesOn (p : Plan) (k page n : Nat) : List (Nat × Nat × Nat) :=
  ((pageOf p.image k page).filter fun f => f.1 = n).map fun f => (f.2.1, Config.pageKind p.image f.1 f.2.1 % 3, f.2.2)

theorem core_pageZeroed {page n : Nat} : (s.pageZeroed p k page).core n = (s.core n).zeroFrames (framesOn p k page n) := by
  unfold Core.zeroFrames framesOn
  rw [List.foldl_map]
  exact core_foldl_modCore_key

theorem mem_framesOn {page n : Nat} {g : Nat × Nat × Nat} :
    g ∈ framesOn p k page n ↔ ∃ f ∈ pageOf p.image k page, f.1 = n ∧ (f.2.1, Config.pageKind p.image f.1 f.2.1 % 3, f.2.2) = g := by
  simp only [framesOn, List.mem_map, List.mem_filter, decide_eq_true_eq, and_assoc]

theorem core_pageZeroed_away {page n : Nat} (h : ∀ f ∈ pageOf p.image k page, f.1 ≠ n) : (s.pageZeroed p k page).core n = s.core n := by
  have none : framesOn p k page n = [] := by
    rw [framesOn, List.filter_eq_nil_iff.2 fun f hf => by simpa using h f hf]
    rfl
  rw [core_pageZeroed, none]
  rfl

theorem core_allocPage (hx : mget s.slots k = some x) (hp : s.planOf x.stream = some p) {n : Nat} :
    (s.allocPage k).core n = (s.core n).zeroFrames (framesOn p k x.allocated n) := by
  rw [allocPage_some hx hp]
  exact core_pageZeroed

theorem pageAllocation_due (hs : s.serving = true) (hx : mget s.slots k = some x) (hlim : 64 * x.allocated < (s.stream x.stream).limit)
    (hlen : 64 * x.allocated ≤ (s.stream x.stream).length + 32) (hrun : s.pageRun (s.stream x.stream).part = true) :
    pageAllocation k s = s.allocPage k := by
  simp only [pageAllocation, hx]
  refine if_neg ?_
  rw [not_or, not_or, not_or]
  exact ⟨by simp [hs], by simp [hrun], not_le.2 hlim, fun h => absurd hlen (not_le.2 h.1)⟩

end

/-! ## A chunk of an append -/

theorem length_toLe (k n : Nat) : (toLe k n).length = k := by
  induction k generalizing n with
  | zero => rfl
  | succ k ih => rw [toLe, List.length_cons, ih]

theorem leNat_toLe (k n : Nat) : leNat (toLe k n) = n % 256 ^ k := by
  induction k generalizing n with
  | zero => simp [toLe, leNat, Nat.mod_one]
  | succ k ih =>
    rw [toLe, leNat, ih, BitVec.toNat_ofNat, Nat.pow_succ' (n := k)]
    exact Nat.mod_mul.symm

theorem Mem.read_write {m : Mem} {a o n : Nat} {bs : List Byte} (h : o + n ≤ bs.length) :
    (m.write a bs).read (a + o) n = (bs.drop o).take n := by
  refine List.ext_getElem (by simp [Mem.read, tabulate]; omega) fun i h1 h2 => ?_
  have hi : i < n := by simpa [Mem.read, tabulate] using h1
  have hlen : o + i < bs.length := by omega
  simp only [Mem.read, tabulate, List.getElem_map, List.getElem_range, Mem.byte_write, List.getElem_take, List.getElem_drop]
  rw [if_pos (by omega), show a + o + i - a = o + i by omega, List.getD_eq_getElem _ _ hlen]

/-- A field of a written block reads back. -/
theorem Mem.num_write_field {m : Mem} {a k n : Nat} {before after : List Byte} :
    (m.write a (before ++ (toLe k n ++ after))).num (a + before.length) k = n % 256 ^ k := by
  rw [Mem.num, Mem.read_write (by simp [length_toLe]), List.drop_left, List.take_left' (length_toLe k n), leNat_toLe]

section
variable {s : State} {id n k : Nat} {c : Cmd} {p : Plan} {r : Run}

/-- The tokens of the next chunk of an append: the stream's pending token, then the command's. -/
def State.chunkTokens (s : State) (c : Cmd) (m : Nat) : List Word :=
  tabulate m fun i => if i = 0 then (s.stream c.named).pending.getD 0 else s.appendToken c (c.done + i - 1)

/-- The 320 bytes of a chunk (R301). -/
def State.chunkEntry (s : State) (c : Cmd) (slot m : Nat) : List Byte :=
  (toLe 2 slot ++ toLe 4 (s.stream c.named).length ++ toLe 1 m ++ List.replicate 57 0) ++
    ((s.chunkTokens c m).flatMap fun t => toLe 4 t.toNat) ++ List.replicate (4 * (64 - m)) 0

theorem chunkEntry_length {slot m : Nat} (h : m ≤ 64) : (s.chunkEntry c slot m).length = 320 := by
  have tokens : ((s.chunkTokens c m).flatMap fun t => toLe 4 t.toNat).length = 4 * m := by
    simp [State.chunkTokens, List.length_flatMap, length_toLe, tabulate, Nat.mul_comm, Function.comp_def]
  simp only [State.chunkEntry, List.length_append, length_toLe, List.length_replicate, tokens]
  omega

/-- The state with the next chunk of an append in the ring of chunks. -/
def State.chunkJoined (s : State) (c : Cmd) (n : Nat) (p : Plan) (slot m : Nat) : State :=
  ({ s with staging := s.staging.write (p.stageBase + 320 * (p.chunks % 16)) (s.chunkEntry c slot m),
            plans := sins s.plans n { p with chunks := p.chunks + 1 } } : State).setCmd { c with joined := m }

theorem prefillChunk_joins (hc : s.admitted id 0x02 = some c) (hphase : c.phase = .running) (hjoined : c.joined = 0) (habort : c.abort = false)
    (hpre : s.prefillOf c.named = some (n, p)) (hslot : (s.stream c.named).slot = some k) (hrun : s.run? n = some r)
    (hleft : c.done < c.par 0x20 4) (hroom : ((s.executing n).filter fun e => e.joined != 0).length < 16)
    (hfirst : ((s.executing n).find? fun e => e.joined == 0).map (·.id) = some id)
    (hpage : s.hasPage c.named ((s.stream c.named).length + min 64 (c.par 0x20 4 - c.done) - 1) = true) :
    prefillChunk id s = s.chunkJoined c n p k (min 64 (c.par 0x20 4 - c.done)) := by
  have mine : ((s.admitted id 0x02).filter fun c => decide (c.phase = .running) && c.joined == 0 && !c.abort) = some c := by
    rw [hc, Option.filter_some, if_pos (by simp [hphase, hjoined, habort])]
  simp only [prefillChunk, mine, hpre, hslot]
  refine (if_neg ?_).trans (if_pos ?_)
  · rw [not_or, not_or, not_or]
    exact ⟨by omega, not_le.2 hroom, not_not.2 hfirst, by simp [hpage]⟩
  · have runs : (s.chunkJoined c n p k (min 64 (c.par 0x20 4 - c.done))).run? n = some r := hrun
    exact Option.isSome_of_eq_some runs

theorem cmd?_chunkJoined {slot m : Nat} (hc : s.admitted id 0x02 = some c) :
    (s.chunkJoined c n p slot m).cmd? id = some { c with joined := m } := by
  have found := cmd?_of_admitted hc
  have mine := id_of_admitted hc
  subst mine
  exact cmd?_setCmd (c := { c with joined := m }) (Option.isSome_of_eq_some found)

theorem plan?_chunkJoined {slot m : Nat} : (s.chunkJoined c n p slot m).plan? n = some { p with chunks := p.chunks + 1 } :=
  mget_sins.trans (if_pos rfl)

theorem staging_chunkJoined {slot m : Nat} :
    (s.chunkJoined c n p slot m).staging = s.staging.write (p.stageBase + 320 * (p.chunks % 16)) (s.chunkEntry c slot m) := by
  simp only [State.chunkJoined, State.setCmd]

theorem chunkJoined_eq {slot m : Nat} : s.chunkJoined c n p slot m = { s with
    staging := (s.chunkJoined c n p slot m).staging, plans := (s.chunkJoined c n p slot m).plans, cmds := (s.chunkJoined c n p slot m).cmds } := by
  have kept : ∃ staging plans cmds, s.chunkJoined c n p slot m = { s with staging := staging, plans := plans, cmds := cmds } := ⟨_, _, _, rfl⟩
  obtain ⟨staging, plans, cmds, e⟩ := kept
  rw [e]

/-- A chunk's bytes: the slot, the position of its first token, and the rest. -/
theorem chunkEntry_fields {slot m : Nat} : ∃ rest, s.chunkEntry c slot m = toLe 2 slot ++ (toLe 4 (s.stream c.named).length ++ rest) := by
  unfold State.chunkEntry
  simp only [List.append_assoc]
  exact ⟨_, rfl⟩

theorem chunk_slot {slot m a : Nat} {mem : Mem} : (mem.write a (s.chunkEntry c slot m)).num a 2 = slot % 65536 := by
  obtain ⟨rest, e⟩ := chunkEntry_fields (s := s) (c := c) (slot := slot) (m := m)
  have field := Mem.num_write_field (m := mem) (a := a) (before := []) (k := 2) (n := slot) (after := toLe 4 (s.stream c.named).length ++ rest)
  rwa [List.nil_append, List.length_nil, Nat.add_zero, ← e] at field

theorem chunk_position {slot m a : Nat} {mem : Mem} :
    (mem.write a (s.chunkEntry c slot m)).num (a + 2) 4 = (s.stream c.named).length % 2 ^ 32 := by
  obtain ⟨rest, e⟩ := chunkEntry_fields (s := s) (c := c) (slot := slot) (m := m)
  have field := Mem.num_write_field (m := mem) (a := a) (before := toLe 2 slot) (k := 4) (n := (s.stream c.named).length) (after := rest)
  rwa [length_toLe, ← e] at field

end

/-- Settles O37: the equation of each command, and what it leaves. -/
theorem stepsAndPagesAdvance : Obligations.StepsAndPagesAdvance := by
  refine fun s hs => ⟨fun n p r l hp hr hk hready => ?_,
    fun n p r c id hp hr hin hbroken hfail hcmd hc habort herror hall hsome => ?_,
    fun n p r c id hp hr hbroken hfail hcmd hc hop habort herror hall => ?_,
    fun k x hx hlim hlen hrun => ?_, fun id c n p k r hc hphase hjoined habort hpre hslot hrun hleft hroom hfirst hpage => ?_⟩
  · intro b hafter hown hl
    have opens := stepStart_opens hs hp hr hk hready rfl hafter hown hl
    obtain ⟨snaps, runs, cores, e⟩ := stepOpened_eq (s := s) (n := n) (p := p) (r := r) (b := b)
    refine ⟨_, _, congrArg Host.Outcome.next opens, run?_setRun.trans (if_pos rfl), rfl, rfl, rfl, rfl, (congrArg State.time e :),
      fun x hx hd hlen => stepOpened_marks hx hd hlen, (congrArg State.staging e :), (congrArg State.cmds e :), (congrArg State.streams e :)⟩
  · obtain ⟨k, e, passes⟩ := stepComplete_passes hs hp hr hin hbroken hfail hcmd hc habort herror hall hsome
    have kept := stepPassed_eq (s := s) (p := p)
    refine ⟨_, _, congrArg Host.Outcome.next passes, ?_, run?_setRun.trans (if_pos rfl), rfl, rfl, rfl, fun m hm => ?_⟩
    · rw [kept]
      rfl
    · exact (run?_setRun.trans (if_neg hm)).trans (congrArg (State.run? · m) kept :)
  · obtain ⟨r', ends⟩ := runComplete_ends hs hp hr hbroken hfail hcmd hc habort herror hall
    obtain ⟨streams, books⟩ := endRunCmd_books (s := s) (p := p) (r := r') (c := c) (by simp [hop])
    obtain ⟨cores, stops⟩ := stopRun_eq (s := s.endRunCmd c p r') (n := n) (p := p)
    have mine : c.id = id := by simpa using List.find?_some hc
    have runs : (s.endRunCmd c p r').runs = s.runs := (congrArg State.runs books :)
    refine ⟨_, congrArg Host.Outcome.next (ends.trans stops), mget_sdel_same, ?_, fun m hm => ?_, (congrArg State.plans books :),
      (congrArg State.staging books :)⟩
    · rw [← mine]
      exact (congrArg State.cmds books :)
    · exact (mget_sdel_other hm).trans (congrArg (mget · m) runs)
  · have due := pageAllocation_due hs hx hlim hlen hrun
    refine ⟨_, congrArg Host.Outcome.next (due.trans (allocPage_eq hx)), rfl, mget_sins.trans (if_pos rfl), fun j hj => mget_sins.trans (if_neg hj),
      fun p hp => ?_⟩
    intro rows frames
    have core (n : Nat) : (s.allocPage k).core n = _ := core_allocPage hx hp
    refine ⟨fun n hn => ?_, fun n hn => ⟨fun f hf hfn i hi j hj => ?_, fun a ha => ?_⟩⟩
    · exact (core n).trans (core_pageZeroed.symm.trans (core_pageZeroed_away hn))
    · refine (congrArg (fun u : Core => u.dcm.byte _) (core n)).trans (zeroFrames_zero hn (mem_framesOn.2 ⟨f, hf, hfn, rfl⟩) ?_)
      exact ⟨i, hi, j, hj, rfl⟩
    · refine (congrArg (fun u : Core => u.dcm.byte a) (core n)).trans (zeroFrames_outside hn fun g hg => ?_)
      obtain ⟨f, hf, hfn, rfl⟩ := mem_framesOn.1 hg
      rintro ⟨i, hi, j, hj, e⟩
      exact ha f hf hfn i hi j hj e
  · have joins := prefillChunk_joins hc hphase hjoined habort hpre hslot hrun hleft hroom hfirst hpage
    have size := chunkEntry_length (s := s) (c := c) (slot := k) (Nat.min_le_left 64 (c.par 0x20 4 - c.done))
    refine ⟨_, congrArg Host.Outcome.next joins, chunkJoined_eq, cmd?_chunkJoined hc, plan?_chunkJoined, ?_⟩
    rw [staging_chunkJoined]
    refine ⟨chunk_slot, chunk_position, fun a ha => Mem.byte_write_outside ?_⟩
    rwa [size]

end Sys2Proof.Machine
end

section
/-!
What the record and the handling of faults of the arrays leave: commands, plans, device time, partitions, regions and the cause of the
last reset (R113-R118, R397-R402).
-/
namespace Sys2Proof.Machine

/-- Commands, plans, device time, partitions, regions, and RESET_CAUSE. -/
def State.steady (s : State) := (s.cmds, s.plans, s.time, s.parts, s.regions, s.hubWord rResetCause)

/-- These, and the batches in flight. -/
def State.calm (s : State) := (s.steady, s.batches)

section
variable {s t : State} {src inst lvl o k n : Nat}

theorem calm_of_unreported (h : t.unreported = s.unreported) (hub : t.hubWord rResetCause = s.hubWord rResetCause) : t.calm = s.calm :=
  congrArg₂ (fun (a : _ × _ × _ × _ × _ × _) w => ((a.1, a.2.1, a.2.2.1, a.2.2.2.1, a.2.2.2.2.1, w), a.2.2.2.2.2))
    (congrArg (fun u : State => (u.cmds, u.plans, u.time, u.parts, u.regions, u.batches)) h :) hub

@[simp] theorem ite_calm (p : Prop) [Decidable p] (a b : State) : (if p then a else b).calm = if p then a.calm else b.calm :=
  apply_ite _ _ _ _

theorem setHub_calm {v : Word} (h : o ≠ rResetCause) : (s.setHub o v).calm = s.calm :=
  calm_of_unreported rfl (State.hubWord_setHub.trans (if_neg h.symm))

theorem hubInc_calm (h : o ≠ rResetCause) : (s.hubInc o k).calm = s.calm := setHub_calm h

/-! ## Events -/

@[simp] theorem severeEnd_calm : (s.severeEnd src inst).calm = s.calm := calm_of_unreported severeEnd_unreported hubWord_severeEnd

/-- RESET_CAUSE lies above every counter of a source. -/
theorem besideEvents_resetCause (h : src < 32) : besideEvents src rResetCause := by
  unfold besideEvents rFltSticky rFltCount rResetCause
  omega

theorem countEvent_calm (h : src < 32) : (s.countEvent src inst).calm = s.calm := by
  have regs : ((s.hubOr rFltSticky (BitVec.ofNat 32 (2 ^ src))).hubInc (rFltCount + 4 * src) 1).calm = s.calm :=
    (hubInc_calm (by unfold rFltCount rResetCause; omega)).trans (setHub_calm (by decide))
  unfold State.countEvent
  dsimp only
  split
  · exact regs
  · exact regs

theorem severeReport_calm (h : src < 32) : (s.severeReport src inst).calm = s.calm :=
  calm_of_unreported severeReport_unreported (hubWord_severeReport (besideEvents_resetCause h))

/-- An event below the Fatal level. -/
theorem recordEvent_calm (hsrc : src < 32) (hl : lvl ≠ 3) : (s.recordEvent src inst lvl).1.calm = s.calm := by
  have kept (u : State) (f : FaultInst) : (u.setFaultInst f).calm = u.calm := calm_of_unreported setFaultInst_unreported hubWord_setFaultInst
  have told (u : State) (ps : List Nat) : (u.reportAttention src 1 ps).calm = u.calm :=
    calm_of_unreported reportAttention_unreported hubWord_reportAttention
  have again (u : State) : (u.hubInc rEscalateCount 1).calm = u.calm := hubInc_calm (by decide)
  unfold State.recordEvent
  split
  · rfl
  · simp only [apply_ite Prod.fst, ite_calm, severeReport_calm hsrc, again, told, kept, countEvent_calm hsrc, ite_self]

theorem reportOnly_calm (hsrc : src < 32) (hl : lvl ≠ 3) : (s.reportOnly src inst lvl).calm = s.calm := by
  unfold State.reportOnly
  dsimp only
  split
  · exact severeEnd_calm.trans (recordEvent_calm hsrc hl)
  · exact recordEvent_calm hsrc hl

@[simp] theorem addRepair_calm {r : Repair} : (s.addRepair n r).calm = s.calm := by
  unfold State.addRepair
  dsimp only
  split
  · rfl
  · exact reportOnly_calm (by decide) (by decide)

/-! ## Refresh and stand-in -/

@[simp] theorem serveRefresh_calm {core st : Nat} : (s.serveRefresh core st).calm = s.calm := by
  unfold State.serveRefresh
  dsimp only
  split
  · rfl
  · exact reportOnly_calm (by decide) (by decide)
  · split
    · rfl
    · split <;> rfl

@[simp] theorem scheduleRefresh_calm : (s.scheduleRefresh n).calm = s.calm := by
  unfold State.scheduleRefresh
  dsimp only
  split
  · rfl
  · exact serveRefresh_calm.trans (hubInc_calm (by decide))

/-! ## Stand-in -/

theorem steady_of_calm (h : t.calm = s.calm) : t.steady = s.steady := congrArg Prod.fst h

@[simp] theorem ite_steady (p : Prop) [Decidable p] (a b : State) : (if p then a else b).steady = if p then a.steady else b.steady :=
  apply_ite _ _ _ _

theorem modCore_steady {f : Core → Core} : (s.modCore n f).steady = s.steady := rfl
theorem serveRefresh_steady {core st : Nat} : (s.serveRefresh core st).steady = s.steady := steady_of_calm serveRefresh_calm
theorem scheduleRefresh_steady : (s.scheduleRefresh n).steady = s.steady := steady_of_calm scheduleRefresh_calm

@[simp] theorem breakUnit_steady : (s.breakUnit n).steady = s.steady := by
  unfold State.breakUnit
  split
  · exact foldl_keeps State.steady (fun _ _ => (rfl : (State.modCore (State.modTask _ _ _ _) _ _).steady = _)) _ _
  · rfl

@[simp] theorem restartBatches_steady : (s.restartBatches n).steady = s.steady := by
  unfold State.restartBatches
  exact (steady_of_calm (hubInc_calm (by decide))).trans rfl

@[simp] theorem breakUnits_steady : (s.breakUnits n).steady = s.steady :=
  restartBatches_steady.trans (foldl_keeps State.steady (fun _ _ => breakUnit_steady) _ _)

@[simp] theorem standIn_steady : (s.standIn n).steady = s.steady := by
  unfold State.standIn
  simp only [ite_steady, serveRefresh_steady, scheduleRefresh_steady, modCore_steady, breakUnits_steady, ite_self]

/-- An event of an array, whose Severe handling stands in for its deck. -/
theorem faultEvent_array_steady (hl : lvl ≠ 3) : (s.faultEvent 15 inst lvl).steady = s.steady := by
  have handled (u : State) : (u.handleSevere 15 inst).steady = u.steady := (steady_of_calm severeEnd_calm).trans standIn_steady
  unfold State.faultEvent
  dsimp only
  split
  · exact (handled _).trans (steady_of_calm (recordEvent_calm (by decide) hl))
  · exact steady_of_calm (recordEvent_calm (by decide) hl)

end

end Sys2Proof.Machine
end

section
/-!
Queries and batches of the scan service (R304-R310); O38.
-/
namespace Sys2Proof.Machine

/-! ## Updates of admitted commands -/

/-- The state without its admitted commands. -/
def State.uncommanded (s : State) : State := { s with cmds := [] }

section
variable {s t : State} {c q : Cmd} {id op : Nat}

theorem ids_setCmd : (s.setCmd c).cmds.map (·.id) = s.cmds.map (·.id) := by
  rw [State.setCmd, List.map_map]
  refine List.map_congr_left fun x _ => ?_
  rw [Function.comp_apply]
  split
  next h => exact h.symm
  next => rfl

theorem isSome_cmd? : (s.cmd? id).isSome = true ↔ id ∈ s.cmds.map (·.id) := by
  simp [State.cmd?, List.find?_isSome]

theorem cmd?_eq_none : s.cmd? id = none ↔ id ∉ s.cmds.map (·.id) := by
  simp [State.cmd?]

theorem cmd?_setCmd_other (h : c.id ≠ id) : (s.setCmd c).cmd? id = s.cmd? id := by
  have same : ((fun x : Cmd => x.id == id) ∘ fun x => if x.id = c.id then c else x) = fun x => x.id == id := by
    funext x
    by_cases e : x.id = c.id <;> simp [e]
  have kept : ∀ x, x.id = id → (if x.id = c.id then c else x) = x := fun x hx => if_neg fun e => h (e.symm.trans hx)
  unfold State.cmd? State.setCmd
  rw [List.find?_map, same]
  cases hf : s.cmds.find? fun x => x.id == id with
  | none => rfl
  | some x => exact congrArg some (kept x (by simpa using List.find?_some hf))

/-! ## Queries -/

theorem cmd?_setCmd_admitted (hc : s.admitted id op = some c) {content : List Byte} :
    (s.setCmd { c with content := content }).cmd? id = some { c with content := content } := by
  have found := cmd?_of_admitted hc
  have mine := id_of_admitted hc
  subst mine
  exact cmd?_setCmd (c := { c with content := content }) (Option.isSome_of_eq_some found)

theorem query_fetches (hc : s.admitted id op = some c) (hw : c.phase = .waiting) (he : c.content = []) (hb : c.notBefore ≤ s.beat)
    (hd : (s.port c.port).dmaOn = true) : query op id s = s.fetchQuery c := by
  have mine : ((s.admitted id op).filter fun c => decide (c.phase = .waiting) && c.content == []) = some c := by
    rw [hc, Option.filter_some, if_pos (by simp [hw, he])]
  unfold query
  rw [mine]
  exact if_pos ⟨hb, hd⟩

/-! ## The start of a batch -/

/-- One waiting query more: it is ready, or holds back those of its stream. -/
def State.takeReady (s : State) (a : List Cmd × List Nat) (c : Cmd) : List Cmd × List Nat :=
  if a.2.contains c.named then a
  else if (c.content != [] || c.fail.isSome) && s.mayStart c then (a.1 ++ [c], a.2) else (a.1, a.2 ++ [c.named])

theorem mem_takeReady {a : List Cmd × List Nat} (h : q ∈ (s.takeReady a c).1) : q ∈ a.1 ∨ q = c := by
  unfold State.takeReady at h
  split at h
  · exact .inl h
  · split at h
    · exact (List.mem_append.1 h).imp_right List.mem_singleton.1
    · exact .inl h

theorem mem_readyQueries {p : Nat} (h : q ∈ s.readyQueries p) : q ∈ s.cmds := by
  have sub (l : List Cmd) (a : List Cmd × List Nat) (hq : q ∈ (l.foldl s.takeReady a).1) : q ∈ a.1 ∨ q ∈ l := by
    induction l generalizing a with
    | nil => exact .inl hq
    | cons c l ih =>
      obtain h | h := ih _ hq
      · exact (mem_takeReady h).imp_right fun e => List.mem_cons.2 (.inl e)
      · exact .inr (List.mem_cons_of_mem c h)
  obtain h | h := sub _ ([], []) h
  · cases h
  · exact (List.mem_filter.1 h).1

/-- The queries of a batch begin, each with the failure that the batch gives it. -/
def State.queriesBegun (s : State) (fails : Cmd → Option Nat) (qs : List Cmd) : State := qs.foldl (fun s q => s.begin_ { q with fail := fails q }) s

variable {fails : Cmd → Option Nat} {qs : List Cmd}

theorem queriesBegun_uncommanded : (s.queriesBegun fails qs).uncommanded = s.uncommanded :=
  foldl_keeps State.uncommanded (fun _ _ => (rfl : (State.begin_ _ _).uncommanded = _)) _ _

theorem ids_queriesBegun : (s.queriesBegun fails qs).cmds.map (·.id) = s.cmds.map (·.id) :=
  foldl_keeps (fun u : State => u.cmds.map (·.id)) (fun _ _ => ids_setCmd) _ _

theorem queriesBegun_running (hid : id ∈ s.cmds.map (·.id)) (h : (∃ q ∈ qs, q.id = id) ∨ (s.cmd? id).map (·.phase) = some .running) :
    ((s.queriesBegun fails qs).cmd? id).map (·.phase) = some .running := by
  induction qs generalizing s with
  | nil => exact h.resolve_left (by simp)
  | cons q qs ih =>
    refine ih (s := s.begin_ { q with fail := fails q }) (ids_setCmd.symm ▸ hid) ?_
    by_cases hq : q.id = id
    · subst hq
      exact .inr (congrArg (Option.map (·.phase)) (cmd?_begin_ (c := { q with fail := fails q }) (isSome_cmd?.2 hid)))
    · refine h.imp (fun ⟨x, hx, e⟩ => ⟨x, (List.mem_cons.1 hx).resolve_left fun hx => hq (hx ▸ e), e⟩) fun h => ?_
      exact (congrArg (Option.map (·.phase)) (cmd?_setCmd_other (c := { q with fail := fails q, phase := .running }) hq)).trans h

/-- What a batch gives a query that names a vector outside the corpus. -/
def Corpus.failOf (k : Corpus) (q : Cmd) : Option Nat := if k.holdsAll q then q.fail else some (q.fail.getD stAccessDenied)

/-- The beat from which the batches of a corpus follow one another without a gap. -/
def Corpus.seriesAt (k : Corpus) (beat : Nat) : Nat := if k.lastEnd = some beat then k.seriesFrom else beat

/-- The batch of queries that starts now. -/
def State.newBatch (s : State) (k : Corpus) (qs : List Cmd) : Batch :=
  { cmds := qs.map (·.id), start := s.beat, epoch := k.epoch, replayed := false }

/-- The state with a batch of a partition in flight, in a series of batches from a beat on. -/
def State.batchNoted (s : State) (p : Nat) (k : Corpus) (qs : List Cmd) (from_ : Nat) : State :=
  { s.setCorpus p { k with seriesFrom := from_ } with batches := sins s.batches p (s.newBatch k qs) }

variable {p : Nat} {k : Corpus}

theorem newBatch_queriesBegun : (s.queriesBegun fails qs).newBatch k qs = s.newBatch k qs :=
  (congrArg (State.newBatch · k qs) queriesBegun_uncommanded :)

theorem batchStart_begins (hs : s.serving = true) (hk : s.corpus? p = some k) (hb : mget s.batches p = none) (hch : k.changes = [])
    (hqs : ((s.advanceTo s.nextBoundary).readyQueries p).take (s.part p).queryBatch = qs) (hne : qs ≠ [])
    (hep : k.epochBeat ≠ some (s.advanceTo s.nextBoundary).beat) :
    batchStart p s = ((s.advanceTo s.nextBoundary).queriesBegun k.failOf qs).batchNoted p k qs (k.seriesAt (s.advanceTo s.nextBoundary).beat) := by
  have part : (s.advanceTo s.nextBoundary).part p = s.part p := rfl
  simp only [batchStart, hk, part, hqs]
  exact (if_neg (by simp [hs, hb])).trans (if_neg (by simp [hne, hep, hch]))

theorem batchStart_busy (h : (mget s.batches p).isSome = true) : batchStart p s = s := by
  unfold batchStart
  split
  · rfl
  · exact if_pos (.inr h)

end

/-! ## The answers of a batch (R305-R307) -/

section
variable {s : State} {k : Corpus} {reads : List (Nat × Check)} {i shift : Nat} {q : Cmd} {b : Batch}

/-- A column read that may fall back to rows, none of which fails. -/
theorem readColumn_calm (h : columnFails reads i = false) : (s.readColumn k reads i).calm = s.calm := by
  have counted (u : State) (n : Nat) : (u.hubInc rBchCorrected n).calm = u.calm := hubInc_calm (by decide)
  have fallback (u : State) (n : Nat) : ((u.hubInc rColcheckFallback 1).scheduleRefresh n).calm = u.calm :=
    scheduleRefresh_calm.trans (hubInc_calm (by decide))
  unfold State.readColumn
  split
  · rfl
  · rw [if_neg (by simp [h])]
    split
    · rfl
    · dsimp only
      split
      · exact (fallback _ _).trans (counted _ _)
      · exact fallback _ _

theorem readColumn_steady : (s.readColumn k reads i).steady = s.steady := by
  by_cases h : columnFails reads i = true
  · have counted (u : State) : (u.hubInc rUncorrectable 1).steady = u.steady := steady_of_calm (hubInc_calm (by decide))
    unfold State.readColumn
    split
    · rfl
    · rw [if_pos h]
      exact (faultEvent_array_steady (by decide)).trans (counted _)
  · exact steady_of_calm (readColumn_calm (Bool.eq_false_of_not_eq_true h))

theorem hostWrite_calm {p a : Nat} {bs : List Byte} : (s.hostWrite p a bs).calm = s.calm :=
  (congrArg State.calm (eq_of_unported hostWrite_unported)).trans rfl

theorem addUnits_calm {n u : Nat} : (s.addUnits n u).calm = s.calm := rfl

/-- What calm states share is kept by an answer where its column reads keep it. -/
theorem batchAnswer_keeps {γ : Type} (π : State → γ) (hcalm : ∀ {s t : State}, t.calm = s.calm → π t = π s)
    (hread : ∀ (u : State) i, π (u.readColumn k reads i) = π u) : π (s.batchAnswer k b reads shift q).1 = π s := by
  have scan (q : Cmd) : π (s.scan k q shift).2.2 = π s :=
    foldl_keeps (fun a : List Hit × Grade2 × State => π a.2.2) (fun _ _ => hcalm (s := Prod.snd (Prod.snd _)) (by rfl)) _ ([], Grade2.none, s)
  have serve (q : Cmd) : π (s.serveQuery k reads shift q).1 = π s := by
    unfold State.serveQuery
    split
    · exact (foldl_keeps π hread _ _).trans (scan q)
    · exact foldl_keeps π hread _ _
  have answer (q : Cmd) : π (s.answerQuery k b.epoch reads shift q).1 = π s := by
    unfold State.answerQuery
    dsimp only
    split
    · exact serve q
    · refine (hcalm ?_).trans (serve q)
      exact addUnits_calm.trans (by rw [ite_calm, hostWrite_calm, ite_self])
  unfold State.batchAnswer
  split
  · rfl
  · split
    · rfl
    · exact answer _

theorem answerQuery_id {epoch : Word} : (s.answerQuery k epoch reads shift q).2.1.id = q.id := by
  unfold State.answerQuery
  dsimp only
  split <;> rfl

theorem batchAnswer_id : (s.batchAnswer k b reads shift q).2.1.id = q.id := by
  unfold State.batchAnswer
  split
  · rfl
  · split
    · rfl
    · exact answerQuery_id

/-- One more query of a batch is answered. -/
def answerNext (k : Corpus) (b : Batch) (reads : List (Nat × Check)) (a : State × List (Cmd × Result)) (e : Cmd × Nat) :
    State × List (Cmd × Result) :=
  ((a.1.batchAnswer k b reads (e.2 * k.decks.length) e.1).1, a.2 ++ [(a.1.batchAnswer k b reads (e.2 * k.decks.length) e.1).2])

/-- The queries of a batch are answered one after the other. -/
def State.batchAnswers (s : State) (k : Corpus) (b : Batch) (reads : List (Nat × Check)) (qs : List Cmd) : State × List (Cmd × Result) :=
  (qs.zip (List.range qs.length)).foldl (answerNext k b reads) (s, [])

theorem batchAnswers_keeps {γ : Type} (π : State → γ) (hcalm : ∀ {s t : State}, t.calm = s.calm → π t = π s)
    (hread : ∀ (u : State) i, π (u.readColumn k reads i) = π u) {qs : List Cmd} : π (s.batchAnswers k b reads qs).1 = π s :=
  foldl_keeps (fun a : State × List (Cmd × Result) => π a.1) (fun _ _ => batchAnswer_keeps π hcalm hread) _ (s, [])

theorem batchAnswers_ids {qs : List Cmd} : (s.batchAnswers k b reads qs).2.map (·.1.id) = qs.map (·.id) := by
  have ids (l : List (Cmd × Nat)) (a : State × List (Cmd × Result)) :
      (l.foldl (answerNext k b reads) a).2.map (·.1.id) = a.2.map (·.1.id) ++ l.map (·.1.id) := by
    induction l generalizing a with
    | nil => simp
    | cons e l ih => rw [List.foldl_cons, ih]; simp [answerNext, batchAnswer_id]
  have first : (qs.zip (List.range qs.length)).map (·.1.id) = qs.map (·.id) := by
    have fst : (qs.zip (List.range qs.length)).map Prod.fst = qs := List.map_fst_zip (by simp)
    exact List.map_map.symm.trans (congrArg (List.map (·.id)) fst)
  exact (ids _ (s, [])).trans first

end

/-! ## The end of a batch (R308) -/

section
variable {s : State} {c : Cmd} {id : Nat}

theorem bookOut_cmds {r : Result} : (s.bookOut c r).cmds = s.cmds.filter fun x => x.id != c.id := by
  obtain ⟨streams, e⟩ := bookOut_books (s := s) (c := c) (x := r)
  exact (congrArg State.cmds e :)

/-- What a completion leaves beside its report: all but the commands and their streams. -/
def State.unbooked (s : State) : State := { s.unreported with cmds := [], streams := [] }

theorem bookOut_unbooked {r : Result} : (s.bookOut c r).unbooked = s.unbooked := by
  obtain ⟨streams, e⟩ := bookOut_books (s := s) (c := c) (x := r)
  have cleared := congrArg (fun u : State => ({ u with cmds := [], streams := [] } : State)) e
  exact cleared

theorem completeAll_unbooked {l : List (Cmd × Result)} : (s.completeAll l).unbooked = s.unbooked := by
  have written := congrArg (fun u : State => ({ u with cmds := [], streams := [] } : State))
    (writeEntries_unreported (s := l.foldl (fun s e => s.bookOut e.1 e.2) s) (l := (l.filter fun e => !e.1.discard).map fun e => e.1.entryOf e.2))
  exact Eq.trans written (foldl_keeps State.unbooked (fun _ _ => bookOut_unbooked) l s)

/-- The commands that complete together leave the admitted ones. -/
theorem mem_cmds_completeAll {l : List (Cmd × Result)} : c ∈ (s.completeAll l).cmds ↔ c ∈ s.cmds ∧ c.id ∉ l.map (·.1.id) := by
  have written : (s.completeAll l).cmds = (l.foldl (fun s e => s.bookOut e.1 e.2) s).cmds := (congrArg State.cmds writeEntries_unreported :)
  rw [written]
  clear written
  induction l generalizing s with
  | nil => simp
  | cons e l ih => simp [ih, bookOut_cmds, List.mem_filter, and_assoc]

theorem countAborted_uncommanded {qs : List Cmd} : (s.countAborted qs).uncommanded = s.uncommanded := by
  refine foldl_keeps State.uncommanded (fun u q => ?_) _ _
  split <;> rfl

theorem ids_countAborted {qs : List Cmd} : (s.countAborted qs).cmds.map (·.id) = s.cmds.map (·.id) := by
  refine foldl_keeps (fun u : State => u.cmds.map (·.id)) (fun u q => ?_) _ _
  split
  · exact ids_setCmd
  · rfl

variable {p : Nat} {k : Corpus} {b : Batch} {reads : List (Nat × Check)}

/-- The queries of a batch that are still admitted. -/
def State.batchQueries (s : State) (b : Batch) : List Cmd := b.cmds.filterMap s.cmd?

/-- The state whose batch of a partition has been answered and is no longer in flight. -/
def State.batchAnswered (s : State) (p : Nat) (k : Corpus) (b : Batch) (reads : List (Nat × Check)) : State :=
  { (s.batchAnswers k b reads (s.batchQueries b)).1 with
    freeCtr := (s.batchAnswers k b reads (s.batchQueries b)).1.freeCtr + (s.batchQueries b).length * k.decks.length + 1,
    batches := sdel (s.batchAnswers k b reads (s.batchQueries b)).1.batches p }

/-- The state in which the queries of a batch have completed. -/
def State.batchBooked (s : State) (p : Nat) (k : Corpus) (b : Batch) (reads : List (Nat × Check)) : State :=
  ((s.batchAnswered p k b reads).completeAll (s.batchAnswers k b reads (s.batchQueries b)).2).countAborted (s.batchQueries b)

theorem batchComplete_ends (hs : s.serving = true) (hk : s.corpus? p = some k) (hb : mget s.batches p = some b) (hbeat : b.start ≤ s.beat)
    (hnow : s.scansNow p = true ∨ k.decks = []) :
    ∃ last, batchComplete p reads s = (s.batchBooked p k b reads).setCorpus p { k with lastEnd := last } := by
  refine ⟨some ((s.batchBooked p k b reads).nextBoundary / (s.batchBooked p k b reads).beatNs), ?_⟩
  unfold batchComplete
  rw [hb, hk]
  refine if_neg ?_
  rw [not_or, not_or]
  exact ⟨by simp [hs], not_lt.2 hbeat, fun h => hnow.elim (fun e => by simp [e] at h) h.2⟩

theorem batchComplete_waits (hk : s.corpus? p = some k) (hb : mget s.batches p = some b) (hnow : s.scansNow p = false) (hd : k.decks ≠ []) :
    batchComplete p reads s = s := by
  unfold batchComplete
  rw [hb, hk]
  exact if_pos (.inr (.inr ⟨hnow, hd⟩))

theorem batchBooked_unbooked : (s.batchBooked p k b reads).unbooked = (s.batchAnswered p k b reads).unbooked := by
  have counted (u : State) (qs : List Cmd) : (u.countAborted qs).unbooked = u.unbooked :=
    (congrArg (fun u : State => ({ u.unreported with streams := [] } : State)) countAborted_uncommanded :)
  exact (counted _ _).trans completeAll_unbooked

theorem batchAnswered_steady : (s.batchAnswered p k b reads).steady = s.steady :=
  batchAnswers_keeps State.steady steady_of_calm fun _ _ => readColumn_steady

theorem batches_batchAnswered (h : reads = []) : (s.batchAnswered p k b reads).batches = sdel s.batches p := by
  subst h
  have calm := batchAnswers_keeps (s := s) (k := k) (b := b) (reads := []) (qs := s.batchQueries b) State.calm id
    fun _ _ => readColumn_calm rfl
  exact congrArg (fun c => sdel (Prod.snd c) p) calm

theorem mem_ids_batchQueries : id ∈ (s.batchQueries b).map (·.id) ↔ id ∈ b.cmds ∧ id ∈ s.cmds.map (·.id) := by
  have own {j : Nat} {q : Cmd} (h : s.cmd? j = some q) : q.id = j := by simpa using List.find?_some h
  unfold State.batchQueries
  constructor
  · intro h
    obtain ⟨q, hq, rfl⟩ := List.mem_map.1 h
    obtain ⟨j, hj, hf⟩ := List.mem_filterMap.1 hq
    obtain rfl := own hf
    exact ⟨hj, isSome_cmd?.1 (Option.isSome_of_eq_some hf)⟩
  · rintro ⟨hb, hs⟩
    obtain ⟨q, hq⟩ := Option.isSome_iff_exists.1 (isSome_cmd?.2 hs)
    exact List.mem_map.2 ⟨q, List.mem_filterMap.2 ⟨id, hb, hq⟩, own hq⟩

/-- Of the admitted commands, those of the batch have left. -/
theorem mem_ids_batchBooked : id ∈ (s.batchBooked p k b reads).cmds.map (·.id) ↔ id ∈ s.cmds.map (·.id) ∧ id ∉ b.cmds := by
  have cmds : (s.batchAnswered p k b reads).cmds = s.cmds := congrArg (·.1) (batchAnswered_steady (p := p))
  have ids : (s.batchBooked p k b reads).cmds.map (·.id) = _ := ids_countAborted
  have left : id ∈ ((s.batchAnswered p k b reads).completeAll (s.batchAnswers k b reads (s.batchQueries b)).2).cmds.map (·.id) ↔
      id ∈ s.cmds.map (·.id) ∧ id ∉ (s.batchQueries b).map (·.id) := by
    simp only [List.mem_map (l := State.cmds _), mem_cmds_completeAll, cmds, batchAnswers_ids]
    constructor
    · rintro ⟨c, ⟨hc, hn⟩, rfl⟩
      exact ⟨⟨c, hc, rfl⟩, hn⟩
    · rintro ⟨⟨c, hc, rfl⟩, hn⟩
      exact ⟨c, ⟨hc, hn⟩, rfl⟩
  rw [ids, left, mem_ids_batchQueries]
  tauto

end

/-- Settles O38: what a fetch reads, whom a batch takes, and who has left when it ends. -/
theorem queriesAndBatches : Obligations.QueriesAndBatches := by
  refine fun s hs => ⟨fun id c hc hw he hb hd => ?_, fun id c hc hw he hb hd => ?_, fun p k hk hb hch => ?_,
    fun p h => congrArg Host.Outcome.next (batchStart_busy h), fun p k b reads hk hb hbeat hnow => ?_,
    fun p k b reads hk hb _ hnow hd => congrArg Host.Outcome.next (batchComplete_waits hk hb hnow hd)⟩
  · refine ⟨_, congrArg Host.Outcome.next (query_fetches hc hw he hb hd), rfl, ?_⟩
    have scan : c.op ≠ 0x11 := by simp [op_of_admitted hc]
    rw [State.fetchQuery, if_neg scan]
    exact cmd?_setCmd_admitted hc
  · refine ⟨_, congrArg Host.Outcome.next (query_fetches hc hw he hb hd), rfl, ?_⟩
    rw [State.fetchQuery, if_pos (op_of_admitted hc)]
    exact cmd?_setCmd_admitted hc
  · intro s' qs from_ hne hep
    have begins := batchStart_begins hs hk hb hch (rfl : _ = qs) hne hep
    have kept := queriesBegun_uncommanded (s := s') (fails := k.failOf) (qs := qs)
    have corpora : (s'.queriesBegun k.failOf qs).corpora = s.corpora := (congrArg State.corpora kept :)
    have batches : (s'.queriesBegun k.failOf qs).batches = s.batches := (congrArg State.batches kept :)
    refine ⟨_, congrArg Host.Outcome.next begins, (mget_sins.trans (if_pos rfl)).trans (congrArg some newBatch_queriesBegun),
      mget_sins.trans (if_pos rfl), (congrArg State.time kept :), fun q hq => ?_, ids_queriesBegun, fun n hn => ⟨?_, ?_⟩,
      (congrArg State.cores kept :)⟩
    · have mine : q ∈ s'.cmds := mem_readyQueries (List.mem_of_mem_take hq)
      exact queriesBegun_running (List.mem_map_of_mem mine) (.inl ⟨q, hq, rfl⟩)
    · exact (mget_sins.trans (if_neg hn)).trans (congrArg (mget · n) batches)
    · exact (mget_sins.trans (if_neg hn)).trans (congrArg (mget · n) corpora)
  · obtain ⟨last, ends⟩ := batchComplete_ends (reads := reads) hs hk hb hbeat hnow
    have booked := batchBooked_unbooked (s := s) (p := p) (k := k) (b := b) (reads := reads)
    have steady := batchAnswered_steady (s := s) (p := p) (k := k) (b := b) (reads := reads)
    have batches : (s.batchBooked p k b reads).batches = (s.batchAnswered p k b reads).batches := (congrArg State.batches booked :)
    refine ⟨_, congrArg Host.Outcome.next ends, ?_, fun id hid => ?_, fun c hc hn => ?_, ?_, ?_, fun hr n hn => ?_⟩
    · exact (congrArg (mget · p.val) batches).trans mget_sdel_same
    · exact cmd?_eq_none.2 fun h => (mem_ids_batchBooked.1 h).2 hid
    · exact List.mem_map.1 (mem_ids_batchBooked.2 ⟨List.mem_map_of_mem hc, hn⟩)
    · exact (congrArg State.time booked :).trans (congrArg (·.2.2.1) steady :)
    · exact (congrArg State.plans booked :).trans (congrArg (·.2.1) steady :)
    · exact (congrArg (mget · n) (batches.trans (batches_batchAnswered hr))).trans (mget_sdel_other hn)

end Sys2Proof.Machine
end

section
/-!
Resets of a region (R437, R441): device time, partitions and the other regions stay, and RESET_CAUSE gains the region's bit; part of O22.
-/
namespace Sys2Proof.Machine

/-- Device time, partitions, regions, and RESET_CAUSE. -/
def State.placed (s : State) := (s.time, s.parts, s.regions, s.hubWord rResetCause)

section
variable {s t : State} {n r : Nat}

theorem placed_of_steady (h : t.steady = s.steady) : t.placed = s.placed := congrArg (·.2.2) h

/-! ## What ends with the region's work -/

theorem writeEntries_unported {l : List Entry} : (s.writeEntries l).unported = s.unported := by
  have entry (u : State) (e : Entry) : (u.writeEntry e).unported = u.unported := by simp [State.writeEntry]
  have head (u : State) (p n : Nat) : (u.headWord p n).unported = u.unported := by simp [State.headWord]
  have signal (u : State) (p n k : Nat) : (u.signal p n k).unported = u.unported := by simp [State.signal]
  simp only [State.writeEntries]
  rw [foldl_keeps State.unported (fun _ _ => signal _ _ _ _), foldl_keeps State.unported (fun _ _ => head _ _ _),
    foldl_keeps State.unported (fun _ _ => entry _ _)]

theorem countCompletion_calm {part op status : Nat} : (s.countCompletion part op status).calm = s.calm := by
  have late (u : State) : (u.hubInc (rService + 0x40 * part + 0x14) 1).calm = u.calm := hubInc_calm (by unfold rService rResetCause; omega)
  have low (u : State) (v : Word) : (u.setHub (rService + 0x40 * part + 0x20) v).calm = u.calm := setHub_calm (by unfold rService rResetCause; omega)
  have high (u : State) (v : Word) : (u.setHub (rService + 0x40 * part + 0x20 + 4) v).calm = u.calm :=
    setHub_calm (by unfold rService rResetCause; omega)
  have counted : (if status = stDeadline then s.hubInc (rService + 0x40 * part + 0x14) 1 else s).calm = s.calm := by
    rw [ite_calm, late, ite_self]
  unfold State.countCompletion
  dsimp only
  split
  · exact ((high _ _).trans (low _ _)).trans counted
  · exact counted

theorem complete_placed {c : Cmd} {x : Result} : (s.complete c x).placed = s.placed := by
  have counted := placed_of_steady (steady_of_calm (countCompletion_calm (s := s) (part := c.part) (op := c.op) (status := x.status)))
  have streamed (u : State) (n : Nat) (y : Stream) (l : List Cmd) : ({ u.setStream n y with cmds := l } : State).placed = u.placed := rfl
  have left (u : State) (l : List Cmd) : ({ u with cmds := l } : State).placed = u.placed := rfl
  have booked : (s.bookOut c x).placed = s.placed := by
    unfold State.bookOut
    dsimp only
    split
    · exact (streamed _ _ _ _).trans counted
    · exact (left _ _).trans counted
  have written (u : State) (ps : List Port) (out : List Msg) : ({ u with ports := ps, out := out } : State).placed = u.placed := rfl
  exact (congrArg State.placed (eq_of_unported writeEntries_unported)).trans ((written _ _ _).trans booked)

theorem failStream_placed : (s.failStream n).placed = s.placed := by
  have freed : (s.freeSlotOf n).placed = s.placed := by
    unfold State.freeSlotOf
    split <;> rfl
  exact (foldl_keeps State.placed (fun _ _ => complete_placed) _ _).trans freed

theorem mapCores_placed {f : Nat → Core → Core} : (s.mapCores f).placed = s.placed := rfl

theorem failRegionWork_placed {status : Nat} : ((s.failRegionRuns r status).failRegionCmds r status).placed = s.placed := rfl

theorem cutAndCount_placed {on : Nat → Bool} {reset : Bool} : (s.cutAndCount on reset).placed = s.placed :=
  placed_of_steady (steady_of_calm (hubInc_calm (s := s.cutDecks on reset) (o := rSuspectPage) (by decide)))

/-! ## Repairs found by self-test -/

theorem selftestFail_placed {kind unit slice : Nat} {da : BitVec 48} : (s.selftestFail r kind unit slice da).placed = s.placed := by
  have repaired (u : State) (x : Repair) : (u.addRepair r x).placed = u.placed := placed_of_steady (steady_of_calm addRepair_calm)
  unfold State.selftestFail
  dsimp only
  split
  · exact repaired _ _
  · split
    · split
      · rfl
      · exact repaired _ _
    · split
      · split
        · rfl
        · exact repaired _ _
      · split
        · exact repaired _ _
        · rfl

theorem failPhys_placed : (s.failPhys n).placed = s.placed := by
  unfold State.failPhys
  split
  · rfl
  · exact selftestFail_placed

theorem failBlocks_placed {l : List BadBlock} : (s.failBlocks l).placed = s.placed := by
  have recorded (u : State) (f : SelfFail) : (u.recordFail f).placed = u.placed := by
    have low := setHub_calm (s := u) (o := rSelftestFailDa) (v := BitVec.ofNat 32 f.da.toNat) (by decide)
    have high := setHub_calm (s := u.setHub rSelftestFailDa (BitVec.ofNat 32 f.da.toNat)) (o := rSelftestFailDa + 4)
      (v := BitVec.ofNat 32 (f.da.toNat / 2 ^ 32)) (by decide)
    have bit := setHub_calm (s := u.setHub64 rSelftestFailDa f.da.toNat) (o := rSelftestFailBit) (v := f.bit) (by decide)
    exact placed_of_steady (steady_of_calm (bit.trans (high.trans low)))
  unfold State.failBlocks
  refine (foldl_keeps State.placed (fun _ _ => selftestFail_placed) _ _).trans ?_
  split
  · exact recorded _ _
  · rfl

theorem bindCore_placed : (s.bindCore n).placed = s.placed := by
  unfold State.bindCore
  split
  · rfl
  · split
    · exact placed_of_steady (steady_of_calm addRepair_calm)
    · rfl

/-! ## Calibration and refresh -/

theorem patchLine_steady {line : Nat} : (s.patchLine n line).steady = s.steady := by
  unfold State.patchLine
  dsimp only
  split
  · rfl
  · split
    · exact standIn_steady
    · exact scheduleRefresh_steady.trans (steady_of_calm (t := State.tookFree _) addRepair_calm)

theorem calibrateFind_steady {on : Nat → Bool} {bad : List (Nat × Nat)} : (s.calibrateFind on bad).steady = s.steady := by
  unfold State.calibrateFind
  refine (foldl_keeps State.steady (fun _ _ => patchLine_steady) _ _).trans ?_
  exact foldl_keeps State.steady (fun _ _ => (rfl : (State.modCore _ _ _).steady = _)) _ s

theorem resumeRefresh_steady {on : Nat → Bool} : (s.resumeRefresh on).steady = s.steady := by
  have core (u : State) (n : Nat) : ((List.range 24).foldl (fun s st => s.serveRefreshIf n st) u).steady = u.steady := by
    refine foldl_keeps State.steady (fun v st => ?_) _ _
    unfold State.serveRefreshIf
    split
    · exact serveRefresh_steady
    · rfl
  exact foldl_keeps State.steady (fun u n => core u n) _ _

/-! ## The reset -/

/-- What a reset of region r leaves: time and partitions, and of the region itself its run ended, in service or out of it, its bit of
RESET_CAUSE set. -/
structure RegionWasReset (s t : State) (r : Nat) : Prop where
  time : t.time = s.time
  parts : t.parts = s.parts
  run : (t.region r).run = none
  service : (t.region r).service = .inService ∨ (t.region r).service = .outOfService
  cause : bitAt (t.hubWord rResetCause) (4 + r) = true

/-- The work of a region is cut and its cores are cleared. -/
def State.regionCleared (s : State) (r : Nat) (lost : Bool) : State :=
  (((s.failRegionRuns r stRegionReset).failRegionCmds r stRegionReset).cutAndCount (· == r) true).mapCores fun n c =>
    if regionOf n = r then (if lost then c.regionClear.loseSram else c.regionClear) else c

theorem regionCleared_placed {lost : Bool} : (s.regionCleared r lost).placed = s.placed :=
  mapCores_placed.trans (cutAndCount_placed.trans failRegionWork_placed)

/-- Streams whose state lay in the region are lost with its memories. -/
def State.streamsLost (s : State) (r : Nat) (lost : Bool) : State := if lost then (s.streamsIn r).foldl State.failStream s else s

theorem streamsLost_placed {lost : Bool} : (s.streamsLost r lost).placed = s.placed := by
  unfold State.streamsLost
  split
  · exact foldl_keeps State.placed (fun _ _ => failStream_placed) _ _
  · rfl

/-- The units of a region are tested and its cores bound anew. -/
def State.regionTested (s : State) (r : Nat) (find : RegionFind) : State :=
  ((List.range 64).map (64 * r + ·)).foldl State.bindCore
    (((find.failed.filter fun p => p / 68 == r).foldl State.failPhys s).failBlocks (find.blocks.filter fun b => b.region == r))

theorem regionTested_placed {find : RegionFind} : (s.regionTested r find).placed = s.placed := by
  have tested := foldl_keeps State.placed (g := State.failPhys) (fun _ _ => failPhys_placed) (find.failed.filter fun p => p / 68 == r) s
  exact (foldl_keeps State.placed (fun _ _ => bindCore_placed) _ _).trans (failBlocks_placed.trans tested)

/-- A region that has been cleared and tested. -/
def State.regionCut (s : State) (r : Nat) (lost : Bool) (find : RegionFind) : State :=
  ((s.regionCleared r lost).streamsLost r lost).regionTested r find

theorem regionCut_placed {lost : Bool} {find : RegionFind} : (s.regionCut r lost find).placed = s.placed :=
  regionTested_placed.trans (streamsLost_placed.trans regionCleared_placed)

/-- The region's bit of RESET_CAUSE is set, and the tasks of its cores are loaded again. -/
def State.regionReloaded (s : State) (r : Nat) : State :=
  let s := s.hubOr rResetCause (BitVec.ofNat 32 (2 ^ (4 + r)))
  let s := if (s.region r).service = .entering then s.setHub (pmWord r) (s.hubWord (pmWord r) &&& 2) else s
  (((s.cores.map (·.1)).filter fun n => regionOf n == r).foldl State.reloadCore s).severeEnd 22 r

theorem hubOr_placed {v : Word} : (s.hubOr rResetCause v).placed = (s.placed.1, s.placed.2.1, s.placed.2.2.1, s.placed.2.2.2 ||| v) := by
  simp [State.placed]

theorem regionReloaded_placed (hr : r < 4) : (s.regionReloaded r).placed =
    (s.placed.1, s.placed.2.1, s.placed.2.2.1, s.placed.2.2.2 ||| BitVec.ofNat 32 (2 ^ (4 + r))) := by
  have woken (u : State) (v : Word) : (u.setHub (pmWord r) v).placed = u.placed :=
    placed_of_steady (steady_of_calm (setHub_calm (by unfold pmWord rRegionPm rResetCause; omega)))
  unfold State.regionReloaded
  dsimp only
  rw [placed_of_steady (steady_of_calm severeEnd_calm), foldl_keeps State.placed fun _ _ => (rfl : (State.reloadCore _ _).placed = _)]
  split
  · exact (woken _ _).trans hubOr_placed
  · exact hubOr_placed

theorem resetRegion_eq {lost : Bool} {find : RegionFind} : s.resetRegion r lost find =
    if ((s.regionCut r lost find).regionReloaded r).regionUsable r then
      (((s.regionCut r lost find).regionReloaded r).regionOn r find.badLines).resumeRefresh (· == r)
    else ((s.regionCut r lost find).regionReloaded r).regionOut r := rfl

theorem bitAt_or_two_pow {w : Word} {i : Nat} (h : i < 32) : bitAt (w ||| BitVec.ofNat 32 (2 ^ i)) i = true := by
  rw [bitAt, BitVec.getLsbD_or, BitVec.getLsbD_ofNat, Nat.testBit_two_pow_self]
  simp [h]

/-- A region set to a state without a run, in a state that agrees with `t` on what a reset leaves. -/
theorem RegionWasReset.of_placed {x : Region} {w : Word} (hr : r < 4) (hlen : r < s.regions.length)
    (h : t.placed = (s.time, s.parts, s.regions.set r x, w ||| BitVec.ofNat 32 (2 ^ (4 + r)))) (hrun : x.run = none)
    (hx : x.service = .inService ∨ x.service = .outOfService) : RegionWasReset s t r := by
  have region : t.region r = x := by
    have regions : t.regions = s.regions.set r x := congrArg (·.2.2.1) h
    simp [State.region, regions, hlen]
  have cause : t.hubWord rResetCause = w ||| BitVec.ofNat 32 (2 ^ (4 + r)) := congrArg (·.2.2.2) h
  exact { time := congrArg (·.1) h
          parts := congrArg (·.2.1) h
          run := region ▸ hrun
          service := region ▸ hx
          cause := cause ▸ bitAt_or_two_pow (by omega) }

theorem setRegion_placed {x : Region} : (s.setRegion r x).placed = (s.placed.1, s.placed.2.1, s.placed.2.2.1.set r x, s.placed.2.2.2) := rfl

/-- A region comes into service again. -/
theorem regionOn_placed {bad : List (Nat × Nat)} : ∃ x : Region, x.run = none ∧ x.service = .inService ∧
    (s.regionOn r bad).placed = (s.placed.1, s.placed.2.1, s.placed.2.2.1.set r x, s.placed.2.2.2) :=
  ⟨_, rfl, rfl, (placed_of_steady calibrateFind_steady :)⟩

/-- The work of a region that leaves service has ended, its cores are cleared, and its bit of RESET_CAUSE is set. -/
def State.regionStopped (s : State) (r : Nat) : State :=
  ((((s.failRegionRuns r stRegionReset).failRegionCmds r stRegionReset).cutAndCount (· == r) true).mapCores fun n c =>
    if regionOf n = r then c.regionClear else c).hubOr rResetCause (BitVec.ofNat 32 (2 ^ (4 + r)))

theorem regionStopped_placed : (s.regionStopped r).placed =
    (s.placed.1, s.placed.2.1, s.placed.2.2.1, s.placed.2.2.2 ||| BitVec.ofNat 32 (2 ^ (4 + r))) := by
  have cleared : ((((s.failRegionRuns r stRegionReset).failRegionCmds r stRegionReset).cutAndCount (· == r) true).mapCores fun n c =>
      if regionOf n = r then c.regionClear else c).placed = s.placed :=
    mapCores_placed.trans (cutAndCount_placed.trans failRegionWork_placed)
  rw [State.regionStopped, hubOr_placed, cleared]

/-- A region leaves service. -/
theorem regionOut_placed : ∃ x : Region, x.run = none ∧ x.service = .outOfService ∧ (s.regionOut r).placed =
    (s.placed.1, s.placed.2.1, s.placed.2.2.1.set r x, s.placed.2.2.2 ||| BitVec.ofNat 32 (2 ^ (4 + r))) := by
  have out : s.regionOut r = (s.regionStopped r).setRegion r
      { Region.init with service := .outOfService, levels := ((s.regionStopped r).region r).levels } := rfl
  refine ⟨{ Region.init with service := .outOfService, levels := ((s.regionStopped r).region r).levels }, rfl, rfl, ?_⟩
  rw [out, setRegion_placed, regionStopped_placed]

theorem resetRegion_resets {lost : Bool} {find : RegionFind} (hr : r < 4) (hlen : r < s.regions.length) :
    RegionWasReset s (s.resetRegion r lost find) r := by
  have cut := regionCut_placed (s := s) (r := r) (lost := lost) (find := find)
  have loaded := regionReloaded_placed (s := s.regionCut r lost find) hr
  rw [cut] at loaded
  rw [resetRegion_eq]
  split
  · obtain ⟨x, hrun, hx, on⟩ := regionOn_placed (s := (s.regionCut r lost find).regionReloaded r) (r := r) (bad := find.badLines)
    rw [loaded] at on
    exact .of_placed hr hlen ((placed_of_steady resumeRefresh_steady).trans on) hrun (.inl hx)
  · obtain ⟨x, hrun, hx, out⟩ := regionOut_placed (s := (s.regionCut r lost find).regionReloaded r) (r := r)
    rw [loaded] at out
    exact .of_placed hr hlen out hrun (.inr hx)

end

end Sys2Proof.Machine
end

section
/-!
Resets of a port (R344, R437): the end of its commands leaves every link as it is; O22.
-/
namespace Sys2Proof.Machine

/-! ## Links of the ports -/

/-- Whether each port's link is up and its function ready. -/
def State.links (s : State) : List (Bool × Bool) := s.ports.map fun x => (x.linkUp, x.ready)

section
variable {s t : State} {p n : Nat} {c : Cmd}

theorem setPort_links {x : Port} (h : (x.linkUp, x.ready) = ((s.port p).linkUp, (s.port p).ready)) : (s.setPort p x).links = s.links := by
  refine List.ext_getElem? fun i => ?_
  rw [State.links, State.links, State.setPort, List.map_set, List.getElem?_set, h]
  by_cases hi : p = i
  · subst hi
    by_cases hp : p < s.ports.length <;> simp [State.port, List.getD, hp]
  · rw [if_neg hi]

theorem port_of_links (h : t.links = s.links) : ((t.port p).linkUp, (t.port p).ready) = ((s.port p).linkUp, (s.port p).ready) := by
  have link (u : State) : ((u.port p).linkUp, (u.port p).ready) = u.links.getD p (false, false) := by
    rw [State.links, State.port, List.getD_eq_getElem?_getD, List.getD_eq_getElem?_getD, List.getElem?_map]
    cases u.ports[p]? <;> rfl
  rw [link, link, h]

theorem hostWrite_links {a : Nat} {bs : List Byte} : (s.hostWrite p a bs).links = s.links := by
  unfold State.hostWrite
  dsimp only
  split
  · exact setPort_links (by rfl)
  · exact setPort_links (by rfl)

theorem sendMsix_links {v : Nat} : (s.sendMsix p v).links = s.links := by
  unfold State.sendMsix
  dsimp only
  split
  · exact setPort_links (by rfl)
  · split
    · exact setPort_links (by rfl)
    · rfl

theorem writeEntries_links {l : List Entry} : (s.writeEntries l).links = s.links := by
  have entry (u : State) (e : Entry) : (u.writeEntry e).links = u.links := (setPort_links (by rfl)).trans hostWrite_links
  have head (u : State) (p n : Nat) : (u.headWord p n).links = u.links := (setPort_links (by rfl)).trans hostWrite_links
  have signal (u : State) (p n k : Nat) : (u.signal p n k).links = u.links := by
    unfold State.signal
    dsimp only
    split
    · exact sendMsix_links.trans (setPort_links (by rfl))
    · exact setPort_links (by rfl)
  simp only [State.writeEntries]
  rw [foldl_keeps State.links (fun _ _ => signal _ _ _ _), foldl_keeps State.links (fun _ _ => head _ _ _),
    foldl_keeps State.links (fun _ _ => entry _ _)]

/-! ## Commands that end -/

theorem countCompletion_links {part op status : Nat} : (s.countCompletion part op status).links = s.links := by
  have late (u : State) (o k : Nat) : (u.hubInc o k).links = u.links := rfl
  have wide (u : State) (o k : Nat) : (u.setHub64 o k).links = u.links := rfl
  have counted : (if status = stDeadline then s.hubInc (rService + 0x40 * part + 0x14) 1 else s).links = s.links := by
    split
    · exact late _ _ _
    · rfl
  unfold State.countCompletion
  dsimp only
  split
  · exact (wide _ _ _).trans counted
  · exact counted

theorem complete_links {x : Result} : (s.complete c x).links = s.links := by
  have counted := countCompletion_links (s := s) (part := c.part) (op := c.op) (status := x.status)
  have streamed (u : State) (n : Nat) (y : Stream) (l : List Cmd) : ({ u.setStream n y with cmds := l } : State).links = u.links := rfl
  have left (u : State) (l : List Cmd) : ({ u with cmds := l } : State).links = u.links := rfl
  have booked : (s.bookOut c x).links = s.links := by
    unfold State.bookOut
    dsimp only
    split
    · exact (streamed _ _ _ _).trans counted
    · exact (left _ _).trans counted
  exact writeEntries_links.trans booked

theorem endAborted_links {r0 r1 : Nat} : (s.endAborted c r0 r1).links = s.links := by
  unfold State.endAborted
  dsimp only
  split
  · exact complete_links
  · exact complete_links

theorem endGen_links {status reason : Nat} : (s.endGen c status reason).links = s.links := complete_links

theorem failStream_links : (s.failStream n).links = s.links := by
  have freed : (s.freeSlotOf n).links = s.links := by
    unfold State.freeSlotOf
    split <;> rfl
  exact (foldl_keeps State.links (fun _ _ => complete_links) _ _).trans freed

theorem stopRun_links {q : Plan} : (s.stopRun n q).links = s.links := by
  obtain ⟨cores, e⟩ := stopRun_eq (s := s) (n := n) (p := q)
  rw [e]
  rfl

theorem failRun_links {q : Plan} {r : Run} {e : Nat × Nat × Nat × Word} : (s.failRun n q r e).links = s.links := by
  unfold State.failRun
  dsimp only
  split
  · split
    · exact endAborted_links.trans stopRun_links
    · split
      · exact complete_links.trans stopRun_links
      · exact complete_links.trans stopRun_links
  · have failed := foldl_keeps State.links (g := fun s c => s.failGen { c with joined := 0 } e) (fun _ _ => complete_links)
      ((s.stopRun n q).executing n) (s.stopRun n q)
    exact (foldl_keeps State.links (fun _ _ => failStream_links) _ _).trans (failed.trans stopRun_links)

theorem dropPrograms_links : (s.dropPrograms c).links = s.links := by
  refine foldl_keeps State.links (fun u d => ?_) _ _
  dsimp only
  split <;> rfl

theorem fitService_links : (s.fitService n).links = s.links := by
  unfold State.fitService
  split
  · rfl
  · exact (foldl_keeps State.links (fun _ _ => (rfl : (State.modCore _ _ _).links = _)) _ _).trans
      (foldl_keeps State.links (fun _ _ => (rfl : (State.modCore _ _ _).links = _)) _ _)

theorem failProgram_links {st : Nat} : (s.failProgram c st).links = s.links := by
  unfold State.failProgram
  refine fitService_links.trans ?_
  split
  · exact complete_links.trans dropPrograms_links
  · exact complete_links.trans dropPrograms_links

theorem endRunOf_links {st : Nat} : (s.endRunOf c st).links = s.links := by
  unfold State.endRunOf
  split
  · exact failRun_links
  · exact complete_links

theorem endCmd_links {st : Nat} : (s.endCmd c st).links = s.links := by
  unfold State.endCmd
  split
  · rfl
  · split
    · exact endGen_links
    · exact endGen_links
    · exact complete_links
    · exact failProgram_links
    · dsimp only
      split
      · exact complete_links
      · exact complete_links
    · exact complete_links.trans dropPrograms_links
    · exact endRunOf_links
    · exact endRunOf_links
    · exact complete_links

theorem cutCmd_links : (s.cutCmd n).links = s.links := by
  unfold State.cutCmd
  split
  · rfl
  · dsimp only
    split
    · rfl
    · exact endCmd_links.trans rfl

/-! ## The port -/

/-- The state whose port has its setup registers at their reset values; the PTM port's reset is a loss of the reference. -/
def State.portCleared (s : State) (p : Nat) (keepLink : Bool) : State :=
  if decide (s.timeSource = 2) && decide (s.ptmPort = p) then
    { s.setPort p ((s.port p).afterReset keepLink) with time := { s.time with bad := max 4 s.time.bad, good := 0 } }
  else s.setPort p ((s.port p).afterReset keepLink)

variable {keep : Bool}

theorem portCleared_eq : ∃ time, s.portCleared p keep = { s.setPort p ((s.port p).afterReset keep) with time := time } ∧
    (¬(s.timeSource = 2 ∧ s.ptmPort = p) → time = s.time) := by
  unfold State.portCleared
  split
  next h => exact ⟨_, rfl, fun hn => absurd (by simpa using h) hn⟩
  next => exact ⟨s.time, rfl, fun _ => rfl⟩

theorem resetPort_eq : s.resetPort p keep =
    (((s.portCleared p keep).cmds.filter fun c => c.port == p).map (·.id)).foldl State.cutCmd (s.portCleared p keep) := rfl

theorem port_portCleared (hp : p < s.ports.length) : (s.portCleared p keep).port p = (s.port p).afterReset keep := by
  obtain ⟨time, e, -⟩ := portCleared_eq (s := s) (p := p) (keep := keep)
  rw [e]
  exact State.port_setPort hp

theorem resetPort_link (hp : p < s.ports.length) :
    ((s.resetPort p keep).port p).linkUp = (keep && (s.port p).linkUp) ∧ ((s.resetPort p keep).port p).ready = false := by
  have same : (s.resetPort p keep).links = (s.portCleared p keep).links := foldl_keeps State.links (fun _ _ => cutCmd_links) _ _
  have link := port_of_links (p := p) same
  rw [port_portCleared hp] at link
  exact ⟨congrArg Prod.fst link, congrArg Prod.snd link⟩

/-- With no command of the port admitted nothing else changes. -/
theorem resetPort_idle (h : ∀ k ∈ s.cmds, k.port ≠ p) : s.resetPort p keep = s.portCleared p keep := by
  obtain ⟨time, e, -⟩ := portCleared_eq (s := s) (p := p) (keep := keep)
  have none : (s.portCleared p keep).cmds.filter (fun c => c.port == p) = [] := by
    rw [e]
    exact List.filter_eq_nil_iff.2 fun k hk => by simpa using h k hk
  rw [resetPort_eq, none]
  rfl

/-- The frame of a reset of a port without admitted commands. -/
theorem resetPort_frame (hp : p < s.ports.length) (h : ∀ k ∈ s.cmds, k.port ≠ p) :
    s.resetPort p keep = { s with ports := (s.resetPort p keep).ports, time := (s.resetPort p keep).time } ∧
    (s.resetPort p keep).port p = (s.port p).afterReset keep ∧ (∀ q, q ≠ p → (s.resetPort p keep).port q = s.port q) ∧
    (¬(s.timeSource = 2 ∧ s.ptmPort = p) → (s.resetPort p keep).time = s.time) := by
  obtain ⟨time, e, ht⟩ := portCleared_eq (s := s) (p := p) (keep := keep)
  rw [resetPort_idle h, e]
  exact ⟨rfl, State.port_setPort hp, fun q hq => State.port_setPort_other hq, ht⟩

end

/-- Settles O22: a region's reset by what its parts leave, a port's by its links, and the port that becomes ready. -/
theorem regionAndPortResets : Obligations.RegionAndPortResets := by
  refine fun s => ⟨fun r lost find hs hr hlen hsv => ?_, fun p c hd hx hp => ?_, fun p ha hp => ?_, fun p hd hx hr => ?_⟩
  · have go : regionReset r lost find s = s.resetRegion r lost find := by
      refine if_neg ?_
      rw [not_or, not_or]
      exact ⟨by simp [hs], not_le.2 hr, fun h => hsv.elim h.1 h.2⟩
    obtain ⟨time, parts, run, service, cause⟩ := resetRegion_resets (lost := lost) (find := find) r.isLt hlen
    obtain ⟨-, -, -, boot, fuses, verm, -⟩ := stable_iff.1 (State.resetRegion_stable (x0 := s) (x1 := r) (x2 := lost) (x3 := find))
    exact ⟨_, congrArg Host.Outcome.next go, rfl, fuses, verm, boot, time, parts, run, service, cause⟩
  · have go : portReset p s = s.resetPort p false := if_neg (by simp [hd, hx])
    obtain ⟨link, ready⟩ := resetPort_link (keep := false) hp
    refine ⟨_, congrArg Host.Outcome.next go, rfl, link, ready, fun h => ?_⟩
    obtain ⟨frame, port, others, time⟩ := resetPort_frame (keep := false) hp h
    refine ⟨frame, port.trans ?_, others, time⟩
    rw [Port.afterReset, hx]
    rfl
  · have go : flr p s = s.resetPort p true := if_neg (by simp [ha])
    simp only [State.answers, Bool.and_eq_true] at ha
    obtain ⟨⟨⟨-, hx⟩, hl⟩, -⟩ := ha
    obtain ⟨link, ready⟩ := resetPort_link (keep := true) hp
    refine ⟨_, congrArg Host.Outcome.next go, rfl, link.trans hl, ready, fun h => ?_⟩
    obtain ⟨frame, port, others, time⟩ := resetPort_frame (keep := true) hp h
    refine ⟨frame, port.trans ?_, others, time⟩
    rw [Port.afterReset, hx, hl]
    rfl
  · exact congrArg Host.Outcome.next (if_neg (by simp [hd, hx, hr]))

end Sys2Proof.Machine
end

section
/-!
Rows of a tile as little-endian bit streams (R57): the number that bytes spell, its w-bit elements, and what packing keeps of them; O58.
-/
namespace Sys2Proof.Machine

/-! ## The number of a byte list, digit by digit -/

theorem leNat_eq_ofDigits (bs : List Byte) : leNat bs = Nat.ofDigits 256 (bs.map BitVec.toNat) := by
  induction bs with
  | nil => rfl
  | cons b bs ih => rw [leNat, List.map_cons, Nat.ofDigits_cons, ih]

theorem leNat_drop_take {bs : List Byte} {o n : Nat} : leNat ((bs.drop o).take n) = leNat bs / 256 ^ o % 256 ^ n := by
  have byte (l : List Byte) : ∀ d ∈ l.map BitVec.toNat, d < 256 := by
    simp only [List.mem_map, forall_exists_index, and_imp, forall_apply_eq_imp_iff₂]
    exact fun b _ => b.isLt
  rw [leNat_eq_ofDigits, leNat_eq_ofDigits, Nat.ofDigits_div_pow_eq_ofDigits_drop o (by decide) _ (byte bs), ← List.map_drop,
    Nat.ofDigits_mod_pow_eq_ofDigits_take n (by decide) _ (byte _), List.map_take]

/-! ## Elements of a stream -/

theorem bitsOf_element {x w p : Nat} (hw : 0 < w) : bitsOf x (p + w - 1) p = x / 2 ^ p % 2 ^ w := by
  rw [bitsOf, Nat.shiftRight_eq_div_pow, show p + w - 1 + 1 - p = w by omega]

theorem getD_tabulate {α : Type} {n i : Nat} {f : Nat → α} {d : α} (h : i < n) : (tabulate n f).getD i d = f i := by
  simp [tabulate, h]

theorem getD_unpackBits {w n i : Nat} {bs : List Byte} (hw : 0 < w) (h : i < n) :
    (unpackBits w n bs).getD i 0 = leNat bs / 2 ^ (w * i) % 2 ^ w := by
  rw [unpackBits, getD_tabulate h, bitsOf_element hw]

/-! ## Packing -/

theorem packBits_eq {w k : Nat} {cs : List Nat} : packBits w k cs = toLe k (Nat.ofDigits (2 ^ w) (cs.map (· % 2 ^ w))) := by
  rw [packBits, Nat.ofDigits_eq_foldr, List.foldr_map]
  rfl

theorem length_packBits {w k : Nat} {cs : List Nat} : (packBits w k cs).length = k := by
  rw [packBits_eq, length_toLe]

/-- A stream that fits in its bytes is spelt by them whole. -/
theorem leNat_packBits {w k : Nat} {cs : List Nat} (hw : 0 < w) (h : w * cs.length ≤ 8 * k) :
    leNat (packBits w k cs) = Nat.ofDigits (2 ^ w) (cs.map (· % 2 ^ w)) := by
  have fits : Nat.ofDigits (2 ^ w) (cs.map (· % 2 ^ w)) < 256 ^ k :=
    calc Nat.ofDigits (2 ^ w) (cs.map (· % 2 ^ w))
      _ < (2 ^ w) ^ cs.length := by
        have lt := Nat.ofDigits_lt_base_pow_length (b := 2 ^ w) (l := cs.map (· % 2 ^ w)) (Nat.one_lt_two_pow hw.ne')
          (by simp [Nat.mod_lt])
        rwa [List.length_map] at lt
      _ = 2 ^ (w * cs.length) := (pow_mul 2 w _).symm
      _ ≤ 2 ^ (8 * k) := Nat.pow_le_pow_right (by decide) h
      _ = 256 ^ k := pow_mul 2 8 k
  rw [packBits_eq, leNat_toLe, Nat.mod_eq_of_lt fits]

theorem packBits_element {w k i : Nat} {cs : List Nat} (hw : 0 < w) (h : w * cs.length ≤ 8 * k) (hi : i < cs.length) :
    leNat (packBits w k cs) / 2 ^ (w * i) % 2 ^ w = cs[i] % 2 ^ w := by
  have digit : ∀ d ∈ cs.map (· % 2 ^ w), d < 2 ^ w := by simp [Nat.mod_lt]
  rw [leNat_packBits hw h, pow_mul, Nat.ofDigits_div_pow_eq_ofDigits_drop i (by positivity) _ digit, ← List.map_drop,
    List.drop_eq_getElem_cons hi, List.map_cons, Nat.ofDigits_cons, Nat.add_mul_mod_self_left, Nat.mod_mod]

/-! ## Elements of a tile -/

theorem fmtBits_mul_fmtCap_le (f : Nat) : fmtBits f * fmtCap f ≤ 8 * 256 := by
  unfold fmtBits fmtCap
  split <;> simp

theorem Mem.read_drop_take {m : Mem} {a o n k : Nat} (h : o + n ≤ k) : ((m.read a k).drop o).take n = m.read (a + o) n := by
  refine List.ext_getElem (by simp [Mem.read, tabulate]; omega) fun i _ _ => ?_
  simp [Mem.read, tabulate, Nat.add_assoc]

/-- The bytes that hold bits [p+w-1:p] of a row, read alone, hold the same bits. -/
theorem codeAt_eq {m : Mem} {a w p k : Nat} (hw : 0 < w) (h : p + w ≤ 8 * k) :
    codeAt m a w p = leNat (m.read a k) / 2 ^ p % 2 ^ w := by
  have bytes : m.num (a + p / 8) (ceilDiv (p % 8 + w) 8) = leNat (m.read a k) / 256 ^ (p / 8) % 256 ^ ceilDiv (p % 8 + w) 8 := by
    rw [Mem.num, ← leNat_drop_take, Mem.read_drop_take (by unfold ceilDiv; omega)]
  have pow256 (n : Nat) : 256 ^ n = 2 ^ (8 * n) := (pow_mul 2 8 n).symm
  obtain ⟨e, he⟩ : ∃ e, 8 * ceilDiv (p % 8 + w) 8 = p % 8 + (w + e) := ⟨8 * ceilDiv (p % 8 + w) 8 - (p % 8 + w), by unfold ceilDiv; omega⟩
  calc codeAt m a w p
    _ = leNat (m.read a k) / 256 ^ (p / 8) % 256 ^ ceilDiv (p % 8 + w) 8 / 2 ^ (p % 8) % 2 ^ w := by
      rw [codeAt, bitsOf_element hw, bytes]
    _ = leNat (m.read a k) / 2 ^ (8 * (p / 8)) % (2 ^ (p % 8) * 2 ^ (w + e)) / 2 ^ (p % 8) % 2 ^ w := by
      rw [← pow_add, ← he, pow256, pow256]
    _ = leNat (m.read a k) / (2 ^ (8 * (p / 8)) * 2 ^ (p % 8)) % 2 ^ (w + e) % 2 ^ w := by
      rw [Nat.mod_mul_right_div_self, Nat.div_div_eq_div_mul]
    _ = leNat (m.read a k) / 2 ^ p % 2 ^ w := by
      rw [← pow_add, Nat.div_add_mod, Nat.mod_mod_of_dvd _ (pow_dvd_pow 2 (Nat.le_add_right w e))]

theorem Tile.code_eq {t : Tile} {m : Mem} {base r i : Nat} (hw : 0 < fmtBits t.fmt) (hi : i < fmtCap t.fmt) :
    t.code m base r i = leNat (t.row m base r) / 2 ^ (fmtBits t.fmt * i) % 2 ^ fmtBits t.fmt := by
  refine codeAt_eq hw ?_
  calc fmtBits t.fmt * i + fmtBits t.fmt
    _ = fmtBits t.fmt * (i + 1) := (Nat.mul_succ _ _).symm
    _ ≤ fmtBits t.fmt * fmtCap t.fmt := Nat.mul_le_mul_left _ hi
    _ ≤ 8 * 256 := fmtBits_mul_fmtCap_le t.fmt

/-! ## The statement -/

/-- Settles O58: any width by digits of the number that the row spells; the two examples by the bytes' bounds. -/
theorem narrowElementsArePacked : Obligations.NarrowElementsArePacked := by
  have pos {w : Nat} (hw : w = 4 ∨ w = 6) : 0 < w := by omega
  refine ⟨fun w hw row n i hi => getD_unpackBits (pos hw) hi, fun w hw k codes i hlen hc hi => ?_,
    fun t m base r i hw hi => Tile.code_eq (pos hw) hi, fun b row => ?_, fun a b c => ?_⟩
  · have element : leNat (packBits w k codes) / 2 ^ (w * i) % 2 ^ w = codes.getD i 0 := by
      rw [packBits_element (pos hw) hlen hi, Nat.mod_eq_of_lt (hc _ (List.getElem_mem hi)), List.getD_eq_getElem _ _ hi]
    exact ⟨length_packBits, element, (getD_unpackBits (pos hw) hi).trans element⟩
  · rw [getD_unpackBits (by decide) (by decide), leNat]
    omega
  · have whole : leNat [a, b, c] = a.toNat + 256 * (b.toNat + 256 * c.toNat) := rfl
    have four : unpackBits 6 4 [a, b, c] = [leNat [a, b, c] % 64, leNat [a, b, c] / 64 % 64, leNat [a, b, c] / 4096 % 64,
        leNat [a, b, c] / 262144 % 64] := by
      simp [unpackBits, tabulate, List.range_succ, bitsOf, Nat.shiftRight_eq_div_pow]
    rw [four, whole]
    simp only [List.cons.injEq, and_true]
    omega

end Sys2Proof.Machine
end

section
/-!
Writes of the scratchpad in their access cycles (R212, R213), and what the end of a tile command leaves (R217, R242, R315); O44.
-/
namespace Sys2Proof.Machine

/-! ## The order in which writes land -/

/-- Writes of bytes from an address upward in one cycle. -/
def lateWrites (a : Nat) (bs : List Byte) (u : Nat) : List LateWrite :=
  bs.mapIdx fun i b => { cycle := u, addr := a + i, byte := b }

theorem lateWrites_cons {a u : Nat} {b : Byte} {bs : List Byte} :
    lateWrites a (b :: bs) u = { cycle := u, addr := a, byte := b } :: lateWrites (a + 1) bs u := by
  simp [lateWrites, List.mapIdx_cons, Nat.add_right_comm, Nat.add_assoc]

theorem cycle_of_mem_lateWrites {a u : Nat} {bs : List Byte} {e : LateWrite} (he : e ∈ lateWrites a bs u) : e.cycle = u := by
  obtain ⟨i, hi, rfl⟩ := List.mem_mapIdx.1 he
  rfl

theorem insertLate_last {e : LateWrite} {l : List LateWrite} (h : ∀ f ∈ l, f.cycle ≤ e.cycle) : insertLate e l = l ++ [e] := by
  induction l with
  | nil => rfl
  | cons f l ih =>
    rw [insertLate, if_neg (not_lt.2 (h f List.mem_cons_self)), ih fun g hg => h g (List.mem_cons_of_mem f hg)]
    rfl

/-- Writes issued in the order of their cycles land in the order of issue. -/
theorem landing_of_pairwise {l : List LateWrite} (h : l.Pairwise (·.cycle ≤ ·.cycle)) : landing l = l := by
  induction l using List.reverseRecOn with
  | nil => rfl
  | append_singleton l e ih =>
    obtain ⟨hl, -, he⟩ := List.pairwise_append.1 h
    have last : landing (l ++ [e]) = insertLate e (landing l) := List.foldl_append
    rw [last, ih hl, insertLate_last fun f hf => he f hf e List.mem_cons_self]

theorem landing_lateWrites {a u : Nat} {bs : List Byte} : landing (lateWrites a bs u) = lateWrites a bs u :=
  landing_of_pairwise (List.pairwise_of_forall_mem_list fun _ he _ hf =>
    (cycle_of_mem_lateWrites he).le.trans (cycle_of_mem_lateWrites hf).ge)

theorem foldl_put_lateWrites {m : Mem} {a u : Nat} {bs : List Byte} :
    (lateWrites a bs u).foldl (fun m e => m.put e.addr e.byte) m = m.write a bs := by
  induction bs generalizing m a with
  | nil => rfl
  | cons b bs ih => rw [lateWrites_cons, List.foldl_cons, ih, Mem.write]

/-! ## Bytes written with no write in flight -/

section
variable {c : Core} {a u v : Nat} {bs : List Byte} {y z : Byte}

theorem landBytes_idle (h : c.late = []) : c.landBytes a bs u =
    { c with scratch := c.scratch.write a bs, late := lateWrites a bs u, old := if (lateWrites a bs u).isEmpty then [] else c.scratch } :=
  if_pos (by rw [h]; rfl)

/-- Reads of a later cycle than the writes' see all of them, other reads none. -/
theorem seen_landBytes (h : c.late = []) :
    ((c.landBytes a bs u).seen fun _ => v) = if u < v then c.scratch.write a bs else c.scratch := by
  rw [landBytes_idle h]
  cases bs with
  | nil => exact (ite_self (c := u < v) c.scratch).symm
  | cons b bs =>
    have late : (lateWrites a (b :: bs) u).isEmpty = false := by rw [lateWrites_cons, List.isEmpty_cons]
    by_cases huv : u < v
    · have all : (lateWrites a (b :: bs) u).filter (fun e => decide (e.cycle < v)) = lateWrites a (b :: bs) u :=
        List.filter_eq_self.2 fun e he => by rw [cycle_of_mem_lateWrites he, decide_eq_true huv]
      simp [Core.seen, late, landing_lateWrites, all, huv, foldl_put_lateWrites]
    · have unseen : (lateWrites a (b :: bs) u).filter (fun e => decide (e.cycle < v)) = [] :=
        List.filter_eq_nil_iff.2 fun e he => by rwa [cycle_of_mem_lateWrites he, decide_eq_true_iff]
      simp [Core.seen, late, landing_lateWrites, unseen, huv]

/-- Of two writes to a byte that of the later cycle stands, in one cycle that issued later. -/
theorem landBytes_twice (h : c.late = []) :
    ((c.landBytes a [y] u).landBytes a [z] v).scratch.byte a = if v < u then y else z := by
  have two : ((c.landBytes a [y] u).landBytes a [z] v).scratch =
      (landing [⟨u, a, y⟩, ⟨v, a, z⟩]).foldl (fun m e => m.put e.addr e.byte) c.scratch := by
    rw [landBytes_idle h]
    rfl
  have order : landing [⟨u, a, y⟩, ⟨v, a, z⟩] = if v < u then [⟨v, a, z⟩, ⟨u, a, y⟩] else [⟨u, a, y⟩, ⟨v, a, z⟩] := rfl
  rw [two, order]
  split
  · simp
  · simp

end

/-! ## The core after the issue -/

/-- The core without its registers: what counting does not change. -/
def Core.uncounted (c : Core) : Core := { c with regs := [] }

theorem uncounted_inc {c : Core} {o n : Nat} : (c.inc o n).uncounted = c.uncounted := by
  unfold Core.inc
  split
  · rfl
  · rfl

theorem uncounted_lostCycles {x : Ctx} {c : Core} : (x.lostCycles c).uncounted = c.uncounted := by
  have waits : ((c.inc cFenceWait x.tm.fence).inc cLimitWait x.tm.limit).uncounted = c.uncounted := uncounted_inc.trans uncounted_inc
  unfold Ctx.lostCycles
  dsimp only
  split
  · exact waits
  · exact (foldl_keeps Core.uncounted (fun _ _ => uncounted_inc) _ _).trans waits

/-- What the operation occupies: the cycle until which each engine that it holds is busy. -/
def Ctx.heldKeys (x : Ctx) (o : Out) : List (Nat × Nat) :=
  match o.hold with
  | some h => h.keys.map fun k => (k, x.tm.start + h.busy)
  | none => x.engines.map fun k => (k, x.doneAt o)

/-- The engines' busy cycles after keys are held. -/
def holdKeys (keys : List (Nat × Nat)) (busy : SMap Nat) : SMap Nat :=
  keys.foldl (fun m k => sput 0 m k.1 (max (sget 0 m k.1) k.2)) busy

/-- The core's writes in flight, and the scratchpad that they leave. -/
def Ctx.landed (x : Ctx) (o : Out) : Core := o.core.land x.c.scratch o.core.scratch (x.s.writeCycle x.core x.task x.w (x.doneAt o))

/-- The core after the issue, before the cycles lost are counted. -/
def Ctx.occupied (x : Ctx) (o : Out) : Core :=
  { x.landed o with
    busy := x.heldWrites o (holdKeys (x.heldKeys o) (x.landed o).busy)
    clock := x.tm.issue + 1
    flights := (x.landed o).flights ++ x.flightsOf o
    fillEnd := if x.s.ownsRun x.core x.t then (x.landed o).fillEnd else x.doneAt o }

theorem issued_eq {x : Ctx} {o : Out} : x.issued o = (x.lostCycles (x.occupied o)).inc cHoldStall (x.holdStall o) := rfl

theorem issued_uncounted {x : Ctx} {o : Out} : (x.issued o).uncounted = (x.occupied o).uncounted := by
  rw [issued_eq, uncounted_inc, uncounted_lostCycles]

/-! ## The end of a command that has no effect elsewhere -/

section
variable {s : State} {x : Ctx} {o : Out} {k : Nat}

/-- The task whose head has left: rounding number, class and events move. -/
def Ctx.taskDone (x : Ctx) (o : Out) : Task :=
  let t := (o.core.task x.task).popHead x.tm.issue
  { t with srSeq := t.srSeq + b2n o.sr, resClass := max t.resClass o.grade.klass, resEvents := t.resEvents ||| o.grade.events,
           endAt := max t.endAt (x.doneAt o) }

/-- The core after the end of the command. -/
def Ctx.finished (x : Ctx) (o : Out) : Core :=
  let c := (x.issued o).setTask x.task (x.taskDone o)
  if cwDone x.w ∧ o.defer = false then c.tokenIn x.task (cwDoneTok x.w) (x.doneAt o) else c

theorem finishCmd_eq (hfx : o.fx = []) (hrem : remoteToken x = []) (hicc : x.tm.icc = 0) :
    s.finishCmd x o = (s.setCore x.core (x.finished o)).tookFree := by
  unfold State.finishCmd
  rw [hfx, hrem, if_pos hicc]
  rfl

theorem core_finishCmd (hfx : o.fx = []) (hrem : remoteToken x = []) (hicc : x.tm.icc = 0) :
    (s.finishCmd x o).core k = if k = x.core then x.finished o else s.core k := by
  rw [finishCmd_eq hfx hrem hicc]
  exact State.core_setCore

/-- The core without its registers, tasks and tokens that wait: what the end of a command leaves as its issue made it. -/
def Core.untasked (c : Core) : Core := { c.uncounted with tasks := [], seqClock := 0, tokWait := [] }

theorem untasked_tokenIn {c : Core} {t n cyc : Nat} : (c.tokenIn t n cyc).untasked = c.untasked := by
  unfold Core.tokenIn
  dsimp only
  split
  · rfl
  · rfl

theorem finished_untasked : (x.finished o).untasked = (x.occupied o).untasked := by
  have issued : ((x.issued o).setTask x.task (x.taskDone o)).untasked = (x.occupied o).untasked :=
    congrArg (fun c : Core => { c with tasks := [], seqClock := 0, tokWait := [] }) issued_uncounted
  unfold Ctx.finished
  dsimp only
  split
  · exact untasked_tokenIn.trans issued
  · exact issued

theorem landed_frame : (o.core.late = [] → (x.landed o).scratch = o.core.scratch) ∧ (x.landed o).tasks = o.core.tasks ∧
    (x.landed o).dcm = o.core.dcm ∧ (x.landed o).decks = o.core.decks ∧ (x.landed o).busy = o.core.busy := by
  unfold Ctx.landed Core.land
  dsimp only
  split
  next => exact ⟨fun _ => rfl, rfl, rfl, rfl, rfl⟩
  next h => exact ⟨fun hl => absurd (by rw [hl]; rfl) h, rfl, rfl, rfl, rfl⟩

/-- What the end of a command leaves of its core beside tasks, registers and tokens. -/
theorem finished_frame : (o.core.late = [] → (x.finished o).scratch = o.core.scratch) ∧ (x.finished o).dcm = o.core.dcm ∧
    (x.finished o).decks = o.core.decks ∧ (x.finished o).clock = x.tm.issue + 1 ∧
    (x.finished o).busy = x.heldWrites o (holdKeys (x.heldKeys o) o.core.busy) := by
  have same := finished_untasked (x := x) (o := o)
  obtain ⟨scratch, -, dcm, decks, busy⟩ := landed_frame (x := x) (o := o)
  rw [← busy]
  exact ⟨fun h => (congrArg Core.scratch same :).trans (scratch h), (congrArg Core.dcm same :).trans dcm,
    (congrArg Core.decks same :).trans decks, (congrArg Core.clock same :), (congrArg Core.busy same :)⟩

/-! ## Its tasks -/

theorem issued_tasks : (x.issued o).tasks = o.core.tasks := by
  obtain ⟨-, tasks, -⟩ := landed_frame (x := x) (o := o)
  exact (congrArg Core.tasks (issued_uncounted (x := x) (o := o)) :).trans tasks

theorem task_tokenIn_same {c : Core} {t n cyc : Nat} (h : t < c.tasks.length) : (c.tokenIn t n cyc).task t = (c.task t).incToken n := by
  unfold Core.tokenIn
  dsimp only
  split
  · exact Core.task_setTask_same h
  · exact Core.task_setTask_same h

theorem task_tokenIn_other {c : Core} {t n cyc : Nat} (h : k ≠ t) : (c.tokenIn t n cyc).task k = c.task k := by
  unfold Core.tokenIn
  dsimp only
  split
  · exact Core.task_setTask_other h
  · exact Core.task_setTask_other h

/-- The tokens after the end of a command: the one that it names has counted, unless it waits. -/
def Ctx.tokensDone (x : Ctx) (o : Out) (tokens : List Half) : List Half :=
  if cwDone x.w ∧ o.defer = false then tokens.set (cwDoneTok x.w) (tokens.getD (cwDoneTok x.w) 0 + 1) else tokens

theorem getD_tokensDone {tokens : List Half} {n : Nat} (hn : n < tokens.length) : (x.tokensDone o tokens).getD n 0 =
    if cwDone x.w = true ∧ o.defer = false ∧ n = cwDoneTok x.w then tokens.getD n 0 + 1 else tokens.getD n 0 := by
  unfold Ctx.tokensDone
  by_cases counts : cwDone x.w ∧ o.defer = false
  · rw [if_pos counts]
    by_cases named : n = cwDoneTok x.w
    · subst named
      rw [if_pos ⟨counts.1, counts.2, rfl⟩, List.getD_eq_getElem _ _ (by simpa using hn), List.getElem_set_self]
    · rw [if_neg fun h => named h.2.2]
      simp [List.getD, List.getElem?_set_ne (Ne.symm named)]
  · rw [if_neg counts, if_neg fun h => counts ⟨h.1, h.2.1⟩]

theorem task_finished_same (h : x.task < o.core.tasks.length) : ∃ q,
    (x.finished o).task x.task = { x.taskDone o with tokens := x.tokensDone o (o.core.task x.task).tokens, seq := q } := by
  have left : ((x.issued o).setTask x.task (x.taskDone o)).task x.task = x.taskDone o := Core.task_setTask_same (by rwa [issued_tasks])
  unfold Ctx.finished Ctx.tokensDone
  dsimp only
  split
  · rw [task_tokenIn_same (by simpa [Core.setTask, issued_tasks] using h), left]
    exact ⟨_, rfl⟩
  · exact ⟨(x.taskDone o).seq, left⟩

theorem task_finished_other (h : k ≠ x.task) : (x.finished o).task k = o.core.task k := by
  have left : ((x.issued o).setTask x.task (x.taskDone o)).task k = o.core.task k := by
    rw [Core.task_setTask_other h, Core.task, issued_tasks]
    rfl
  unfold Ctx.finished
  dsimp only
  split
  · exact (task_tokenIn_other h).trans left
  · exact left

/-! ## Its engines -/

theorem le_holdKeys {keys : List (Nat × Nat)} {busy : SMap Nat} : sget 0 busy k ≤ sget 0 (holdKeys keys busy) k := by
  induction keys generalizing busy with
  | nil => exact le_rfl
  | cons e keys ih =>
    have put : sget 0 busy k ≤ sget 0 (sput 0 busy e.1 (max (sget 0 busy e.1) e.2)) k := by
      rw [sget_sput]
      split
      next h => exact h ▸ le_max_left _ _
      next => exact le_rfl
    exact put.trans ih

theorem le_holdKeys_of_mem {keys : List (Nat × Nat)} {busy : SMap Nat} {v : Nat} (h : (k, v) ∈ keys) : v ≤ sget 0 (holdKeys keys busy) k := by
  induction keys generalizing busy with
  | nil => cases h
  | cons e keys ih =>
    obtain rfl | h := List.mem_cons.1 h
    · have put : v ≤ sget 0 (sput 0 busy k (max (sget 0 busy k) v)) k := by
        rw [sget_sput, if_pos rfl]
        exact le_max_right _ _
      exact put.trans le_holdKeys
    · exact ih h

/-- A hold buffer's writes only lengthen what an engine is busy. -/
theorem le_heldWrites {busy : SMap Nat} (hk : k < 1000) : sget 0 busy k ≤ sget 0 (x.heldWrites o busy) k := by
  unfold Ctx.heldWrites
  split
  next l n c _ =>
    split
    · exact le_rfl
    · rw [sget_sput, if_neg (by omega), sget_sput]
      split
      next h => exact h ▸ Nat.le_add_right _ _
      next => exact le_rfl
  next => exact le_rfl

theorem le_busy_finished {h : Hold} (hold : o.hold = some h) (hmem : k ∈ h.keys) (hk : k < 1000) :
    x.tm.start + h.busy ≤ sget 0 (x.finished o).busy k := by
  obtain ⟨-, -, -, -, busy⟩ := finished_frame (x := x) (o := o)
  have held : (k, x.tm.start + h.busy) ∈ x.heldKeys o := by
    rw [Ctx.heldKeys, hold]
    exact List.mem_map_of_mem hmem
  rw [busy]
  exact (le_holdKeys_of_mem held).trans (le_heldWrites hk)

end

/-- Settles O44: writes by the order in which they land; the end of a command by the core that it leaves. -/
theorem tileFinishCounts : Obligations.TileFinishCounts := by
  refine ⟨fun c a b u v bs y z hl => ⟨?_, ?_, landBytes_twice hl⟩, fun s x o hfx hrem htask hicc => ?_⟩
  · rw [landBytes_idle hl]
    exact Mem.byte_write
  · rw [seen_landBytes hl]
    by_cases later : u < v
    · simp [later, Mem.byte_write]
    · simp [later]
  · have own : (s.finishCmd x o).core x.core = x.finished o := (core_finishCmd hfx hrem hicc).trans (if_pos rfl)
    obtain ⟨scratch, dcm, decks, clock, -⟩ := finished_frame (x := x) (o := o)
    obtain ⟨q, task⟩ := task_finished_same htask
    dsimp only
    rw [own, task]
    refine ⟨by rw [finishCmd_eq hfx hrem hicc]; rfl, fun c hc => (core_finishCmd hfx hrem hicc).trans (if_neg hc), rfl, rfl, rfl, rfl,
      rfl, rfl, rfl, fun n hn => getD_tokensDone hn, fun k hk => task_finished_other hk, scratch, dcm, decks, clock,
      fun h hold k hmem hk => le_busy_finished hold hmem hk⟩

end Sys2Proof.Machine
end

section
/-!
Decks of the charge-trap storage: the updates that leave them alone, and what a refresh and the report of its event leave of the rest of
the block (R94, R113-R115, R397-R399); for O40, O49, O50 and O51.
-/
namespace Sys2Proof.Machine

/-! ## Maps of values that all have a property, and maps over the values -/

theorem sget_of_forall {α : Type} {P : α → Prop} {d : α} {m : SMap α} (hd : P d) (h : ∀ e ∈ m, P e.2) (k : Nat) : P (sget d m k) := by
  induction m with
  | nil => exact hd
  | cons e m ih =>
    rw [sget]
    split
    · exact h e (List.mem_cons_self ..)
    · exact ih fun x hx => h x (List.mem_cons_of_mem e hx)

theorem sget_of_notMem {α : Type} {d : α} {m : SMap α} {k : Nat} (h : ∀ e ∈ m, e.1 ≠ k) : sget d m k = d := by
  induction m with
  | nil => rfl
  | cons e m ih =>
    rw [sget, if_neg (h e (List.mem_cons_self ..))]
    exact ih fun x hx => h x (List.mem_cons_of_mem e hx)

/-- A map over the entries of a map with rising keys: an entry that becomes the default is no longer listed and reads the same. -/
theorem sget_map_listed {α : Type} [DecidableEq α] {d : α} {f : Nat → α → α} {m : SMap α} {k : Nat} {o : Option Nat} (hm : risingFrom o m = true)
    (hd : ∀ n, f n d = d) : sget d ((m.map fun e => (e.1, f e.1 e.2)).filter fun e => e.2 ≠ d) k = f k (sget d m k) := by
  induction m generalizing o with
  | nil => exact (hd k).symm
  | cons e m ih =>
    obtain ⟨-, rest⟩ := rising_cons.1 hm
    rw [List.map_cons, sget]
    by_cases hk : e.1 = k
    · subst hk
      rw [if_pos rfl]
      by_cases hv : f e.1 e.2 = d
      · have above : ∀ x ∈ m, x.1 ≠ e.1 := fun x hx => (risingFrom_some rest x hx e.1 rfl).ne'
        rw [List.filter_cons_of_neg (by simpa using hv), ih rest, sget_of_notMem above, hd, hv]
      · rw [List.filter_cons_of_pos (by simpa using hv), sget, if_pos rfl]
    · rw [if_neg hk, ← ih rest]
      by_cases hv : f e.1 e.2 = d
      · rw [List.filter_cons_of_neg (by simpa using hv)]
      · rw [List.filter_cons_of_pos (by simpa using hv), sget, if_neg hk]

section
variable {s t : State} {c : Core} {f : Core → Core} {n i j k o src inst lvl core st : Nat} {x : Deck}

theorem core_mapCores {f : Nat → Core → Core} (hs : swf Core.init s.cores = true) (hf : ∀ n, f n Core.init = Core.init) :
    (s.mapCores f).core n = f n (s.core n) :=
  sget_map_listed (swf_iff.1 hs).1 hf

/-! ## Decks -/

theorem deck_setCore (h : c.decks = (s.core n).decks) : (s.setCore n c).deck k = s.deck k := by
  unfold State.deck Core.deck
  rw [State.core_setCore]
  split
  next e => rw [h, e]
  next => rfl

theorem deck_modCore (h : (f (s.core n)).decks = (s.core n).decks) : (s.modCore n f).deck k = s.deck k := deck_setCore h

theorem deck_setDeck_other (h : k ≠ i) : (s.setDeck i x).deck k = s.deck k := deck_setDeck.trans (if_neg h)

/-- The deck that a refresh fills works on a job whose source is the deck that is refreshed (R114). -/
theorem job_of_refreshInto (h : c.refreshInto k = some j) : ∃ p, (c.deck j).job = some p ∧ p.source = some k := by
  have fills := List.find?_some h
  split at fills
  next p hp => exact ⟨p, hp, by simpa using fills⟩
  next => cases fills

/-! ## What a report and a refresh leave -/

/-- The state without its cores and without what reports write. -/
def State.outline (s : State) : State := s.unreported.shell

theorem outline_of_unreported (h : t.unreported = s.unreported) : t.outline = s.outline := congrArg State.shell h

/-- What lies in the outline. -/
theorem fields_of_outline (h : t.outline = s.outline) : t.time = s.time ∧ t.cmds = s.cmds ∧ t.streams = s.streams ∧ t.corpora = s.corpora ∧
    t.deckOwner = s.deckOwner ∧ t.ownerPending = s.ownerPending := by
  refine ⟨?_, ?_, ?_, ?_, ?_, ?_⟩
  · exact (congrArg State.time h :)
  · exact (congrArg State.cmds h :)
  · exact (congrArg State.streams h :)
  · exact (congrArg State.corpora h :)
  · exact (congrArg State.deckOwner h :)
  · exact (congrArg State.ownerPending h :)

@[simp] theorem modCore_outline : (s.modCore n f).outline = s.outline := rfl

@[simp] theorem setDeck_outline : (s.setDeck i x).outline = s.outline := rfl

@[simp] theorem setHub_outline {v : Word} : (s.setHub o v).outline = s.outline := outline_of_unreported setHub_unreported

@[simp] theorem hubInc_outline : (s.hubInc o k).outline = s.outline := setHub_outline

/-- What the report of an event leaves: the outline, and every core but for its counters. -/
def State.besideCounts (s : State) : State × (Nat → Core) := (s.outline, fun n => (s.core n).uncounted)

theorem besideCounts_of_unreported (h : t.unreported = s.unreported) : t.besideCounts = s.besideCounts :=
  congrArg (fun u : State => (u.shell, fun n => (u.core n).uncounted)) h

theorem countEvent_besideCounts : (s.countEvent src inst).besideCounts = s.besideCounts := by
  have counted (u : State) (n a : Nat) : (u.modCore n fun c => c.inc a 1).besideCounts = u.besideCounts := by
    refine Prod.ext rfl (funext fun k => ?_)
    change (State.core (u.modCore n fun c => c.inc a 1) k).uncounted = (u.core k).uncounted
    rw [State.core_modCore]
    split
    next e => rw [uncounted_inc, e]
    next => rfl
  have regs : ((s.hubOr rFltSticky (BitVec.ofNat 32 (2 ^ src))).hubInc (rFltCount + 4 * src) 1).besideCounts = s.besideCounts :=
    besideCounts_of_unreported (hubInc_unreported.trans setHub_unreported)
  unfold State.countEvent
  dsimp only
  split
  · exact (counted _ _ _).trans regs
  · exact regs

/-- An event below the Fatal level, of any source. -/
theorem recordEvent_besideCounts (hl : lvl ≠ 3) : (s.recordEvent src inst lvl).1.besideCounts = s.besideCounts := by
  have branch (p : Prop) [Decidable p] (a b : State) : (if p then a else b).besideCounts = if p then a.besideCounts else b.besideCounts :=
    apply_ite _ _ _ _
  have severe (u : State) : (u.severeReport src inst).besideCounts = u.besideCounts := besideCounts_of_unreported severeReport_unreported
  have kept (u : State) (g : FaultInst) : (u.setFaultInst g).besideCounts = u.besideCounts := besideCounts_of_unreported setFaultInst_unreported
  have told (u : State) (ps : List Nat) : (u.reportAttention src 1 ps).besideCounts = u.besideCounts :=
    besideCounts_of_unreported reportAttention_unreported
  have again (u : State) : (u.hubInc rEscalateCount 1).besideCounts = u.besideCounts := besideCounts_of_unreported hubInc_unreported
  unfold State.recordEvent
  split
  · rfl
  · simp only [apply_ite Prod.fst, branch, severe, again, told, kept, countEvent_besideCounts, ite_self]

theorem reportOnly_besideCounts (hl : lvl ≠ 3) : (s.reportOnly src inst lvl).besideCounts = s.besideCounts := by
  unfold State.reportOnly
  dsimp only
  split
  · exact (besideCounts_of_unreported severeEnd_unreported).trans (recordEvent_besideCounts hl)
  · exact recordEvent_besideCounts hl

/-- A core without its decks and counters. -/
def Core.undecked (c : Core) : Core := { c.uncounted with decks := [] }

/-- What a refresh leaves: the outline, and every core but for its decks and counters. -/
def State.besideDecks (s : State) : State × (Nat → Core) := (s.outline, fun n => (s.core n).undecked)

theorem besideDecks_of_besideCounts (h : t.besideCounts = s.besideCounts) : t.besideDecks = s.besideDecks :=
  congrArg (fun a : State × (Nat → Core) => (a.1, fun n => ({ a.2 n with decks := [] } : Core))) h

theorem setCore_besideDecks (h : c.undecked = (s.core n).undecked) : (s.setCore n c).besideDecks = s.besideDecks := by
  refine Prod.ext rfl (funext fun k => ?_)
  change (State.core (s.setCore n c) k).undecked = (s.core k).undecked
  rw [State.core_setCore]
  split
  next e => rw [h, e]
  next => rfl

@[simp] theorem serveRefresh_besideDecks : (s.serveRefresh core st).besideDecks = s.besideDecks := by
  unfold State.serveRefresh
  dsimp only
  split
  · rfl
  · exact besideDecks_of_besideCounts (reportOnly_besideCounts (by decide))
  · split
    · rfl
    · split
      · exact setCore_besideDecks rfl
      · exact setCore_besideDecks rfl
      · exact setCore_besideDecks rfl
      · rfl

theorem serveRefreshIf_besideDecks : (s.serveRefreshIf core st).besideDecks = s.besideDecks := by
  unfold State.serveRefreshIf
  split
  · exact serveRefresh_besideDecks
  · rfl

end

end Sys2Proof.Machine
end

section
/-!
Owners of decks and the erase of all (R96, R97, R426); O51.
-/
namespace Sys2Proof.Machine

/-! ## A refresh that is abandoned (R115) -/

section
variable {s : State} {i : Nat}

/-- A deck is no longer scheduled for refresh. -/
def State.unscheduled (s : State) (i : Nat) : State :=
  (s.setDeck i { s.deck i with refreshDue := false }).setHub rRefreshPending (s.hubWord rRefreshPending - 1)

/-- The deck that was filled for an abandoned refresh. -/
def Deck.unfilled (d : Deck) : Deck :=
  { d with state := .incomplete, noResume := true, copyDone := false, holdsGrant := false, queuedAt := none, job := none }

@[simp] theorem deck_unscheduled : (s.unscheduled i).deck i = { s.deck i with refreshDue := false } := State.deck_setDeck_same

theorem unscheduled_outline : (s.unscheduled i).outline = s.outline := setHub_outline.trans setDeck_outline

/-- What the abandon of a refresh can do. -/
theorem abandonRefresh_cases : s.abandonRefresh i = s ∨ s.abandonRefresh i = s.unscheduled i ∨
    ∃ k, ((s.unscheduled i).core (i / 216)).refreshInto (i % 216) = some k ∧
      s.abandonRefresh i = (s.unscheduled i).modCore (i / 216) fun c => c.setDeck k (c.deck k).unfilled := by
  unfold State.abandonRefresh
  split
  · right
    extract_lets scheduled
    split
    next k hk => exact .inr ⟨k, hk, rfl⟩
    next => exact .inl rfl
  · exact .inl rfl

theorem abandonRefresh_outline : (s.abandonRefresh i).outline = s.outline := by
  obtain e | e | ⟨k, -, e⟩ := abandonRefresh_cases (s := s) (i := i)
  · rw [e]
  · rw [e, unscheduled_outline]
  · rw [e, modCore_outline, unscheduled_outline]

/-- A deck that no refresh fills keeps its state as its own refresh is abandoned. -/
theorem state_abandonRefresh (h : (s.deck i).job = none) : ((s.abandonRefresh i).deck i).state = (s.deck i).state := by
  have undue := deck_unscheduled (s := s) (i := i)
  obtain e | e | ⟨k, hk, e⟩ := abandonRefresh_cases (s := s) (i := i)
  · rw [e]
  · rw [e, undue]
  · have other : i % 216 ≠ k := by
      rintro rfl
      obtain ⟨p, hp, -⟩ := job_of_refreshInto hk
      exact absurd (hp.symm.trans ((congrArg Deck.job undue).trans h)) (by simp)
    have kept : ((s.unscheduled i).modCore (i / 216) fun c => c.setDeck k (c.deck k).unfilled).deck i = (s.unscheduled i).deck i := by
      rw [State.deck, State.core_modCore, if_pos rfl, Core.deck_setDeck, if_neg other]
      rfl
    rw [e, kept, undue]

end

/-! ## Owners (R97) -/

section
variable {s : State} {n m i : Nat} {v : Byte}

theorem deckOwnerWrite_waits {w : Word} (hm : s.manageable = true) (hn : n < 192 * s.nCores) :
    deckOwnerWrite n w s = { s with ownerPending := sins s.ownerPending n (BitVec.ofNat 8 w.toNat) } :=
  if_neg (by simp [hm, hn])

theorem deckOwnerWrite_ignored {w : Word} (h : s.manageable = false ∨ 192 * s.nCores ≤ n) : deckOwnerWrite n w s = s := if_pos h

theorem deckOwnerChange_inFlight (hv : mget s.ownerPending n = some v) (hf : s.deckInFlight (s.deckIdx n) n = true) :
    deckOwnerChange n s = s := by
  simp only [deckOwnerChange, hv]
  exact if_pos (.inr hf)

/-- The deck passes to the owner of a value, with a record of the owners. -/
def State.ownerSet (s : State) (n : Nat) (v : Byte) : State :=
  ({ s.setDeck (s.deckIdx n) { s.deck (s.deckIdx n) with installed := none, handover := false } with
      deckOwner := sput 0 s.deckOwner n v, ownerPending := sdel s.ownerPending n } : State).putOwners (n / 12288)

@[simp] theorem owner_ownerSet : (s.ownerSet n v).owner m = if m = n then v else s.owner m := sget_sput

@[simp] theorem deck_ownerSet : (s.ownerSet n v).deck (s.deckIdx n) = { s.deck (s.deckIdx n) with installed := none, handover := false } :=
  State.deck_setDeck_same

/-- The erase of a deck for its new owner begins. -/
def State.handoverBegun (s : State) (i : Nat) : State := s.setDeck i { (s.deck i).startErase s.beat with handover := true }

@[simp] theorem deck_handoverBegun : (s.handoverBegun i).deck i = { (s.deck i).startErase s.beat with handover := true } :=
  State.deck_setDeck_same

section
variable (hv : mget s.ownerPending n = some v) (hs : s.serving = true) (hf : s.deckInFlight (s.deckIdx n) n = false)
include hv hs hf

theorem deckOwnerChange_sets (hnew : newReader (s.owner n) v = false) (hst : (s.deck (s.deckIdx n)).state ≠ .programming) :
    deckOwnerChange n s = (s.advanceTo s.nextBoundary).ownerSet n v := by
  have due : ¬(s.serving = false ∨ s.deckInFlight (s.deckIdx n) n = true) := by simp [hs, hf]
  have closed : ((s.advanceTo s.nextBoundary).deck (s.deckIdx n)).state ≠ .programming := hst
  have unread : ¬newReader ((s.advanceTo s.nextBoundary).owner n) v = true := by
    rw [Bool.not_eq_true]
    exact hnew
  unfold deckOwnerChange
  rw [hv]
  refine (if_neg due).trans ((if_neg fun h => unread h.1).trans ?_)
  exact congrArg (fun d : Deck => (State.putOwners { (s.advanceTo s.nextBoundary).setDeck (s.deckIdx n) { d with installed := none, handover := false } with
    deckOwner := sput 0 s.deckOwner n v, ownerPending := sdel s.ownerPending n } (n / 12288))) (if_neg closed)

theorem deckOwnerChange_erases (hnew : newReader (s.owner n) v = true) (hst : (s.deck (s.deckIdx n)).state = .ready) :
    deckOwnerChange n s = ((s.advanceTo s.nextBoundary).handoverBegun (s.deckIdx n)).abandonRefresh (s.deckIdx n) := by
  have due : ¬(s.serving = false ∨ s.deckInFlight (s.deckIdx n) n = true) := by simp [hs, hf]
  have closed : (if (s.deck (s.deckIdx n)).state = .programming then (s.deck (s.deckIdx n)).stopProgram else s.deck (s.deckIdx n)) =
      s.deck (s.deckIdx n) := if_neg (by simp [hst])
  have begun : (if (s.deck (s.deckIdx n)).state = .erasing then s.deck (s.deckIdx n)
      else (s.deck (s.deckIdx n)).startErase (s.advanceTo s.nextBoundary).beat) = (s.deck (s.deckIdx n)).startErase (s.advanceTo s.nextBoundary).beat :=
    if_neg (by simp [hst])
  unfold deckOwnerChange
  rw [hv]
  refine (if_neg due).trans ((if_pos ⟨hnew, .inl ((congrArg Deck.state closed).trans hst)⟩).trans ?_)
  refine congrArg (fun d : Deck => ((s.advanceTo s.nextBoundary).setDeck (s.deckIdx n) { d with handover := true }).abandonRefresh (s.deckIdx n)) ?_
  exact (congrArg (fun d : Deck => if d.state = .erasing then d else d.startErase (s.advanceTo s.nextBoundary).beat) closed).trans begun

end

end

/-! ## The erase of every deck (R426) -/

/-- A deck as ERASE_ALL leaves it. -/
def Deck.eraseAll (d : Deck) (beat : Nat) : Deck :=
  if d.state = .ready ∨ d.state = .incomplete ∨ d.state = .programming then d.startErase beat else d

theorem eraseAll_init {beat : Nat} : Deck.init.eraseAll beat = Deck.init := rfl

section
variable {s : State} {n k : Nat}

/-- Every deck of the block as ERASE_ALL leaves it. -/
def State.erasedAll (s : State) : State := s.mapCores fun _ c => { c with decks := c.decks.map fun e => (e.1, e.2.eraseAll s.beat) }

theorem eraseAll_manageable (hm : s.manageable = true) : eraseAll s = s.erasedAll.answer ccSuccess [] :=
  if_neg (by simp [hm])

theorem deck_erasedAll (hs : swf Core.init s.cores = true) : (s.erasedAll.core n).deck k = ((s.core n).deck k).eraseAll s.beat := by
  have core : s.erasedAll.core n = { s.core n with decks := (s.core n).decks.map fun e => (e.1, e.2.eraseAll s.beat) } :=
    core_mapCores hs fun _ => rfl
  rw [core]
  exact sget_map_snd (f := fun d => Deck.eraseAll d s.beat) eraseAll_init

end

/-- Settles O51: a write, the change at a boundary with and without an erase, and the erase of every deck by `Deck.eraseAll`. -/
theorem deckOwnershipChanges : Obligations.DeckOwnershipChanges := by
  refine fun s => ⟨fun n v hm hn => congrArg Host.Outcome.next (deckOwnerWrite_waits hm hn),
    fun n v h => congrArg Host.Outcome.next (deckOwnerWrite_ignored h), fun n v hv hs hf => ⟨fun hnew hst => ?_, fun hnew hst hwear => ?_⟩,
    fun n v hv hs hf => congrArg Host.Outcome.next (deckOwnerChange_inFlight hv hf), fun hm hwf => ?_⟩
  · have deck : ((s.advanceTo s.nextBoundary).ownerSet n v).deck (s.deckIdx n) = { s.deck (s.deckIdx n) with installed := none, handover := false } :=
      deck_ownerSet
    refine ⟨_, congrArg Host.Outcome.next (deckOwnerChange_sets hv hs hf hnew hst), owner_ownerSet.trans (if_pos rfl), mget_sdel_same, rfl,
      (congrArg Deck.state deck :), (congrArg Deck.cells deck :), fun m hm => owner_ownerSet.trans (if_neg hm)⟩
  · have erasing : (s.deck (s.deckIdx n)).startErase (s.advanceTo s.nextBoundary).beat =
        { (s.deck (s.deckIdx n)).idle with state := .erasing, pulses := 400, queuedAt := some (s.advanceTo s.nextBoundary).beat } :=
      if_neg (by omega)
    have begun := (deck_handoverBegun (s := s.advanceTo s.nextBoundary) (i := s.deckIdx n)).trans
      (congrArg (fun d : Deck => { d with handover := true }) erasing)
    obtain ⟨-, -, -, -, owners, waiting⟩ := fields_of_outline
      (abandonRefresh_outline (s := (s.advanceTo s.nextBoundary).handoverBegun (s.deckIdx n)) (i := s.deckIdx n))
    refine ⟨_, congrArg Host.Outcome.next (deckOwnerChange_erases hv hs hf hnew hst), ?_, ?_, ?_⟩
    · exact (state_abandonRefresh (congrArg Deck.job begun)).trans (congrArg Deck.state begun)
    · exact congrArg (sget 0 · n) owners
    · exact (congrArg (mget · n) waiting).trans hv
  · refine ⟨_, congrArg Host.Outcome.next (eraseAll_manageable hm), fun n k => ?_, rfl⟩
    have deck := deck_erasedAll (n := n) (k := k) hwf
    exact ⟨fun h => deck.trans (if_pos h), fun h => deck.trans (if_neg h)⟩

end Sys2Proof.Machine
end

section
/-!
Programs of the corpus (R109, R303, R311, R313, R314): how a NEW, a COMPACT and an ATTACH begin and how they are refused; O40.
-/
namespace Sys2Proof.Machine

/-! ## The scan service on the cores of a corpus -/

section
variable {s t : State} {c : Core} {n p : Nat} {f : Core → Core}

/-- What the scan service leaves: the shell and the decks. -/
def State.shelved (s : State) : State × (Nat → SMap Deck) := (s.shell, fun n => (s.core n).decks)

theorem modCore_shelved (h : (f (s.core n)).decks = (s.core n).decks) : (s.modCore n f).shelved = s.shelved := by
  refine Prod.ext rfl (funext fun k => ?_)
  change (State.core (s.modCore n f) k).decks = (s.core k).decks
  rw [State.core_modCore]
  split
  next e => rw [h, e]
  next => rfl

theorem deck_of_shelved (h : t.shelved = s.shelved) : t.deck n = s.deck n :=
  congrArg (fun a : State × (Nat → SMap Deck) => sget Deck.init (a.2 (n / 216)) (n % 216)) h

theorem unload_decks {task : Nat} : (c.unload task).decks = c.decks := by
  have layers : (c.dropLayers task).decks = c.decks := foldl_keeps Core.decks (fun _ _ => by dsimp only; split <;> rfl) _ c
  unfold Core.unload
  dsimp only
  split
  · exact layers
  · exact layers

theorem fitService_shelved : (s.fitService p).shelved = s.shelved := by
  unfold State.fitService
  split
  · rfl
  · refine (foldl_keeps State.shelved (fun _ _ => modCore_shelved rfl) _ _).trans ?_
    exact foldl_keeps State.shelved (fun _ _ => modCore_shelved (foldl_keeps Core.decks (fun _ _ => unload_decks) _ _)) _ s

end

/-! ## Programs of vectors (R311, R313) -/

theorem map_fst_zip_take {α β : Type} {l : List α} {m : List β} : (l.zip m).map (·.1) = l.take m.length := by
  induction l generalizing m with
  | nil => simp
  | cons a l ih => cases m with
    | nil => rfl
    | cons b m => simp [ih]

/-- The program of a command has begun: it runs, its decks have their places in the corpus, and each of the first n is being programmed
for it, in INT8 and with the column check. -/
structure ProgramBegun (s t : State) (c : Cmd) (k : Corpus) (n : Nat) : Prop where
  running : (t.cmd? c.id).map (·.phase) = some .running
  corpus : t.corpus? c.part = some (k.place c.decks)
  given : ∀ d ∈ c.decks.take n, (t.deck (s.deckIdx d)).GivenTo c.id false true
  streams : t.streams = s.streams
  time : t.time = s.time
  ids : t.cmds.map (·.id) = s.cmds.map (·.id)

section
variable {s t : State} {c : Cmd} {k : Corpus} {n : Nat}

theorem corpus?_setCorpus : (s.setCorpus n k).corpus? n = some k := mget_sins.trans (if_pos rfl)

theorem programVectors_begins {vs : List (List Byte × Nat × Bool)} (hc : (s.cmd? c.id).isSome = true) :
    ProgramBegun s (s.programVectors c k vs) c k (chunks 1024 vs).length := by
  obtain ⟨g, content, program, cores, given⟩ : ∃ (g : State) (content : List Byte),
      s.programVectors c k vs = (g.begin_ { c with content := content }).fitService c.part ∧
      g = { s.setCorpus c.part (k.place c.decks) with cores := g.cores } ∧
      ∀ d ∈ c.decks.take (chunks 1024 vs).length, (g.deck (s.deckIdx d)).GivenTo c.id false true := by
    refine ⟨_, _, rfl, eq_of_shell foldl_giveProgram_shell, fun d hd => ?_⟩
    exact givenTo_foldl_giveProgram (s := s.setCorpus c.part (k.place c.decks)) (.inl (map_fst_zip_take ▸ hd))
  have kept := fitService_shelved (s := g.begin_ { c with content := content }) (p := c.part)
  have shell := eq_of_shell (congrArg Prod.fst kept)
  have found : (g.cmd? c.id).isSome = true := by rw [cores]; exact hc
  rw [program]
  constructor
  case running =>
    rw [shell]
    exact congrArg (Option.map (·.phase)) (cmd?_begin_ (c := { c with content := content }) found)
  case corpus =>
    rw [shell, cores]
    exact corpus?_setCorpus
  case given =>
    intro d hd
    rw [deck_of_shelved kept]
    exact given d hd
  case streams => rw [shell, cores]; rfl
  case time => rw [shell, cores]; rfl
  case ids =>
    rw [shell, cores]
    exact ids_setCmd

/-- The sources that a COMPACT keeps with its tags change nothing of how its program has begun. -/
theorem ProgramBegun.setContent {x : Cmd} {content : List Byte} (h : ProgramBegun s t c k n) (hx : t.cmd? c.id = some x) :
    ProgramBegun s (t.setCmd { x with content := content }) c k n := by
  have id : x.id = c.id := by simpa using List.find?_some hx
  have found : (t.setCmd { x with content := content }).cmd? c.id = some { x with content := content } := by
    rw [← id]
    exact cmd?_setCmd (c := { x with content := content }) (by rw [id, hx]; rfl)
  have running : x.phase = .running := by simpa [hx] using h.running
  exact ⟨by rw [found, Option.map_some, running], h.corpus, h.given, h.streams, h.time, ids_setCmd.trans h.ids⟩

/-! ## The three modes -/

variable {id st : Nat} (ha : s.admitted id 0x20 = some c) (hp : c.phase = .waiting) (hm : s.mayStart c = true) (hd : (s.port c.port).dmaOn = true)

theorem filter_admitted (ha : s.admitted id 0x20 = some c) {p : Cmd → Bool} (h : p c = true) : (s.admitted id 0x20).filter p = some c := by
  rw [ha, Option.filter_some, if_pos h]

section
include hp hm hd

theorem programRow_starts {start : State → State} : s.programRow c start = start s := by
  simp [State.programRow, hp, hm, hd]

include ha

theorem corpusProgramNew_begins (hf : c.flags = 0) (hs : s.decksStatus c = none) (hk : s.corpusFor c c.decks = .inr k) :
    corpusProgramNew id s = s.programVectors c k (s.newVectors c) := by
  unfold corpusProgramNew
  rw [filter_admitted ha (by simp [hf])]
  refine (programRow_starts hp hm hd).trans ?_
  rw [hs, hk]
  exact if_neg (by simp [Cmd.flag, hf])

theorem corpusProgramNew_refused (hf : c.flags = 0) (hs : s.decksStatus c = some st) :
    corpusProgramNew id s = s.complete c (c.result st 0 0) := by
  unfold corpusProgramNew
  rw [filter_admitted ha (by simp [hf])]
  refine (programRow_starts hp hm hd).trans ?_
  rw [hs]

theorem corpusProgramCompact_foreign {k0 : Corpus} (hf : c.flags % 4 = 1) (h0 : s.corpus? c.part = some k0)
    (hv : (s.sources c).mapM (s.vectorOf k0) = none) : corpusProgramCompact id s = s.complete c (c.result stAccessDenied 0 0) := by
  unfold corpusProgramCompact
  rw [filter_admitted ha (by simp [hf])]
  refine (programRow_starts hp hm hd).trans ?_
  rw [h0]
  dsimp only
  rw [hv]

theorem corpusProgramCompact_begins {k0 : Corpus} {vs : List (List Byte × Nat × Bool)} (hf : c.flags % 4 = 1) (h0 : s.corpus? c.part = some k0)
    (hv : (s.sources c).mapM (s.vectorOf k0) = some vs) (hs : s.decksStatus c = none) (hk : s.corpusFor c c.decks = .inr k) :
    ProgramBegun s (corpusProgramCompact id s) c k (chunks 1024 vs).length := by
  have mine := id_of_admitted ha
  have begun : ProgramBegun s (s.programVectors c k vs) c k (chunks 1024 vs).length :=
    programVectors_begins (by rw [mine, cmd?_of_admitted ha]; rfl)
  obtain ⟨x, hx, -⟩ := Option.map_eq_some_iff.1 begun.running
  have kept : corpusProgramCompact id s = (s.programVectors c k vs).setCmd { x with content := x.content ++ (s.sources c).flatMap (toLe 4) } := by
    rw [mine] at hx
    unfold corpusProgramCompact
    rw [filter_admitted ha (by simp [hf])]
    refine (programRow_starts hp hm hd).trans ?_
    rw [h0]
    dsimp only
    rw [hv, hs, hk]
    dsimp only
    rw [hx]
  rw [kept]
  exact begun.setContent hx

end

section
include ha hp hm hd

theorem corpusProgramAttach_refused (hf : c.flags % 4 = 2) (hs : s.attachStatus c = some st) :
    corpusProgramAttach id s = s.complete c (c.result st 0 0) := by
  unfold corpusProgramAttach
  rw [filter_admitted ha (by simp [hf, hp])]
  refine (if_neg (by simp [hm, hd])).trans ?_
  rw [hs]

/-- An attach runs with the tags and tombstones of the host. -/
def Cmd.attaching (c : Cmd) (s : State) : Cmd :=
  { c with content := (s.port c.port).host.read (c.par 0x20 8) (2176 * c.decks.length), phase := .running }

theorem corpusProgramAttach_joins (hf : c.flags % 4 = 2) (hs : s.attachStatus c = none) (hk : s.corpusFor c c.decks = .inr k) :
    corpusProgramAttach id s =
      (((s.setCorpus c.part k).setCmd (c.attaching s)).joinDecks (c.attaching s) c.decks [] true).fitService c.part := by
  unfold corpusProgramAttach
  rw [filter_admitted ha (by simp [hf, hp])]
  refine (if_neg (by simp [hm, hd])).trans ?_
  rw [hs, hk]
  rfl

end

end

/-! ## Decks that join (R303, R314) -/

section
variable {s : State} {c : Cmd} {k : Corpus} {decks tomb : List Nat} {last : Bool}

/-- The next deck of a command joins: its tables are written, and it follows those before it. -/
def joinNext (c : Cmd) (k : Corpus) (a : State × Corpus × List (Nat × Nat)) (d : Nat) : State × Corpus × List (Nat × Nat) :=
  (a.1.writeTables k (d, a.2.1.joinIndex d) (c.block (c.decks.idxOf d)),
    { a.2.1 with decks := a.2.1.decks ++ [(d, a.2.1.joinIndex d)] }, a.2.2 ++ [(d, a.2.1.joinIndex d)])

theorem foldl_joinNext {a : State × Corpus × List (Nat × Nat)} :
    (decks.foldl (joinNext c k) a).1.shell = a.1.shell ∧
    (∃ ds, (decks.foldl (joinNext c k) a).2.1 = { a.2.1 with decks := ds }) ∧
    (decks.foldl (joinNext c k) a).2.2.map (·.1) = a.2.2.map (·.1) ++ decks := by
  induction decks generalizing a with
  | nil => exact ⟨rfl, ⟨_, rfl⟩, (List.append_nil _).symm⟩
  | cons d l ih =>
    obtain ⟨shell, ⟨ds, corpus⟩, add⟩ := ih (a := joinNext c k a d)
    refine ⟨shell, ⟨ds, corpus⟩, add.trans ?_⟩
    simp [joinNext]

/-- A change that adds the decks waits for the next epoch, and they give up their places. -/
theorem joinDecks_adds (hk : s.corpus? c.part = some k) : ∃ (cores : SMap Core) (add : List (Nat × Nat)), add.map (·.1) = decks ∧
    s.joinDecks c decks tomb last = ({ s with cores := cores } : State).setCorpus c.part
      { k.unplace decks with changes := k.changes ++ [{ cmd := c.id, add := add, remove := [], tomb := tomb, last := last }] } := by
  obtain ⟨shell, ⟨ds, corpus⟩, add⟩ := foldl_joinNext (c := c) (k := k) (decks := decks) (a := (s, k, []))
  have joined : s.joinDecks c decks tomb last = (decks.foldl (joinNext c k) (s, k, [])).1.setCorpus c.part
      { (decks.foldl (joinNext c k) (s, k, [])).2.1.unplace decks with decks := k.decks, changes := k.changes ++
        [{ cmd := c.id, add := (decks.foldl (joinNext c k) (s, k, [])).2.2, remove := [], tomb := tomb, last := last }] } := by
    unfold State.joinDecks
    rw [hk]
    rfl
  refine ⟨(decks.foldl (joinNext c k) (s, k, [])).1.cores, _, add, joined.trans ?_⟩
  rw [corpus]
  exact congrArg (State.setCorpus · c.part _) (eq_of_shell shell)

end

/-- Settles O40: a NEW and a COMPACT by `ProgramBegun`, an attach by the change that `joinDecks_adds` gives, and the refusals. -/
theorem corpusProgramsStart : Obligations.CorpusProgramsStart := by
  refine fun s id c k ha hp hm hd hk => ⟨fun hf hs => ?_, fun st hf hs => ?_, fun k0 vs hf h0 hv hs => ?_, fun k0 hf h0 hv => ?_,
    fun hf hs => ?_, fun st hf hs => ?_⟩
  case refine_2 => exact congrArg Host.Outcome.next (corpusProgramNew_refused ha hp hm hd hf hs)
  case refine_4 => exact congrArg Host.Outcome.next (corpusProgramCompact_foreign ha hp hm hd hf h0 hv)
  case refine_6 => exact congrArg Host.Outcome.next (corpusProgramAttach_refused ha hp hm hd hf hs)
  case refine_1 =>
    have mine := id_of_admitted ha
    have begun := programVectors_begins (s := s) (c := c) (k := k) (vs := s.newVectors c) (by rw [mine, cmd?_of_admitted ha]; rfl)
    refine ⟨_, congrArg Host.Outcome.next (corpusProgramNew_begins ha hp hm hd hf hs hk), mine ▸ begun.running, begun.corpus, fun d hd => ?_,
      begun.streams, begun.time, begun.ids⟩
    exact ⟨(begun.given d hd).state, mine ▸ (begun.given d hd).programs, (begun.given d hd).colcheck⟩
  case refine_3 =>
    have mine := id_of_admitted ha
    have begun := corpusProgramCompact_begins ha hp hm hd hf h0 hv hs hk
    refine ⟨_, rfl, mine ▸ begun.running, begun.corpus, fun d hd => ?_, begun.streams, begun.time, begun.ids⟩
    exact ⟨(begun.given d hd).state, mine ▸ (begun.given d hd).programs⟩
  case refine_5 =>
    have mine := id_of_admitted ha
    have found : ((s.setCorpus c.part k).setCmd (c.attaching s)).cmd? id = some (c.attaching s) := by
      subst mine
      exact cmd?_setCmd (s := s.setCorpus c.part k) (c := c.attaching s) (Option.isSome_of_eq_some (cmd?_of_admitted ha))
    obtain ⟨cores, add, names, joined⟩ := joinDecks_adds (s := (s.setCorpus c.part k).setCmd (c.attaching s)) (c := c.attaching s)
      (decks := c.decks) (tomb := []) (last := true) corpus?_setCorpus
    have start := corpusProgramAttach_joins ha hp hm hd hf hs hk
    rw [joined] at start
    have shell := start.trans (eq_of_shell (congrArg Prod.fst fitService_shelved))
    refine ⟨_, _, congrArg Host.Outcome.next shell, corpus?_setCorpus, mine, names, rfl, rfl, rfl, ?_, rfl, rfl⟩
    exact congrArg (Option.map (·.phase)) found

end Sys2Proof.Machine
end

section
/-!
Pages, erase pulses, pump grants and wear snapshots (R98-R101, R105, R106); O49.
-/
namespace Sys2Proof.Machine

/-! ## One deck of one core -/

section
variable {s : State} {c : Core} {x : Deck} {i k st : Nat}

/-- A write of a deck into a core whose decks are as they were. -/
theorem deck_setCore_setDeck (h : c.decks = (s.core (i / 216)).decks) :
    (s.setCore (i / 216) (c.setDeck (i % 216) x)).deck k = if k = i then x else s.deck k := by
  have alike : (s.setCore (i / 216) (c.setDeck (i % 216) x)).deck k = (s.setDeck i x).deck k := by
    unfold State.setDeck State.modCore State.deck
    rw [State.core_setCore, State.core_setCore]
    split
    next => rw [Core.deck_setDeck, Core.deck_setDeck, Core.deck, h]; rfl
    next => rfl
  rw [alike, deck_setDeck]

theorem modCore_shell {n : Nat} {f : Core → Core} : (s.modCore n f).shell = s.shell := rfl

theorem setCore_shell {n : Nat} : (s.setCore n c).shell = s.shell := rfl

theorem dcmStore_decks {m : Mem} : (c.dcmStore m).decks = c.decks := rfl

/-- A stack has no refresh to serve when none of its decks is due. -/
theorem nextRefresh_eq_none : c.nextRefresh st = none ↔ ∀ p < 9, (c.deck (9 * st + p)).refreshDue = false := by
  have none_due : c.nextRefresh st = none ↔ ((List.range 9).map (9 * st + ·)).filter (fun i => (c.deck i).refreshDue) = [] := by
    unfold Core.nextRefresh
    extract_lets due
    change _ ↔ due = []
    cases due with
    | nil => simp
    | cons i l =>
      split
      · simp
      · simp
  simp [none_due]

/-- A deck that is due neither before nor after, or both, leaves a stack with none due as it was. -/
theorem nextRefresh_setDeck (hx : x.refreshDue = (c.deck k).refreshDue) (h : c.nextRefresh st = none) : (c.setDeck k x).nextRefresh st = none := by
  rw [nextRefresh_eq_none] at h ⊢
  intro p hp
  rw [Core.deck_setDeck]
  split
  next e => rw [hx, ← e, h p hp]
  next => exact h p hp

end

/-! ## The next page of a deck (R98) -/

section
variable {d : Deck} {j : ProgJob} {line : List Byte}

/-- The data cells of the next page, without its other bit-lines. -/
def Deck.pageLaid (d : Deck) (line : List Byte) : Deck :=
  if d.pages % 17 < 16 then
    { d with cells := d.cells.write (1024 * (d.pages / 17) + 64 * (d.pages % 17)) (d.pageBytes line (d.pages % 17)) } else d

/-- Beside the data cells a page writes redundant, reference and check bit-lines alone. -/
theorem writePage_keeps {γ : Type} (π : Deck → γ) (h : ∀ (d : Deck) a, π { d with aux := a } = π d) : π (d.writePage line) = π (d.pageLaid line) := by
  unfold Deck.writePage Deck.pageLaid
  refine (foldl_keeps π (fun _ _ => h _ _) _ _).trans ?_
  split
  · rfl
  · exact h _ _

theorem writePage_group (h : d.pages % 17 < 16) : (d.writePage line).state = d.state ∧ (d.writePage line).holdsGrant = d.holdsGrant ∧
    (d.writePage line).cells = d.cells.write (1024 * (d.pages / 17) + 64 * (d.pages % 17)) (d.pageBytes line (d.pages % 17)) := by
  have laid : d.pageLaid line = { d with cells := d.cells.write (1024 * (d.pages / 17) + 64 * (d.pages % 17)) (d.pageBytes line (d.pages % 17)) } :=
    if_pos h
  refine ⟨(writePage_keeps Deck.state fun _ _ => rfl).trans ?_, (writePage_keeps Deck.holdsGrant fun _ _ => rfl).trans ?_,
    (writePage_keeps Deck.cells fun _ _ => rfl).trans ?_⟩
  · rw [laid]
  · rw [laid]
  · rw [laid]

theorem getD_pageBytes {g k : Nat} (hg : g < 16) (hk : k < 64) : (d.pageBytes line g).getD k 0 = line.getD (64 * g + k) 0 := by
  unfold Deck.pageBytes
  rw [if_pos hg, List.getD_eq_getElem?_getD, List.getElem?_take_of_lt hk, List.getElem?_drop, ← List.getD_eq_getElem?_getD]

theorem lt_length_pageBytes {g k : Nat} (hg : g < 16) (hk : k < 64) (h : 64 * g + k < line.length) : k < (d.pageBytes line g).length := by
  unfold Deck.pageBytes
  rw [if_pos hg, List.length_take, List.length_drop]
  omega

theorem nextPage_group (h : d.pages % 17 < 16) : d.nextPage j line = { d.writePage line with pages := d.pages + 1 } := if_pos h

theorem nextPage_pages : (d.nextPage j line).pages = d.pages + 1 := by
  unfold Deck.nextPage
  extract_lets
  split
  · rfl
  · split <;> rfl

/-- The last control group of a deck makes it READY and gives its grant back. -/
theorem nextPage_last (h : d.pages = 17407) : (d.nextPage j line).state = .ready ∧ (d.nextPage j line).holdsGrant = false := by
  unfold Deck.nextPage
  extract_lets
  rw [if_neg (by omega), if_pos (by omega)]
  exact ⟨rfl, rfl⟩

end

/-! ## PAGE_PROGRAM (R99) -/

section
variable {s : State} {d : Deck} {i k e : Nat} {j : ProgJob} {line : List Byte} {run : RegionRun}

/-- A deck of the state after its next page; the last one leaves it verified. -/
def State.paged (s : State) (d : Deck) (j : ProgJob) (line : List Byte) : Deck :=
  { d.nextPage j line with verifiedAt := if d.pages = 17407 then some s.beat else d.verifiedAt }

theorem paged_group (h : d.pages % 17 < 16) : (s.paged d j line).state = d.state ∧ (s.paged d j line).holdsGrant = d.holdsGrant ∧
    (s.paged d j line).cells = d.cells.write (1024 * (d.pages / 17) + 64 * (d.pages % 17)) (d.pageBytes line (d.pages % 17)) := by
  obtain ⟨state, grant, cells⟩ := writePage_group (line := line) h
  rw [State.paged, nextPage_group h]
  exact ⟨state, grant, cells⟩

/-- The page is written, and its stack is busy until a cycle of the run. -/
def State.pageWritten (s : State) (i e : Nat) (d : Deck) : State :=
  (s.setCore (i / 216) ((s.core (i / 216)).hold (i % 216 / 9) e)).setDeck i d

theorem pageWritten_shell : (s.pageWritten i e d).shell = s.shell := modCore_shell.trans setCore_shell

theorem deck_pageWritten : (s.pageWritten i e d).deck k = if k = i then d else s.deck k := by
  unfold State.pageWritten
  rw [deck_setDeck, deck_setCore (c := (s.core (i / 216)).hold (i % 216 / 9) e) rfl]

section
variable (hup : s.coreUp (i / 216) = true) (hdip : s.power.dip = none) (hst : (s.deck i).state = .programming)
  (hgrant : (s.deck i).holdsGrant = true) (hjob : (s.deck i).job = some j) (htask : j.task = none)
  (hline : s.jobLine (i / 216) (i % 216) (s.deck i) j = some line) (hend : s.pumpEnd (i / 216) (i % 216 / 9) pageNs = some e)
  (hrun : (s.region (regionOf (i / 216))).run = some run) (hover : (s.deck i).overshoots line = false)
include hup hdip hst hgrant hjob htask hline hend hrun hover

/-- A page of a job of no task is written; the check table of a deck that it makes READY goes to a DCM. -/
theorem pageProgram_cases : ∃ f, pageProgram i true s = s.pageWritten i f (s.paged (s.deck i) j line) ∨
    ∃ a, pageProgram i true s = (s.pageWritten i f (s.paged (s.deck i) j line)).modCore (i / 216) fun c =>
      c.dcmStore (c.dcmView.write a (s.paged (s.deck i) j line).crcTable) := by
  have live : ¬(s.coreUp (i / 216) = false ∨ s.power.dip.isSome = true ∨ (s.deck i).state ≠ .programming ∨ (s.deck i).holdsGrant = false) := by
    simp [hup, hdip, hst, hgrant]
  refine ⟨if j.source.isSome then run.budget else e, ?_⟩
  unfold pageProgram
  unfold State.deck at live hjob hline hover
  extract_lets core k c d _
  rw [if_neg live]
  rw [show d.job = some j from hjob]
  dsimp -zeta only
  rw [show s.jobLine core k d j = some line from hline, show s.pumpEnd core (k / 9) pageNs = some e from hend,
    show (s.region (regionOf core)).run = some run from hrun]
  dsimp -zeta only
  extract_lets after _ d' written closed
  rw [if_neg (by simp [show d.overshoots line = false from hover])]
  have untasked : closed = written := by simp only [closed, htask]
  rw [untasked]
  split
  next dcm row _ _ => exact .inr ⟨dcmAddr dcm row, rfl⟩
  next => exact .inl rfl

/-- Only cores change, and of the decks only the one that is paged. -/
theorem pageProgram_decks : (pageProgram i true s).shell = s.shell ∧
    ∀ k, (pageProgram i true s).deck k = if k = i then s.paged (s.deck i) j line else s.deck k := by
  obtain ⟨f, e | ⟨a, e⟩⟩ := pageProgram_cases hup hdip hst hgrant hjob htask hline hend hrun hover
  · rw [e]
    exact ⟨pageWritten_shell, fun k => deck_pageWritten⟩
  · rw [e]
    exact ⟨modCore_shell.trans pageWritten_shell, fun k => (deck_modCore dcmStore_decks).trans deck_pageWritten⟩

end

end

/-! ## The erase of a deck (R100, R105, R106) -/

section
variable {s : State} {i k e f : Nat} {run : RegionRun}

theorem eraseRecord_eq : s.eraseRecord (i / 216) (i % 216) e =
    { s with cores := (s.eraseRecord (i / 216) (i % 216) e).cores, config := (s.eraseRecord (i / 216) (i % 216) e).config } := rfl

theorem deck_eraseRecord : (s.eraseRecord (i / 216) (i % 216) e).deck k = if k = i then { s.deck i with recorded := true } else s.deck k :=
  deck_setCore_setDeck (c := (s.core (i / 216)).hold (i % 216 / 9) e) rfl

theorem mem_eraseRecord : (i, (s.deck i).wear) ∈ (s.eraseRecord (i / 216) (i % 216) e).config.erases := by
  have here : 216 * (i / 216) + i % 216 = i := Nat.div_add_mod i 216
  have listed : (s.eraseRecord (i / 216) (i % 216) e).config.erases =
      s.config.erases.filter (fun x => x.1 != 216 * (i / 216) + i % 216) ++ [(216 * (i / 216) + i % 216, (s.deck i).wear)] := rfl
  rw [listed, here]
  simp

/-- A deck that has still to take pulses takes one. -/
def State.pulsed (s : State) (i e : Nat) : State :=
  s.setCore (i / 216) (((s.core (i / 216)).hold (i % 216 / 9) e).setDeck (i % 216) { s.deck i with pulses := (s.deck i).pulses - 1 })

theorem deck_pulsed : (s.pulsed i e).deck k = if k = i then { s.deck i with pulses := (s.deck i).pulses - 1 } else s.deck k :=
  deck_setCore_setDeck (c := (s.core (i / 216)).hold (i % 216 / 9) e) rfl

theorem erasePulseDone_middle (h : 1 < (s.deck i).pulses) : s.erasePulseDone (i / 216) (i % 216) e = s.pulsed i e :=
  if_neg (Nat.not_le.2 h)

theorem erasePulseDone_last (h : (s.deck i).pulses = 1) : s.erasePulseDone (i / 216) (i % 216) e = (s.pulsed i e).eraseEnd (i / 216) (i % 216) :=
  if_pos h.le

/-- The end of an erase that no token, no wear warning and no refresh follows. -/
theorem eraseEnd_quiet (ht : (s.deck i).eraseToken = none) (hw : (s.deck i).wear + 1 ≠ s.wearWarn)
    (hr : (s.core (i / 216)).nextRefresh (i % 216 / 9) = none) : s.eraseEnd (i / 216) (i % 216) = s.setDeck i (s.deck i).erased := by
  have undue : ((s.setDeck i (s.deck i).erased).core (i / 216)).nextRefresh (i % 216 / 9) = none := by
    rw [State.setDeck, State.core_modCore, if_pos rfl]
    exact nextRefresh_setDeck rfl hr
  unfold State.eraseEnd
  unfold State.deck at ht hw
  extract_lets d erased counted warned
  have token : counted = erased := by simp only [counted, show d.eraseToken = none from ht]
  have quiet : warned = erased := by simp only [warned, token]; exact if_neg hw
  rw [quiet]
  exact if_neg (by rw [show erased = s.setDeck i (s.deck i).erased from rfl, undue]; decide)

theorem erased_pulses {d : Deck} {n : Nat} : ({ d with pulses := n } : Deck).erased = d.erased := rfl

theorem wear_erased {d : Deck} (h : d.wear < 3000) : d.erased.wear = d.wear + 1 := by
  have stored : d.erased.wear = leNat (toLe 2 (d.wear + 1)) :=
    congrArg leNat (Mem.read_write (m := []) (a := 96) (o := 0) (n := 2) (bs := toLe 2 (d.wear + 1)) (by rw [length_toLe]))
  rw [stored, leNat_toLe]
  omega

/-! ## ERASE_PULSE (R100) -/

/-- What a run in which the erase may go on does: the record, where it is not written yet, and a pulse, as far as there is room. -/
def State.eraseGo (s : State) (i : Nat) : State :=
  match (s.deck i).recorded, s.pumpEnd (i / 216) (i % 216 / 9) pageNs,
    s.pumpEnd (i / 216) (i % 216 / 9) (if (s.deck i).recorded then pulseNs else pageNs + pulseNs) with
  | false, none, _ => s
  | false, some e, none => s.eraseRecord (i / 216) (i % 216) e
  | false, some _, some e => (s.eraseRecord (i / 216) (i % 216) e).erasePulseDone (i / 216) (i % 216) e
  | true, _, none => s
  | true, _, some e => s.erasePulseDone (i / 216) (i % 216) e

theorem eraseGo_records (hrec : (s.deck i).recorded = false) (hpage : s.pumpEnd (i / 216) (i % 216 / 9) pageNs = some e)
    (hpulse : s.pumpEnd (i / 216) (i % 216 / 9) (pageNs + pulseNs) = none) : s.eraseGo i = s.eraseRecord (i / 216) (i % 216) e := by
  simp [State.eraseGo, hrec, hpage, hpulse]

theorem eraseGo_begins (hrec : (s.deck i).recorded = false) (hpage : s.pumpEnd (i / 216) (i % 216 / 9) pageNs = some e)
    (hpulse : s.pumpEnd (i / 216) (i % 216 / 9) (pageNs + pulseNs) = some f) :
    s.eraseGo i = (s.eraseRecord (i / 216) (i % 216) f).erasePulseDone (i / 216) (i % 216) f := by
  simp [State.eraseGo, hrec, hpage, hpulse]

theorem eraseGo_pulses (hrec : (s.deck i).recorded = true) (hpulse : s.pumpEnd (i / 216) (i % 216 / 9) pulseNs = some e) :
    s.eraseGo i = s.erasePulseDone (i / 216) (i % 216) e := by
  simp [State.eraseGo, hrec, hpulse]

theorem erasePulse_goes (hup : s.coreUp (i / 216) = true) (hdip : s.power.dip = none) (hst : (s.deck i).state = .erasing)
    (hgrant : (s.deck i).holdsGrant = true) (hrun : (s.region (regionOf (i / 216))).run = some run) (hgo : s.eraseRun i run = true) :
    erasePulse i s = s.eraseGo i := by
  have live : ¬(s.coreUp (i / 216) = false ∨ s.power.dip.isSome = true ∨ (s.deck i).state ≠ .erasing ∨ (s.deck i).holdsGrant = false) := by
    simp [hup, hdip, hst, hgrant]
  unfold erasePulse
  extract_lets core k c d
  refine (if_neg live).trans ?_
  rw [show (s.region (regionOf core)).run = some run from hrun]
  exact if_neg (by simp [hgo])

/-- The last pulse of an erase that nothing follows leaves the deck erased. -/
theorem erasePulseDone_quiet (hn : (s.deck i).pulses = 1) (ht : (s.deck i).eraseToken = none) (hw : (s.deck i).wear + 1 ≠ s.wearWarn)
    (hr : (s.core (i / 216)).nextRefresh (i % 216 / 9) = none) :
    s.erasePulseDone (i / 216) (i % 216) e = (s.pulsed i e).setDeck i (s.deck i).erased := by
  have deck : (s.pulsed i e).deck i = { s.deck i with pulses := (s.deck i).pulses - 1 } := deck_pulsed.trans (if_pos rfl)
  have undue : ((s.pulsed i e).core (i / 216)).nextRefresh (i % 216 / 9) = none := by
    rw [State.pulsed, State.core_setCore, if_pos rfl]
    exact nextRefresh_setDeck (c := (s.core (i / 216)).hold (i % 216 / 9) e) rfl hr
  rw [erasePulseDone_last hn, eraseEnd_quiet (by rw [deck]; exact ht) (by rw [deck]; exact hw) undue, deck, erased_pulses]

end

/-! ## Pump grants and the wear snapshot (R101, R106) -/

section
variable {s : State} {i : Nat}

theorem pumpGrant_gives (hs : s.serving = true) (hg : s.grants.length < 1024) (hi : s.nextGrant = some i) :
    pumpGrant s = s.setDeck i { s.deck i with holdsGrant := true, queuedAt := none } := by
  unfold pumpGrant
  rw [if_neg (by simp [hs, hg]), hi]

theorem pumpGrant_idle (hs : s.serving = true) (hg : s.grants.length < 1024) (hi : s.nextGrant = none) : pumpGrant s = s := by
  unfold pumpGrant
  rw [if_neg (by simp [hs, hg]), hi]

theorem pumpGrant_full (h : 1024 ≤ s.grants.length) : pumpGrant s = s := if_pos (.inr h)

theorem snapWear_wear : s.snapWear.config.wear = s.wearCounts :=
  foldl_keeps Config.wear (g := fun (c : Config) r => c.put (s.wearRecord r)) (fun _ _ => rfl) _ { s.config with wear := s.wearCounts }

end

/-- Settles O49: a page by the deck that it leaves, a pulse by the cases of `State.eraseGo`, and grants and snapshots by their equations. -/
theorem pagesProgramAndErase : Obligations.PagesProgramAndErase := by
  refine fun s => ⟨fun i j line e run hup hdip hst hgrant hjob htask hline hend hrun hover => ?_,
    fun i run hup hdip hst hgrant hrun hgo => ⟨fun e hrec hpage hpulse => ?_, fun e f hrec hpage hpulse hn => ?_, fun e hrec hpulse hn => ?_,
      fun e hrec hpulse hn ht hw hlim hr => ?_⟩,
    fun i hs hg hi => congrArg Host.Outcome.next (pumpGrant_gives hs hg hi), fun hs hg hi => congrArg Host.Outcome.next (pumpGrant_idle hs hg hi),
    fun _ hg => congrArg Host.Outcome.next (pumpGrant_full hg),
    fun hs hb => ⟨_, congrArg Host.Outcome.next (if_pos ⟨hs, hb⟩), rfl, snapWear_wear⟩⟩
  · obtain ⟨shell, decks⟩ := pageProgram_decks hup hdip hst hgrant hjob htask hline hend hrun hover
    have mine := (decks i).trans (if_pos rfl)
    refine ⟨_, rfl, eq_of_shell shell, ?_, fun k hk hg hlen => ?_, fun hg => ?_, fun hp => ?_, fun k hk => (decks k).trans (if_neg hk)⟩
    · rw [mine]
      exact nextPage_pages
    · obtain ⟨-, -, cells⟩ := paged_group (s := s) (j := j) (line := line) hg
      have inside := lt_length_pageBytes (d := s.deck i) hg hk hlen
      rw [mine, cells, Mem.byte_write, if_pos ⟨Nat.le_add_right _ _, Nat.add_lt_add_left inside _⟩, Nat.add_sub_cancel_left, getD_pageBytes hg hk]
    · obtain ⟨state, grant, -⟩ := paged_group (s := s) (j := j) (line := line) hg
      rw [mine]
      exact ⟨state.trans hst, grant.trans hgrant⟩
    · rw [mine]
      exact nextPage_last hp
  · have done := (erasePulse_goes hup hdip hst hgrant hrun hgo).trans (eraseGo_records hrec hpage hpulse)
    exact ⟨_, congrArg Host.Outcome.next done, eraseRecord_eq, deck_eraseRecord.trans (if_pos rfl), mem_eraseRecord,
      fun k hk => deck_eraseRecord.trans (if_neg hk)⟩
  · have recorded : (s.eraseRecord (i / 216) (i % 216) f).deck i = { s.deck i with recorded := true } := deck_eraseRecord.trans (if_pos rfl)
    have done := (erasePulse_goes hup hdip hst hgrant hrun hgo).trans ((eraseGo_begins hrec hpage hpulse).trans
      (erasePulseDone_middle (by rw [recorded]; exact hn)))
    refine ⟨_, congrArg Host.Outcome.next done, rfl, ?_, mem_eraseRecord, fun k hk => ?_⟩
    · rw [deck_pulsed, if_pos rfl, recorded]
    · rw [deck_pulsed, if_neg hk, deck_eraseRecord, if_neg hk]
  · have done := (erasePulse_goes hup hdip hst hgrant hrun hgo).trans ((eraseGo_pulses hrec hpulse).trans (erasePulseDone_middle hn))
    exact ⟨_, congrArg Host.Outcome.next done, rfl, deck_pulsed.trans (if_pos rfl), fun k hk => deck_pulsed.trans (if_neg hk)⟩
  · have done := (erasePulse_goes hup hdip hst hgrant hrun hgo).trans ((eraseGo_pulses hrec hpulse).trans (erasePulseDone_quiet hn ht hw hr))
    have mine : ((s.pulsed i e).setDeck i (s.deck i).erased).deck i = (s.deck i).erased := State.deck_setDeck_same
    refine ⟨_, congrArg Host.Outcome.next done, rfl, mine, ?_, ?_, fun a => ?_, fun k hk => ?_⟩
    · rw [mine]
      rfl
    · rw [mine, wear_erased hlim]
    · rw [mine]
      rfl
    · rw [deck_setDeck_other hk, deck_pulsed, if_neg hk]

end Sys2Proof.Machine
end

section
/-!
Read-verify and refresh swaps (R113, R114, R152, R153), for O50.
-/
namespace Sys2Proof.Machine

/-! ## Read-verify (R113, R152) -/

/-- The state without its cores, hub registers and the number of its free values. -/
def State.unread (s : State) : State := { s with cores := [], hub := [], freeCtr := 0 }

section
variable {s t : State} {c : Core} {x : Deck} {i k o n : Nat} {rv : VerifyFind}

theorem eq_of_unread (h : t.unread = s.unread) : t = { s with cores := t.cores, hub := t.hub, freeCtr := t.freeCtr } := by
  have e := congrArg (fun u : State => ({ u with cores := t.cores, hub := t.hub, freeCtr := t.freeCtr } : State)) h
  exact e

theorem setDeck_unread : (s.setDeck i x).unread = s.unread := rfl

theorem hubInc_unread : (s.hubInc o k).unread = s.unread := rfl

theorem setCore_tookFree_unread : (s.setCore n c).tookFree.unread = s.unread := rfl

theorem deck_tookFree : s.tookFree.deck k = s.deck k := rfl

theorem hubWord_setCore_tookFree : (s.setCore n c).tookFree.hubWord o = s.hubWord o := rfl

theorem inc64_decks : (c.inc64 o n).decks = c.decks := rfl

theorem setStack_decks {y : Stack} : (c.setStack k y).decks = c.decks := rfl

/-- The trims of the columns that a read-verify sets leave every deck alone. -/
theorem trimColumns_cases : s.trimColumns i = s ∨ ∃ c, c.decks = (s.core (i / 216)).decks ∧ s.trimColumns i = (s.setCore (i / 216) c).tookFree := by
  unfold State.trimColumns
  extract_lets core c x
  split
  · exact .inl rfl
  · exact .inr ⟨_, setStack_decks.trans inc64_decks, rfl⟩

theorem trimColumns_unread : (s.trimColumns i).unread = s.unread := by
  obtain e | ⟨c, -, e⟩ := trimColumns_cases (s := s) (i := i)
  · rw [e]
  · rw [e, setCore_tookFree_unread]

theorem deck_trimColumns : (s.trimColumns i).deck k = s.deck k := by
  obtain e | ⟨c, decks, e⟩ := trimColumns_cases (s := s) (i := i)
  · rw [e]
  · rw [e, deck_tookFree, deck_setCore decks]

theorem hubWord_trimColumns : (s.trimColumns i).hubWord o = s.hubWord o := by
  obtain e | ⟨c, -, e⟩ := trimColumns_cases (s := s) (i := i)
  · rw [e]
  · rw [e, hubWord_setCore_tookFree]

/-- A deck that has been read, with the drift that was found. -/
def State.verified (s : State) (i : Nat) (rv : VerifyFind) : State :=
  ((s.setDeck i { s.deck i with drift := min 63 rv.drift, verifiedAt := some s.beat }).hubInc rBchCorrected rv.corrected).trimColumns i

theorem verified_unread : (s.verified i rv).unread = s.unread := trimColumns_unread.trans (hubInc_unread.trans setDeck_unread)

theorem deck_verified : (s.verified i rv).deck k =
    if k = i then { s.deck i with drift := min 63 rv.drift, verifiedAt := some s.beat } else s.deck k := by
  have counted (u : State) (o n : Nat) : (u.hubInc o n).deck k = u.deck k := rfl
  rw [State.verified, deck_trimColumns, counted, deck_setDeck]

theorem hubWord_verified : (s.verified i rv).hubWord o = if o = rBchCorrected then satAdd (s.hubWord rBchCorrected) rv.corrected else s.hubWord o := by
  have written (x : Deck) (q : Nat) : (s.setDeck i x).hubWord q = s.hubWord q := rfl
  rw [State.verified, hubWord_trimColumns, State.hubWord_hubInc, written, written]

theorem driftWindow_verified : (s.verified i rv).driftWindow = s.driftWindow := by
  have cfg : (s.verified i rv).hubWord rArrayCfg = s.hubWord rArrayCfg := hubWord_verified.trans (if_neg (by decide))
  unfold State.driftWindow
  rw [cfg]

theorem readVerify_notDue (h : s.verifyDue (s.deck i) = false) : readVerify i rv s = s := if_pos (.inr (.inr (.inl h)))

theorem readVerify_clean (hup : s.coreUp (i / 216) = true) (hm : s.inMaintenance (regionOf (i / 216)) = true) (hst : (s.deck i).state = .ready)
    (href : (s.deck i).refreshDue = false) (hdue : s.verifyDue (s.deck i) = true) (hunc : rv.uncorrectable = false) (hlines : rv.failedLines = [])
    (hfail : rv.deckFails = false) (hdrift : min 63 rv.drift ≤ s.driftWindow) (hworst : rv.worstRow ≤ 4) : readVerify i rv s = s.verified i rv := by
  have calm : ((s.verified i rv).deck i).refreshDue = false := by rw [deck_verified, if_pos rfl]; exact href
  have within : ¬(s.verified i rv).driftWindow < min 63 rv.drift := by rw [driftWindow_verified]; omega
  have go : ¬(s.coreUp (i / 216) = false ∨ s.inMaintenance (regionOf (i / 216)) = false ∨ s.verifyDue (s.deck i) = false
      ∨ ((s.deck i).state ≠ .ready ∧ (((s.core (i / 216)).logicalAt (i % 216) == none && decide ((s.deck i).state ≠ .ready)) = false
        ∨ s.firstPass (regionOf (i / 216)) = true))) := by simp [hup, hm, hdue, hst]
  unfold readVerify
  extract_lets core d spare read noted counted logical patched standing due
  have other : spare = false := by simp [spare, show d.state = .ready from hst]
  refine (if_neg go).trans ?_
  rw [if_neg (by simp [other])]
  have corrected : counted = s.verified i rv := if_neg (by simp [hunc])
  have unpatched : patched = counted := by simp [patched, hlines]
  have standing_ : standing = patched := if_neg (by simp [hfail])
  have left : standing = s.verified i rv := standing_.trans (unpatched.trans corrected)
  have undue : due = false := by
    simp only [due]
    rw [left]
    simp [within, hworst]
  rw [undue, left, if_neg (by rw [calm]; decide)]
  exact if_neg (by decide)

end

/-! ## Refresh swaps (R114, R153) -/

section
variable {s t : State} {i k q n o core st : Nat}

theorem hubWord_serveRefreshIf (h : besideEvents 18 o) : (s.serveRefreshIf core st).hubWord o = s.hubWord o := by
  unfold State.serveRefreshIf
  split
  · unfold State.serveRefresh
    dsimp only
    split
    · rfl
    · exact hubWord_reportOnly h
    · split
      · rfl
      · split <;> rfl
  · rfl

theorem stack_of_besideDecks (h : t.besideDecks = s.besideDecks) : (t.core n).stack st = (s.core n).stack st :=
  congrArg (fun a : State × (Nat → Core) => (a.2 n).stack st) h

/-- The trim of a filled deck moves no deck of the stack. -/
theorem places_trimDeck : (((s.trimDeck n q).core n).stack st).pos = ((s.core n).stack st).pos ∧
    (((s.trimDeck n q).core n).stack st).spare = ((s.core n).stack st).spare := by
  have trimmed (c : Core) (d : Deck) (x : Stack) (hx : x.pos = (c.stack (q / 9)).pos ∧ x.spare = (c.stack (q / 9)).spare) :
      (((c.setDeck q d).setStack (q / 9) x).stack st).pos = (c.stack st).pos ∧
        (((c.setDeck q d).setStack (q / 9) x).stack st).spare = (c.stack st).spare := by
    rw [Core.stack_setStack]
    split
    next e => exact e ▸ hx
    next => exact ⟨rfl, rfl⟩
  have core (u : State) (f : Core → Core) : (u.modCore n f).tookFree.core n = f (u.core n) := State.core_modCore.trans (if_pos rfl)
  rw [State.trimDeck, core]
  exact trimmed _ _ _ ⟨rfl, rfl⟩

theorem standIn_trimDeck : ((s.trimDeck (i / 216) q).deck i).standIn = (s.deck i).standIn := by
  have core (u : State) (f : Core → Core) : (u.modCore (i / 216) f).tookFree.deck i = (f (u.core (i / 216))).deck (i % 216) :=
    congrArg (Core.deck · (i % 216)) (State.core_modCore.trans (if_pos rfl))
  have stacked (c : Core) (m : Nat) (x : Stack) : (c.setStack m x).deck (i % 216) = c.deck (i % 216) := rfl
  rw [State.trimDeck, core, stacked, Core.deck_setDeck]
  split
  next e => rw [← e]; rfl
  next => rfl

/-- A refreshed deck of a core moves, and neither position has anything of the refresh left. -/
def Core.swapped (c : Core) (k q : Nat) : Core :=
  let c := c.setStack (k / 9) ((c.stack (k / 9)).swap (k % 9) (q % 9))
  let c := c.setDeck q { c.deck q with copyDone := false, job := none }
  c.setDeck k { c.deck k with refreshDue := false, standIn := false }

theorem stack_swapped {c : Core} : (c.swapped k q).stack (k / 9) = (c.stack (k / 9)).swap (k % 9) (q % 9) :=
  Core.stack_setStack.trans (if_pos rfl)

/-- The swap is done, counted and recorded. -/
def State.swapDone (s : State) (i q : Nat) : State :=
  let s := s.modCore (i / 216) fun c => c.swapped (i % 216) q
  ((s.hubInc rRefreshCount 1).setHub rRefreshPending (s.hubWord rRefreshPending - 1)).putSwaps (regionOf (i / 216))

theorem stack_swapDone : ((s.swapDone i q).core (i / 216)).stack (i % 216 / 9) =
    ((s.core (i / 216)).stack (i % 216 / 9)).swap (i % 216 % 9) (q % 9) := by
  have core (u : State) (v w : Word) (r : Nat) : (((u.setHub rRefreshCount v).setHub rRefreshPending w).putSwaps r).core (i / 216) = u.core (i / 216) := rfl
  rw [State.swapDone, State.hubInc, core, State.core_modCore, if_pos rfl, stack_swapped]

theorem hubWord_swapDone : (s.swapDone i q).hubWord rRefreshCount = satAdd (s.hubWord rRefreshCount) 1 := by
  have recorded (u : State) (r : Nat) : (u.putSwaps r).hubWord rRefreshCount = u.hubWord rRefreshCount := rfl
  rw [State.swapDone, recorded, State.hubWord_setHub, if_neg (by decide), State.hubWord_hubInc, if_pos rfl]
  rfl

theorem swapDone_outline : (s.swapDone i q).outline = s.outline := by
  have recorded (u : State) (r : Nat) : (u.putSwaps r).outline = u.outline := rfl
  rw [State.swapDone, recorded, setHub_outline, hubInc_outline, modCore_outline]

theorem refreshSwap_swaps (hup : s.coreUp (i / 216) = true) (hq : (s.core (i / 216)).refreshInto (i % 216) = some q)
    (hcopy : ((s.core (i / 216)).deck q).copyDone = true) (hstand : (s.deck i).standIn = false) :
    refreshSwap i s = (((s.trimDeck (i / 216) q).advanceTo s.nextBoundary).swapDone i q).serveRefreshIf (i / 216) (i % 216 / 9) := by
  have was : (((s.trimDeck (i / 216) q).advanceTo s.nextBoundary).deck i).standIn = false := standIn_trimDeck.trans hstand
  have moved (c : Core) : (if (((s.trimDeck (i / 216) q).advanceTo s.nextBoundary).deck i).standIn then { c with standInDeck := none } else c) = c :=
    if_neg (by rw [was]; decide)
  unfold refreshSwap
  extract_lets core k
  rw [if_neg (by rw [hup]; decide), hq]
  refine (if_neg (by rw [hcopy]; decide)).trans ?_
  extract_lets begun old swapped counted recorded kept
  have swaps : swapped = begun.modCore (i / 216) fun c => c.swapped (i % 216) q :=
    congrArg (begun.modCore (i / 216)) (funext fun c => moved _)
  have stays : kept = recorded := if_neg (by rw [show old.standIn = false from was]; decide)
  rw [stays]
  simp only [recorded, counted, swaps]
  rfl

end

end Sys2Proof.Machine
end

section
/-!
Compactions, re-trims, the end of a rebuild and the loss of the pump rail (R122, R150, R187, R188, R376); O50.
-/
namespace Sys2Proof.Machine

/-! ## Compaction (R122) -/

/-- A map of records holds one of a kind with the contents, number and digest of a record, wherever it lies. -/
def HoldsCopy (m : SMap CfgRecord) (e : Nat × CfgRecord) : Prop :=
  ∃ f, (e.1, f) ∈ m ∧ f.data = e.2.data ∧ f.seq = e.2.seq ∧ f.digest = e.2.digest

/-- A record of deck p moves to the next line of another deck; one of another deck stays. -/
def moveRecord (p spare : Nat) (a : SMap CfgRecord × Nat) (e : Nat × CfgRecord) : SMap CfgRecord × Nat :=
  if e.2.deck = p then (a.1 ++ [(e.1, { e.2 with deck := spare, line := a.2 })], a.2 + e.2.lines) else (a.1 ++ [e], a.2)

section
variable {p spare : Nat} {e x : Nat × CfgRecord} {a : SMap CfgRecord × Nat} {l : SMap CfgRecord}

theorem holdsCopy_moveRecord (h : HoldsCopy a.1 e ∨ x = e) : HoldsCopy (moveRecord p spare a x).1 e := by
  unfold moveRecord
  obtain ⟨f, hf, same⟩ | rfl := h
  · split
    · exact ⟨f, List.mem_append_left _ hf, same⟩
    · exact ⟨f, List.mem_append_left _ hf, same⟩
  · split
    · exact ⟨_, List.mem_append_right _ (List.mem_singleton.2 rfl), rfl, rfl, rfl⟩
    · exact ⟨_, List.mem_append_right _ (List.mem_singleton.2 rfl), rfl, rfl, rfl⟩

theorem holdsCopy_foldl (h : HoldsCopy a.1 e ∨ e ∈ l) : HoldsCopy (l.foldl (moveRecord p spare) a).1 e := by
  induction l generalizing a with
  | nil => exact h.resolve_right (by simp)
  | cons y l ih =>
    refine ih ?_
    obtain h | h := h
    · exact .inl (holdsCopy_moveRecord (.inl h))
    · exact (List.mem_cons.1 h).imp_left fun e => holdsCopy_moveRecord (.inr e.symm)

/-- A compaction loses no record. -/
theorem holdsCopy_compact {y : CfgStack} (h : e ∈ y.records) : HoldsCopy (y.compact p).records e :=
  holdsCopy_foldl (a := ([], 0)) (.inr h)

theorem flush_idle {y : CfgStack} (h : y.waiting = []) : y.flush.records = y.records := by
  unfold CfgStack.flush
  rw [h]
  rfl

theorem compact_waiting {y : CfgStack} : (y.compact p).waiting = y.waiting := rfl

end

section
variable {s : State} {c : Config} {r p : Nat}

theorem configStackCompaction_works (hs : s.serving = true) (hm : s.maintains r = true) (hg : s.grants.length < 1024) :
    configStackCompaction r s = { s with config := s.liveErases.compact r } :=
  if_neg (by simp [hs, hm, hg])

theorem compact_none (h : (c.cfgStacks.getD r CfgStack.init).canCompact = none) : c.compact r = c := by
  unfold Config.compact
  dsimp only
  rw [h]

theorem compact_some (h : (c.cfgStacks.getD r CfgStack.init).canCompact = some p) : c.compact r =
    { c with cfgStacks := c.cfgStacks.set r ((c.cfgStacks.getD r CfgStack.init).compact p).flush,
             compactions := c.compactions.set r (c.compactions.getD r 0 + 1) } := by
  unfold Config.compact
  dsimp only
  rw [h]

theorem getD_set_self {α : Type} {l : List α} {a d : α} (h : r < l.length) : (l.set r a).getD r d = a := by
  simp [List.getD, h]

theorem length_liveErases : s.liveErases.cfgStacks.length = s.config.cfgStacks.length := List.length_map _

end

/-! ## Re-trims (R150) -/

section
variable {s : State} {core st n k v stop left : Nat} {rt : RetrimFind} {run : RegionRun}

/-- What a re-trim of a stack still needs at a point, with the stack busy until a cycle of the run. -/
def State.retrimming (s : State) (core st v left stop : Nat) : State :=
  s.modCore core fun c => (c.hold st stop).setStack st { c.stack st with retrim := some (v, left) }

theorem stack_retrimming : ((s.retrimming core st v left stop).core core).stack st =
    { (s.core core).stack st with retrim := some (v, left) } := by
  rw [State.retrimming, State.core_modCore, if_pos rfl, Core.stack_setStack, if_pos rfl]

theorem decks_retrimming : ((s.retrimming core st v left stop).core core).decks = (s.core core).decks := by
  rw [State.retrimming, State.core_modCore, if_pos rfl]
  rfl

theorem core_retrimming (h : k ≠ core) : (s.retrimming core st v left stop).core k = s.core k := by
  rw [State.retrimming, State.core_modCore, if_neg h]

theorem retrimming_shell : (s.retrimming core st v left stop).shell = s.shell := modCore_shell

theorem fullRetrim_idle (h : s.retrimLeft core st = none) : fullRetrim core st rt s = s := by
  unfold fullRetrim
  extract_lets r
  rw [h]
  exact ite_self _

/-- The cycle of the run from which a re-trim of a stack can go on. -/
def State.retrimFrom (s : State) (core st : Nat) (run : RegionRun) : Nat := max (s.runElapsed (regionOf core) run) (sget 0 (s.core core).busy st)

section
variable (hup : s.coreUp core = true) (hm : s.maintains (regionOf core) = true) (hl : s.retrimLeft core st = some n)
  (hrun : (s.region (regionOf core)).run = some run)
include hup hm hl hrun

theorem fullRetrim_goes (hk : min n (run.budget - s.retrimFrom core st run) = k) : fullRetrim core st rt s = if k = 0 then s else
    if k = n then (s.retrimming core st (s.region (regionOf core)).point (n - k) (s.retrimFrom core st run + k)).retrimEnd core st rt
    else s.retrimming core st (s.region (regionOf core)).point (n - k) (s.retrimFrom core st run + k) := by
  subst hk
  unfold fullRetrim
  extract_lets r
  rw [if_neg (by simp [r, hup, hm]), hl, show (s.region r).run = some run from hrun]
  rfl

end

/-- The trim that the end of a re-trim gives a stack. -/
def State.newTrim (s : State) (core st : Nat) : Trim := { beat := s.beat, temp := s.stackTemp core st, resid := 0, seed := some s.freeCtr }

/-- A core counts the operations of a re-trim, and its stack has the new trim at a point. -/
def Core.retrimmed (c : Core) (st v : Nat) (t : Trim) : Core :=
  (((c.inc64 cCrOps 576).inc64 cPwOps 576).inc64 cPwtOps 576).setStack st { (c.stack st).setTrim v t with retrim := none }

theorem stack_retrimmed {c : Core} {t : Trim} : (c.retrimmed st v t).stack st = { (c.stack st).setTrim v t with retrim := none } :=
  Core.stack_setStack.trans (if_pos rfl)

theorem decks_retrimmed {c : Core} {t : Trim} : (c.retrimmed st v t).decks = c.decks :=
  setStack_decks.trans (inc64_decks.trans (inc64_decks.trans inc64_decks))

theorem retrimEnd_clean (hlines : rt.failedLines = []) (hbank : rt.bankFails = false) : s.retrimEnd core st rt =
    (s.modCore core fun c => c.retrimmed st (s.region (regionOf core)).point (s.newTrim core st)).tookFree := by
  unfold State.retrimEnd
  extract_lets v t trimmed patched
  have left : patched = trimmed := by simp only [patched, hlines, List.foldl_nil]
  rw [left, if_neg (by rw [hbank]; decide)]
  rfl

theorem newTrim_of_shell {t : State} (h : t.shell = s.shell) : t.newTrim core st = s.newTrim core st :=
  (congrArg (State.newTrim · core st) h :)

theorem core_tookFree : s.tookFree.core k = s.core k := rfl

theorem eq_tookFree_of_shell {t : State} (h : t.shell = s.shell) :
    t.tookFree = { s with cores := t.tookFree.cores, freeCtr := t.tookFree.freeCtr } := by
  have e := congrArg (fun u : State => ({ u with cores := t.tookFree.cores, freeCtr := t.tookFree.freeCtr } : State)) h
  exact e

/-- The state after the last cycle of a re-trim. -/
def State.retrimDone (s : State) (core st v stop : Nat) : State :=
  ((s.retrimming core st v 0 stop).modCore core fun c => c.retrimmed st v (s.newTrim core st)).tookFree

theorem core_retrimDone : (s.retrimDone core st v stop).core core =
    ((s.retrimming core st v 0 stop).core core).retrimmed st v (s.newTrim core st) := by
  rw [State.retrimDone, core_tookFree, State.core_modCore, if_pos rfl]

theorem stack_retrimDone : ((s.retrimDone core st v stop).core core).stack st =
    { ((s.core core).stack st).setTrim v (s.newTrim core st) with retrim := none } := by
  rw [core_retrimDone, stack_retrimmed, stack_retrimming]
  rfl

theorem trim_retrimDone : (((s.retrimDone core st v stop).core core).stack st).trim v = s.newTrim core st := by
  rw [stack_retrimDone]
  exact sget_sput.trans (if_pos rfl)

theorem decks_retrimDone : ((s.retrimDone core st v stop).core core).decks = (s.core core).decks := by
  rw [core_retrimDone, decks_retrimmed, decks_retrimming]

theorem core_retrimDone_other (h : k ≠ core) : (s.retrimDone core st v stop).core k = s.core k := by
  rw [State.retrimDone, core_tookFree, State.core_modCore, if_neg h, core_retrimming h]

theorem retrimDone_eq : s.retrimDone core st v stop =
    { s with cores := (s.retrimDone core st v stop).cores, freeCtr := (s.retrimDone core st v stop).freeCtr } :=
  eq_tookFree_of_shell (modCore_shell.trans retrimming_shell)

section
variable (hup : s.coreUp core = true) (hm : s.maintains (regionOf core) = true) (hl : s.retrimLeft core st = some n)
  (hrun : (s.region (regionOf core)).run = some run)
include hup hm hl hrun

theorem fullRetrim_ends (h0 : 0 < n) (hn : n ≤ run.budget - s.retrimFrom core st run) (hlines : rt.failedLines = []) (hbank : rt.bankFails = false) :
    fullRetrim core st rt s = s.retrimDone core st (s.region (regionOf core)).point (s.retrimFrom core st run + n) := by
  rw [fullRetrim_goes hup hm hl hrun (Nat.min_eq_left hn), if_neg h0.ne', if_pos rfl, retrimEnd_clean hlines hbank, newTrim_of_shell retrimming_shell,
    Nat.sub_self]
  rfl

theorem fullRetrim_goesOn (h0 : 0 < run.budget - s.retrimFrom core st run) (hn : run.budget - s.retrimFrom core st run < n) :
    fullRetrim core st rt s = s.retrimming core st (s.region (regionOf core)).point (n - (run.budget - s.retrimFrom core st run))
      (s.retrimFrom core st run + (run.budget - s.retrimFrom core st run)) := by
  rw [fullRetrim_goes hup hm hl hrun (Nat.min_eq_right hn.le), if_neg h0.ne', if_neg hn.ne]

theorem fullRetrim_waits (h0 : run.budget - s.retrimFrom core st run = 0) : fullRetrim core st rt s = s :=
  (fullRetrim_goes hup hm hl hrun (by rw [h0, Nat.min_zero])).trans (if_pos rfl)

end

end

/-! ## The end of a rebuild (R187, R188) -/

section
variable {c : Core} {l r : Nat}

theorem restoreDcm_keeps {γ : Type} (π : Core → γ) (h : ∀ (c : Core) d p, π { c with dcm := d, parity := p } = π c) : π (c.restoreDcm l r) = π c := by
  unfold Core.restoreDcm
  extract_lets data cleared
  have kept : π cleared = π c := by
    simp only [cleared]
    split
    · rfl
    · exact h _ _ _
  split
  · exact (h cleared _ cleared.parity).trans kept
  · exact (h cleared cleared.dcm _).trans kept

/-- The contents of a lost DCM are restored, the reserve's position serves its number, and the reserve's own number is gone. -/
def Core.reserveServes (c : Core) (l r : Nat) : Core :=
  ((c.restoreDcm l r).setDcmInfo l
    { c.dcmInfo r with lost := false, queued := false, gone := false, position := some (c.dcmPos r), deadFrom := (c.dcmInfo l).deadFrom }).setDcmInfo
    r { Dcm.init with gone := true }

theorem reserveServes_lost (h : l ≠ r) : (c.reserveServes l r).dcmInfo l =
    { c.dcmInfo r with lost := false, queued := false, gone := false, position := some (c.dcmPos r), deadFrom := (c.dcmInfo l).deadFrom } := by
  rw [Core.reserveServes, Core.dcmInfo_setDcmInfo, if_neg h, Core.dcmInfo_setDcmInfo, if_pos rfl]

theorem reserveServes_reserve : (c.reserveServes l r).dcmInfo r = { Dcm.init with gone := true } :=
  Core.dcmInfo_setDcmInfo.trans (if_pos rfl)

theorem reserveServes_keeps {γ : Type} (π : Core → γ) (h : ∀ (c : Core) d p, π { c with dcm := d, parity := p } = π c)
    (hi : ∀ (c : Core) n x, π (c.setDcmInfo n x) = π c) : π (c.reserveServes l r) = π c :=
  (hi _ _ _).trans ((hi _ _ _).trans (restoreDcm_keeps π h))

theorem startRebuild_eq : ∃ b, c.startRebuild l = { c with rebuild := b } := by
  unfold Core.startRebuild
  split
  · exact ⟨_, rfl⟩
  · exact ⟨c.rebuild, rfl⟩

end

section
variable {s : State} {core : Nat} {b : Rebuild}

/-- Beside its report the end of a rebuild leaves the slice so, with the next rebuild begun or none in progress. -/
theorem core_rebuildComplete (hup : s.coreUp core = true) (hb : (s.core core).rebuild = some b) (hne : b.lost ≠ b.target) :
    ∃ next retired, (rebuildComplete core s).core core = { (s.core core).reserveServes b.lost b.target with
      reserves := ((s.core core).reserveServes b.lost b.target).reserves.set (dcmTier b.lost) none,
      consumed := ((s.core core).reserveServes b.lost b.target).consumed ++ [b.target], rebuild := next, retired := retired } := by
  have reported (u : State) (region src inst : Nat) (x : Repair) : ((u.addRepair region x).severeEnd src inst).core core = u.core core :=
    (congrArg (State.core · core) (severeEnd_unreported.trans addRepair_unreported) :)
  unfold rebuildComplete
  extract_lets c
  rw [show c.rebuild = some b from hb]
  dsimp -zeta only
  rw [if_neg (by rw [hup]; decide)]
  extract_lets l r failed old restored _ served gone ended next written
  rw [reported, State.core_setCore, if_pos rfl]
  have given : gone = c.reserveServes l r := if_neg hne
  have begun : ∃ b, next = { ended with rebuild := b } := by
    simp only [next]
    split
    · exact startRebuild_eq
    · exact ⟨none, rfl⟩
  obtain ⟨b', hb'⟩ := begun
  refine ⟨b', ended.retired, hb'.trans ?_⟩
  simp only [ended, given]
  rfl

end

/-! ## The loss of the pump rail (R104, R376) -/

/-- No deck holds a pump grant. -/
def State.grantless (s : State) : Prop := ∀ n k, ((s.core n).deck k).holdsGrant = false

section
variable {s t : State} {n k core st : Nat} {on : Nat → Bool} {x : Deck}

theorem holdsGrant_cut {d : Deck} {recorded : Option Nat} {reset : Bool} : (d.cut recorded reset).holdsGrant = false := by
  have scanned (d : Deck) : d.scanned.holdsGrant = d.holdsGrant := by
    unfold Deck.scanned
    split
    · rfl
    · split <;> rfl
  have rescan : (d.rescan recorded).holdsGrant = false := by
    unfold Deck.rescan
    split
    · rfl
    · exact scanned d.idle
  unfold Deck.cut
  split
  · exact rescan
  · exact rescan
  · split
    · exact rescan
    · rfl
  · rfl

theorem grantless_cutDecks {reset : Bool} : (s.cutDecks (fun _ => true) reset).grantless := by
  intro n k
  refine sget_of_forall (P := fun c : Core => (c.deck k).holdsGrant = false) rfl (fun e he => ?_) n
  obtain ⟨e, -, rfl⟩ := List.mem_map.1 (List.mem_filter.1 he).1
  refine sget_of_forall (P := fun d : Deck => d.holdsGrant = false) rfl (fun d hd => ?_) k
  obtain ⟨d, -, rfl⟩ := List.mem_map.1 (List.mem_filter.1 hd).1
  exact holdsGrant_cut

theorem grantless_setDeck {c : Core} (h : s.grantless) (hc : c = s.core n) (hx : x.holdsGrant = false) : (s.setCore n (c.setDeck k x)).grantless := by
  intro m j
  rw [State.core_setCore]
  split
  next =>
    rw [Core.deck_setDeck, hc]
    split
    · exact hx
    · exact h n j
  next => exact h m j

theorem grantless_of_besideCounts (h : t.besideCounts = s.besideCounts) (hs : s.grantless) : t.grantless := fun n k =>
  (congrArg (fun a : State × (Nat → Core) => ((a.2 n).deck k).holdsGrant) h).trans (hs n k)

theorem holdsGrant_startErase {d : Deck} {beat : Nat} : (d.startErase beat).holdsGrant = false := by
  unfold Deck.startErase
  split <;> rfl

/-- A refresh asks for a grant and takes none. -/
theorem grantless_serveRefresh (h : s.grantless) : (s.serveRefresh core st).grantless := by
  unfold State.serveRefresh
  extract_lets c
  split
  · exact h
  · exact grantless_of_besideCounts (reportOnly_besideCounts (by decide)) h
  · extract_lets d
    split
    · exact h
    · split
      · exact grantless_setDeck h rfl (h _ _)
      · exact grantless_setDeck h rfl holdsGrant_startErase
      · exact grantless_setDeck h rfl holdsGrant_startErase
      · exact h

theorem grantless_serveRefreshIf (h : s.grantless) : (s.serveRefreshIf core st).grantless := by
  unfold State.serveRefreshIf
  split
  · exact grantless_serveRefresh h
  · exact h

theorem grantless_resumeRefresh (h : s.grantless) : (s.resumeRefresh on).grantless := by
  unfold State.resumeRefresh
  refine List.foldlRecOn _ _ h fun u hu n _ => ?_
  exact List.foldlRecOn _ _ hu fun v hv st _ => grantless_serveRefreshIf hv

theorem resumeRefresh_outline : (s.resumeRefresh on).outline = s.outline := by
  refine foldl_keeps State.outline (fun u n => ?_) _ s
  exact foldl_keeps State.outline (fun v st => congrArg Prod.fst serveRefreshIf_besideDecks) _ u

theorem failTileJobs_outline : (s.failTileJobs core).outline = s.outline := by
  have tasked (u : State) (t : Nat) (f : Task → Task) : (u.modTask core t f).outline = u.outline := modCore_outline
  refine foldl_keeps State.outline (fun u e => ?_) _ s
  extract_lets failed
  have kept : failed.outline = u.outline := by
    simp only [failed]
    split
    · split
      · exact tasked _ _ _
      · rfl
    · rfl
  split
  · exact (tasked _ _ _).trans kept
  · exact kept

theorem ids_failDeckCmds {status : Nat} : (s.failDeckCmds on status).cmds.map (·.id) = s.cmds.map (·.id) := by
  unfold State.failDeckCmds
  rw [List.map_map]
  refine List.map_congr_left fun c _ => ?_
  rw [Function.comp_apply]
  split <;> rfl

theorem vddHvLoss_alive (h : s.dead = false) : vddHvLoss s = ((((s.failDeckCmds (fun _ => true) stProgramFail).cores.map (·.1)).foldl
    State.failTileJobs (s.failDeckCmds (fun _ => true) stProgramFail)).cutAndCount (fun _ => true) false).resumeRefresh fun _ => true :=
  if_neg (by rw [h]; decide)

theorem cutAndCount_outline {reset : Bool} : (s.cutAndCount on reset).outline = s.outline := by
  have cut (u : State) (f : Nat → Core → Core) : (u.mapCores f).outline = u.outline := rfl
  exact hubInc_outline.trans (cut s _)

/-- Beside cores and reports a loss of the pump rail leaves all but the commands that it ends. -/
theorem vddHvLoss_outline (h : s.dead = false) : (vddHvLoss s).outline = (s.failDeckCmds (fun _ => true) stProgramFail).outline := by
  rw [vddHvLoss_alive h, resumeRefresh_outline, cutAndCount_outline]
  exact foldl_keeps State.outline (fun _ _ => failTileJobs_outline) _ _

theorem grantless_vddHvLoss (h : s.dead = false) : (vddHvLoss s).grantless := by
  have counted (u : State) (o m : Nat) (hu : u.grantless) : (u.hubInc o m).grantless := hu
  rw [vddHvLoss_alive h]
  exact grantless_resumeRefresh (counted _ _ _ grantless_cutDecks)

end

/-! ## The statement -/

section
variable {s : State}

theorem refreshSwap_moves {i q : Nat} (h : refreshSwap i s =
      (((s.trimDeck (i / 216) q).advanceTo s.nextBoundary).swapDone i q).serveRefreshIf (i / 216) (i % 216 / 9)) :
    (refreshSwap i s).time = (s.advanceTo s.nextBoundary).time ∧
      (((refreshSwap i s).core (i / 216)).stack (i % 216 / 9)).pos = (((s.core (i / 216)).stack (i % 216 / 9)).swap (i % 216 % 9) (q % 9)).pos ∧
      (((refreshSwap i s).core (i / 216)).stack (i % 216 / 9)).spare = (((s.core (i / 216)).stack (i % 216 / 9)).swap (i % 216 % 9) (q % 9)).spare ∧
      (refreshSwap i s).hubWord rRefreshCount = satAdd (s.hubWord rRefreshCount) 1 ∧ (refreshSwap i s).cmds = s.cmds ∧
      (refreshSwap i s).streams = s.streams := by
  have served := serveRefreshIf_besideDecks (s := ((s.trimDeck (i / 216) q).advanceTo s.nextBoundary).swapDone i q) (core := i / 216)
    (st := i % 216 / 9)
  obtain ⟨time, cmds, streams, -⟩ := fields_of_outline ((congrArg Prod.fst served).trans swapDone_outline)
  have stack : ((refreshSwap i s).core (i / 216)).stack (i % 216 / 9) =
      (((s.trimDeck (i / 216) q).core (i / 216)).stack (i % 216 / 9)).swap (i % 216 % 9) (q % 9) := by
    rw [h]
    exact (stack_of_besideDecks served).trans stack_swapDone
  obtain ⟨pos, spare⟩ := places_trimDeck (s := s) (n := i / 216) (q := q) (st := i % 216 / 9)
  refine ⟨?_, ?_, ?_, ?_, ?_, ?_⟩
  · rw [h]
    exact time
  · rw [stack, Stack.swap, Stack.swap, pos]
  · rw [stack, Stack.swap, Stack.swap, spare]
  · rw [h, hubWord_serveRefreshIf (by unfold besideEvents; decide), hubWord_swapDone]
    rfl
  · rw [h]
    exact cmds
  · rw [h]
    exact streams

theorem compaction_keeps {r p : Nat} (hx : (s.liveErases.cfgStacks.getD r CfgStack.init).canCompact = some p) (hr : r < s.config.cfgStacks.length)
    (hc : r < s.config.compactions.length) : (s.liveErases.compact r).repairs = s.config.repairs ∧ (s.liveErases.compact r).wear = s.config.wear ∧
      (s.liveErases.compact r).compactions.getD r 0 = s.config.compactions.getD r 0 + 1 ∧
      ((s.liveErases.cfgStacks.getD r CfgStack.init).waiting = [] → ∀ e ∈ (s.liveErases.cfgStacks.getD r CfgStack.init).records,
        HoldsCopy ((s.liveErases.compact r).cfgStacks.getD r CfgStack.init).records e) := by
  rw [compact_some hx]
  refine ⟨rfl, rfl, getD_set_self hc, fun hw e he => ?_⟩
  rw [getD_set_self (by rw [length_liveErases]; exact hr), flush_idle (compact_waiting.trans hw)]
  exact holdsCopy_compact he

end

/-- Settles O50, work by work: each by the equation of its command and by what that state keeps. -/
theorem maintenanceWork : Obligations.MaintenanceWork := by
  refine fun s => ⟨fun i rv hup hm hst href hdue hunc hlines hfail hdrift hworst => ?_,
    fun i rv h => congrArg Host.Outcome.next (readVerify_notDue h), fun i q hup hq hcopy hstand => ?_, fun r hs hm hg => ?_,
    fun core st rt n run hup hm hl hrun => ?_, fun core st rt hl => congrArg Host.Outcome.next (fullRetrim_idle hl),
    fun core b hup hb hne htier hres => ?_, fun hd => ?_⟩
  · exact ⟨_, congrArg Host.Outcome.next (readVerify_clean hup hm hst href hdue hunc hlines hfail hdrift hworst), eq_of_unread verified_unread,
      deck_verified.trans (if_pos rfl), fun _ hk => deck_verified.trans (if_neg hk), hubWord_verified.trans (if_pos rfl)⟩
  · exact ⟨_, rfl, refreshSwap_moves (refreshSwap_swaps hup hq hcopy hstand)⟩
  · have works := configStackCompaction_works hs hm hg
    refine ⟨fun hx => congrArg Host.Outcome.next (works.trans ?_), fun p hx hr hc => ?_⟩
    · rw [compact_none hx]
    · exact ⟨_, congrArg Host.Outcome.next works, rfl, compaction_keeps hx hr hc⟩
  · refine ⟨fun h0 hn hlines hbank => ?_, fun h0 hn => ?_, fun h0 => ?_⟩
    · exact ⟨_, congrArg Host.Outcome.next (fullRetrim_ends hup hm hl hrun h0 hn hlines hbank), retrimDone_eq, trim_retrimDone,
        congrArg Stack.retrim stack_retrimDone, decks_retrimDone, fun c hc => core_retrimDone_other hc⟩
    · exact ⟨_, congrArg Host.Outcome.next (fullRetrim_goesOn hup hm hl hrun h0 hn), eq_of_shell retrimming_shell, stack_retrimming, decks_retrimming,
        fun c hc => core_retrimming hc⟩
    · exact congrArg Host.Outcome.next (fullRetrim_waits hup hm hl hrun h0)
  · obtain ⟨next, retired, ended⟩ := core_rebuildComplete hup hb hne
    have reserves : ((s.core core).reserveServes b.lost b.target).reserves = (s.core core).reserves :=
      reserveServes_keeps Core.reserves (fun _ _ _ => rfl) fun _ _ _ => rfl
    have consumed : ((s.core core).reserveServes b.lost b.target).consumed = (s.core core).consumed :=
      reserveServes_keeps Core.consumed (fun _ _ _ => rfl) fun _ _ _ => rfl
    have decks : ((s.core core).reserveServes b.lost b.target).decks = (s.core core).decks :=
      reserveServes_keeps Core.decks (fun _ _ _ => rfl) fun _ _ _ => rfl
    have lost := reserveServes_lost (c := s.core core) hne
    have reserve := reserveServes_reserve (c := s.core core) (l := b.lost) (r := b.target)
    refine ⟨_, rfl, ?_, ?_, ?_, ?_, ?_, ?_⟩
    · rw [ended]
      exact congrArg Dcm.lost lost
    · rw [ended]
      exact congrArg Dcm.position lost
    · rw [ended]
      exact congrArg Dcm.gone reserve
    · rw [ended]
      exact getD_set_self (by rw [reserves, hres]; exact htier)
    · rw [ended, consumed]
    · rw [ended]
      exact decks
  · obtain ⟨time, cmds, streams, -⟩ := fields_of_outline (vddHvLoss_outline hd)
    exact ⟨_, rfl, time, streams, (congrArg (List.map (·.id)) cmds).trans ids_failDeckCmds, grantless_vddHvLoss hd⟩

end Sys2Proof.Machine
end

section
/-!
Tile commands at the head of their task's segment: which function issues them, and what the issue does (R206, R216, R242-R244); O43.
-/
namespace Sys2Proof.Machine

/-! ## The rows of the table -/

section
variable {i : Instr} {r : TileRow} {s : State}

/-- The step of a tile command is the issue of its row, whatever checker classes it consults. -/
theorem exec_of_tileRow (h : tileRow i = some r) :
    ∃ cls, exec i s = .next (s.issue r.op cls r.check r.run r.core r.task r.chk) := by
  unfold tileRow at h
  split at h <;> cases h <;> exact ⟨_, rfl⟩

/-- No row of the table has a reserved opcode (R244). -/
theorem cwReserved_of_tileRow (h : tileRow i = some r) : cwReserved r.op = false := by
  unfold tileRow at h
  split at h <;> cases h <;> rfl

end

/-! ## The issue of a head -/

/-- What the issue of a head makes of its check and its operation, where no injection is armed: it fails, stays, executes or waits for
room. -/
def State.issueOutcome (s : State) (x : Ctx) (err : Option CErr) (o : Out) : State :=
  err.elim (if o.stay then s.stayCmd x o else if s.roomFor x o then s.finishCmd x o else s) (s.failCmd x)

section
variable {s : State} {x : Ctx} {o : Out} {e : CErr}

@[simp] theorem issueOutcome_some : s.issueOutcome x (some e) o = s.failCmd x e := rfl

theorem issueOutcome_stay (h : o.stay = true) : s.issueOutcome x none o = s.stayCmd x o := if_pos h

theorem issueOutcome_go (h : o.stay = false) : s.issueOutcome x none o = if s.roomFor x o then s.finishCmd x o else s :=
  if_neg (Bool.eq_false_iff.mp h)

end

/-- A head that may issue, of the command's own opcode and not reserved, is issued with the context of its operands. -/
theorem issue_of_headIs {s : State} {core task : Nat} {w : CmdWord} {cls : List Nat} {check : Ctx → Option CErr} {run : Ctx → Out}
    {chk : Check} (hd : s.headIs core task w) (known : cwReserved (cwOpcode w) = false) :
    s.issue (cwOpcode w) cls check run core task chk =
      s.issueOutcome (s.ctxOf core task w chk) (check (s.ctxOf core task w chk)) (run (s.ctxOf core task w chk)) := by
  obtain ⟨head, keeps, fence, core_unarmed, hub_unarmed⟩ := hd
  unfold State.issue
  simp only [head, keeps, fence, known, core_unarmed, hub_unarmed, Option.isSome_none, Bool.false_eq_true, and_false, ite_false,
    ne_eq, not_true_eq_false, State.ctxOf]
  cases check (s.ctxAt core task w chk none) <;> rfl

/-- The step of a tile command whose opcode stands at a head that may issue. -/
theorem exec_of_headIs {i : Instr} {r : TileRow} {s : State} {w : CmdWord} (h : tileRow i = some r) (hd : s.headIs r.core r.task w)
    (hop : cwOpcode w = r.op) :
    exec i s = .next (s.issueOutcome (s.ctxOf r.core r.task w r.chk) (r.check (s.ctxOf r.core r.task w r.chk))
      (r.run (s.ctxOf r.core r.task w r.chk))) := by
  obtain ⟨cls, hexec⟩ := exec_of_tileRow (s := s) h
  have known : cwReserved (cwOpcode w) = false := hop ▸ cwReserved_of_tileRow h
  rw [hexec, ← hop, issue_of_headIs hd known]

/-- Settles O43: the step is the issue of the row, and the issue goes by the check, by whether the operation stays, and by its room. -/
theorem tileCommandsComplete : Obligations.TileCommandsComplete := by
  intro i r s w h hd hop x
  rw [exec_of_headIs h hd hop]
  refine ⟨fun hok hgo hroom => ?_, fun hok hgo hroom => ?_, fun hok hstay => ?_, fun e he => ?_⟩
  · rw [hok, issueOutcome_go hgo, if_pos hroom]
  · rw [hok, issueOutcome_go hgo, if_neg (Bool.eq_false_iff.mp hroom)]
  · rw [hok, issueOutcome_stay hstay]
  · rw [he, issueOutcome_some]

end Sys2Proof.Machine
end

section
/-!
Bytes that a write, or a row of writes, leaves in a memory, and the host's copies (R224, R366, R370); O35.
-/
namespace Sys2Proof.Machine

/-! ## Bytes read and written -/

section
variable {m src : Mem} {a b n i : Nat}

@[simp] theorem Mem.length_read : (m.read a n).length = n := by simp [Mem.read, tabulate]

theorem Mem.getD_read (h : i < n) : (m.read a n).getD i 0 = m.byte (a + i) := getD_tabulate h

/-- Bytes written are read back. -/
theorem Mem.byte_write_inside {bs : List Byte} (h : i < bs.length) : (m.write a bs).byte (a + i) = bs.getD i 0 := by
  rw [Mem.byte_write, if_pos (by omega), Nat.add_sub_cancel_left]

/-- Bytes copied from one memory to another. -/
theorem Mem.byte_write_read (h : i < n) : (m.write a (src.read b n)).byte (a + i) = src.byte (b + i) := by
  rw [Mem.byte_write_inside (by rwa [Mem.length_read]), Mem.getD_read h]

/-- A read beside a write. -/
theorem Mem.read_write_outside {bs : List Byte} (h : a + n ≤ b ∨ b + bs.length ≤ a) : (m.write b bs).read a n = m.read a n := by
  refine List.map_congr_left fun k hk => Mem.byte_write_outside ?_
  have := List.mem_range.1 hk
  omega

end

/-! ## Copies between host and staging -/

section
variable {s : State} {id : Nat} {c : Cmd} {p : Plan}

theorem serving_of_admitted {op : Nat} (h : s.admitted id op = some c) : s.serving = true := by
  unfold State.admitted at h
  split at h
  · assumption
  · cases h

section
variable (hp : s.plan? (c.par 0x20 2) = some p) (hm : s.mayStart c = true) (hr : s.copyRun p = true) (hd : (s.port c.port).dmaOn = true)
include hp hm hr hd

theorem copyIn_copies (ha : s.admitted id 0x40 = some c) : copyIn id s =
    { s with staging := s.staging.write (p.stageBase + c.par 0x24 4) ((s.port c.port).host.read (c.par 0x18 8) (c.par 0x28 4)) }.complete c
      (c.result stSuccess (c.par 0x28 4) 0) := by
  simp [copyIn, ha, hp, hm, hr, hd]

theorem copyOut_copies (ha : s.admitted id 0x41 = some c) (hi : s.injectionHub = none) : copyOut id s =
    (s.hostWrite c.port (c.par 0x18 8) (s.staging.read (p.stageBase + c.par 0x24 4) (c.par 0x28 4))).complete c
      (c.result stSuccess (c.par 0x28 4) 0) := by
  have alive : s.latches.l3 = false := (Bool.or_eq_false_iff.1 (serving_iff.1 (serving_of_admitted ha)).1).2
  simp [copyOut, ha, hp, hm, hr, hd, hi, alive]

end

/-- What the completion of a command leaves beside streams and reports. -/
theorem complete_frame {x : Result} : (s.complete c x).staging = s.staging ∧ (s.complete c x).cores = s.cores ∧ (s.complete c x).plans = s.plans ∧
    (s.complete c x).runs = s.runs ∧ (s.complete c x).cmds = s.cmds.filter fun k => k.id != c.id := by
  obtain ⟨streams, h⟩ := complete_books (s := s) (c := c) (x := x)
  exact ⟨(congrArg State.staging h :), (congrArg State.cores h :), (congrArg State.plans h :), (congrArg State.runs h :), (congrArg State.cmds h :)⟩

end

/-- Settles O35: each copy is one write and the completion of its command. -/
theorem hostCopiesMoveBytes : Obligations.HostCopiesMoveBytes := by
  intro s id c p hp hm hr hd
  refine ⟨fun ha => ?_, fun ha hi => ?_⟩
  · obtain ⟨staging, cores, plans, runs, cmds⟩ := complete_frame (c := c) (x := c.result stSuccess (c.par 0x28 4) 0)
      (s := { s with staging := s.staging.write (p.stageBase + c.par 0x24 4) ((s.port c.port).host.read (c.par 0x18 8) (c.par 0x28 4)) })
    refine ⟨_, congrArg Host.Outcome.next (copyIn_copies hp hm hr hd ha), id_of_admitted ha ▸ cmds, fun i hi => ?_, fun a h => ?_, cores, plans, runs⟩
    · rw [staging]
      exact Mem.byte_write_read hi
    · rw [staging]
      exact Mem.byte_write_outside (by rwa [Mem.length_read])
  · have written := hostWrite_unreported (s := s) (p := c.port) (a := c.par 0x18 8) (bs := s.staging.read (p.stageBase + c.par 0x24 4) (c.par 0x28 4))
    obtain ⟨staging, cores, -, -, cmds⟩ := complete_frame (c := c) (x := c.result stSuccess (c.par 0x28 4) 0)
      (s := s.hostWrite c.port (c.par 0x18 8) (s.staging.read (p.stageBase + c.par 0x24 4) (c.par 0x28 4)))
    refine ⟨_, congrArg Host.Outcome.next (copyOut_copies hp hm hr hd ha hi), rfl, staging.trans (congrArg State.staging written :),
      cores.trans (congrArg State.cores written :), ?_⟩
    rw [cmds, id_of_admitted ha]
    exact congrArg (fun u : State => u.cmds.filter fun k => k.id != id) written

end Sys2Proof.Machine
end

section
/-!
Plan runs and training steps: their request and their start (R239, R299, R321, R322); O36.
-/
namespace Sys2Proof.Machine

/-! ## The requests -/

section
variable {s : State} {id : Nat} {c : Cmd} {p : Plan}

theorem planRun_begins (ha : s.admitted id 0x31 = some c) (hw : c.phase = .waiting) (hm : s.mayStart c = true) : planRun id s = s.begin_ c := by
  simp [planRun, ha, hw, hm]

theorem cmd?_begin_admitted {op : Nat} (ha : s.admitted id op = some c) : (s.begin_ c).cmd? id = some { c with phase := .running } := by
  have found : (s.cmd? c.id).isSome = true := by rw [id_of_admitted ha, cmd?_of_admitted ha, Option.isSome_some]
  exact id_of_admitted ha ▸ cmd?_begin_ found

/-- The seed that a run takes: the one named, or where none is named the plan's. -/
def Cmd.seedOf (c : Cmd) (p : Plan) : Nat := if c.par 0x18 8 = 0 then planSeed p.image else c.par 0x18 8

/-- The train block (R321). -/
def State.trainBlock (s : State) (c : Cmd) (p : Plan) : List Byte :=
  toLe 8 (s.stream c.named).trainStep ++ (toLe 8 (c.seedOf p) ++ (toLe 4 (c.par 0x2C 4) ++ (toLe 4 256 ++ (toLe 1 (c.flags % 2) ++ List.replicate 39 0))))

/-- Staging with the train block and the batch of a training step (R322). -/
def State.trainStaged (s : State) (c : Cmd) (p : Plan) : Mem :=
  (s.staging.write p.stageBase (s.trainBlock c p)).write (p.stageBase + 256) ((s.port c.port).host.read (c.par 0x20 8) (c.par 0x28 4))

theorem length_trainBlock : (s.trainBlock c p).length = 64 := by simp [State.trainBlock, length_toLe]

theorem trainStep_begins (ha : s.admitted id 0x32 = some c) (hp : s.planOf c.named = some p) (hw : c.phase = .waiting) (hm : s.mayStart c = true)
    (hd : c.par 0x28 4 = 0 ∨ (s.port c.port).dmaOn = true) : trainStep id s = { s with staging := s.trainStaged c p }.begin_ c := by
  have go : ¬(c.phase ≠ .waiting ∨ s.mayStart c = false ∨ (c.par 0x28 4 ≠ 0 ∧ (s.port c.port).dmaOn = false)) := by
    rcases hd with hd | hd <;> simp [hw, hm, hd]
  simp only [trainStep, ha, hp, if_neg go, State.trainStaged, State.trainBlock, Cmd.seedOf, List.append_assoc]

/-- A field of the block, which the batch leaves. -/
theorem trainStaged_field {before field after : List Byte} (h : s.trainBlock c p = before ++ (field ++ after)) :
    (s.trainStaged c p).read (p.stageBase + before.length) field.length = field := by
  have len := length_trainBlock (s := s) (c := c) (p := p)
  have inside : before.length + field.length ≤ (s.trainBlock c p).length := by simp [h]
  rw [State.trainStaged, Mem.read_write_outside (.inl (by omega)), Mem.read_write inside, h, List.drop_left, List.take_left]

theorem trainStaged_batch {i : Nat} (h : i < c.par 0x28 4) :
    (s.trainStaged c p).byte (p.stageBase + 256 + i) = (s.port c.port).host.byte (c.par 0x20 8 + i) := Mem.byte_write_read h

theorem trainStaged_outside {a : Nat} (h : a < p.stageBase ∨ p.stageBase + 256 + c.par 0x28 4 ≤ a) :
    (s.trainStaged c p).byte a = s.staging.byte a := by
  have len := length_trainBlock (s := s) (c := c) (p := p)
  rw [State.trainStaged, Mem.byte_write_outside (by rw [Mem.length_read]; omega), Mem.byte_write_outside (by omega)]

end

/-! ## The start of a run -/

section
variable {s : State} {id n at_ seed : Nat} {c : Cmd} {p : Plan} {cmd : Option Nat}

/-- The run that a start begins (R239). -/
def State.newRun (s : State) (p : Plan) (cmd : Option Nat) (seed : Nat) : Run :=
  { cmd := cmd, seed := BitVec.ofNat 64 (if seed = 0 then planSeed p.image else seed), step := 0, stepsDone := 0, inStep := false,
    firstBeat := s.beat, beats := 0, klass := 0, events := 0, broken := false, replayed := false, fail := none }

/-- Every task of a plan at the start of a run. -/
def State.tasksStarted (s : State) (p : Plan) : State :=
  (planCores p.image).foldl (fun s k => s.modTask k (planTask p.image) fun t => t.start (planStepped p.image)) s

/-- The state with a new run of a plan, its tasks at their start and no core at a barrier of it. -/
def State.runBegun (s : State) (n : Nat) (p : Plan) (cmd : Option Nat) (seed : Nat) : State :=
  let s := (s.setRun n (s.newRun p cmd seed)).tasksStarted p
  { s with barriers := s.barriers.filter fun e => e.1 / 16 ≠ n }

theorem startRun_eq : s.startRun n p cmd seed =
    if planStepped p.image then s.runBegun n p cmd seed else (s.runBegun n p cmd seed).snapUnit n := rfl

theorem tasksStarted_eq : s.tasksStarted p = { s with cores := (s.tasksStarted p).cores } := foldl_modCore_eq

theorem task_tasksStarted {k : Nat} (hk : k ∈ planCores p.image) (hlen : planTask p.image < (s.core k).tasks.length) :
    ((s.tasksStarted p).core k).task (planTask p.image) = ((s.core k).task (planTask p.image)).start (planStepped p.image) :=
  core_foldl_modCore_of_mem (P := fun x => x.task (planTask p.image) = ((s.core k).task (planTask p.image)).start (planStepped p.image))
    (planCores_nodup p.image) hk fun _ => Core.task_setTask_same hlen

theorem run?_runBegun : (s.runBegun n p cmd seed).run? n = some (s.newRun p cmd seed) := by
  have tasks := congrArg (State.run? · n) (tasksStarted_eq (s := s.setRun n (s.newRun p cmd seed)) (p := p))
  exact tasks.trans (run?_setRun.trans (if_pos rfl))

/-- A snapshot of a unit that has not been replayed leaves the run. -/
theorem run?_snapUnit {r : Run} (hr : s.run? n = some r) (hnew : r.replayed = false) : (s.snapUnit n).run? n = some r := by
  have same : ({ r with replayed := false } : Run) = r := by rw [← hnew]
  unfold State.snapUnit
  split
  · exact hr
  · dsimp only
    split
    next r' h =>
      obtain rfl : r = r' := Option.some.inj (hr.symm.trans h)
      rw [same]
      exact run?_setRun.trans (if_pos rfl)
    next h => exact hr

theorem run?_startRun : (s.startRun n p cmd seed).run? n = some (s.newRun p cmd seed) := by
  rw [startRun_eq]
  split
  · exact run?_runBegun
  · exact run?_snapUnit run?_runBegun rfl

/-- What the start of a run changes. -/
theorem startRun_frame : ∃ runs snaps barriers, s.startRun n p cmd seed =
    { s with runs := runs, snaps := snaps, barriers := barriers, cores := ((s.setRun n (s.newRun p cmd seed)).tasksStarted p).cores } := by
  obtain ⟨runs, barriers, begun⟩ : ∃ runs barriers, s.runBegun n p cmd seed =
      { s with runs := runs, barriers := barriers, cores := ((s.setRun n (s.newRun p cmd seed)).tasksStarted p).cores } := by
    rw [State.runBegun, tasksStarted_eq]
    exact ⟨_, _, rfl⟩
  rw [startRun_eq]
  split
  · rw [begun]
    exact ⟨_, _, _, rfl⟩
  · obtain ⟨snaps, runs, h⟩ := snapUnit_eq (s := s.runBegun n p cmd seed) (n := n)
    rw [h, begun]
    exact ⟨_, _, _, rfl⟩

theorem task_startRun {k : Nat} (hk : k ∈ planCores p.image) (hlen : planTask p.image < (s.core k).tasks.length) :
    ((s.startRun n p cmd seed).core k).task (planTask p.image) = ((s.core k).task (planTask p.image)).start (planStepped p.image) := by
  obtain ⟨runs, snaps, barriers, h⟩ := startRun_frame (s := s) (n := n) (p := p) (cmd := cmd) (seed := seed)
  rw [h]
  exact task_tasksStarted hk hlen

theorem x_start {t : Task} {stepped : Bool} {r : Nat} : (t.start stepped).x r = 0 := by
  unfold Task.x
  split
  · rfl
  · exact List.getElem?_getD_replicate_default_eq 0 32 r

theorem runStart_starts (hs : s.serving = true) (hc : s.cmd? id = some c) (hop : c.op = 0x31 ∨ c.op = 0x32) (hrun : c.phase = .running)
    (hp : s.plan? (s.runPlan c) = some p) (hr : s.run? (s.runPlan c) = none) (hslot : s.nextRunSlot p c.notBefore = some at_) :
    runStart id s = (s.advanceTo at_).startRun (s.runPlan c) p (some id) (c.par 0x18 8) := by
  have ours : (s.cmd? id).filter (fun c => (c.op == 0x31 || c.op == 0x32) && decide (c.phase = .running)) = some c := by
    rw [hc]
    exact Option.filter_eq_some_iff.2 ⟨rfl, by simpa [hrun] using hop⟩
  simp [runStart, ours, hp, hs, hr, hslot]

theorem decodeRunStart_starts (hs : s.serving = true) (hp : s.plan? n = some p) (hk : planClass p.image = 1) (hr : s.run? n = none)
    (hwork : s.executing n ≠ []) (hslot : s.nextRunSlot p 0 = some at_) : decodeRunStart n s = (s.advanceTo at_).startRun n p none 0 := by
  simp [decodeRunStart, hp, hs, hk, hr, hwork, hslot]

end

/-- Settles O36: the requests by their one write of command and staging, the starts by the run and the tasks that they leave. -/
theorem planRunsBegin : Obligations.PlanRunsBegin := by
  intro s
  refine ⟨fun id c ha hw hm => ?_, fun id c p ha hp hw hm hd => ?_, fun id c p at_ hs hc hop hrun hp hr hslot hlen => ?_,
    fun n p at_ hs hp hk hr hwork hslot => ?_⟩
  · exact ⟨_, congrArg Host.Outcome.next (planRun_begins ha hw hm), rfl, cmd?_begin_admitted ha⟩
  · have step := trainStaged_field (s := s) (c := c) (p := p) (before := []) (field := toLe 8 (s.stream c.named).trainStep) rfl
    have seed := trainStaged_field (s := s) (c := c) (p := p) (before := toLe 8 (s.stream c.named).trainStep) rfl
    have sequences := trainStaged_field (s := s) (c := c) (p := p) (before := toLe 8 (s.stream c.named).trainStep ++ toLe 8 (c.seedOf p))
      (field := toLe 4 (c.par 0x2C 4)) (by rw [List.append_assoc]; rfl)
    simp only [List.length_append, length_toLe] at step seed sequences
    exact ⟨_, congrArg Host.Outcome.next (trainStep_begins ha hp hw hm hd), rfl, cmd?_begin_admitted (s := { s with staging := _ }) ha,
      step, seed, sequences, fun i hi => trainStaged_batch hi, fun a h => trainStaged_outside h⟩
  · obtain ⟨runs, snaps, barriers, frame⟩ := startRun_frame (s := s.advanceTo at_) (n := s.runPlan c) (p := p) (cmd := some id) (seed := c.par 0x18 8)
    refine ⟨_, _, congrArg Host.Outcome.next (runStart_starts hs hc hop hrun hp hr hslot), run?_startRun, rfl, rfl, rfl, rfl, ?_, ?_, ?_, ?_, fun k hk => ?_⟩
    · rw [frame]
      exact State.now_le_advanceTo
    · rw [frame]; rfl
    · rw [frame]; rfl
    · rw [frame]; rfl
    · dsimp only
      rw [task_startRun (s := s.advanceTo at_) hk (hlen k hk)]
      exact ⟨fun n => x_start, rfl, rfl, rfl, rfl, rfl⟩
  · obtain ⟨runs, snaps, barriers, frame⟩ := startRun_frame (s := s.advanceTo at_) (n := n) (p := p) (cmd := none) (seed := 0)
    refine ⟨_, _, congrArg Host.Outcome.next (decodeRunStart_starts hs hp hk hr hwork hslot), run?_startRun, rfl, rfl, rfl, rfl, ?_, ?_⟩
    · rw [frame]; rfl
    · rw [frame]; rfl

end Sys2Proof.Machine
end

section
/-!
Heads of a task's segment that wait, are discarded or fail (R206, R216, R217, R242, R244, R249); O42, O45.
-/
namespace Sys2Proof.Machine

/-! ## The head and its task -/

section
variable {s : State} {core task : Nat} {w : CmdWord} {chk : Check} {k : Nat}

/-- A task with a head is one of its core's tasks. -/
theorem lt_tasks_of_issueHead (h : s.issueHead core task = some w) : task < (s.core core).tasks.length := by
  by_contra hlen
  have none_ : (s.core core).task task = Task.init := List.getD_eq_default _ _ (not_lt.1 hlen)
  simp [State.issueHead, none_, Task.init] at h

/-- What a command sees of its core is the core, but for the scratchpad. -/
theorem core_sees : (s.sees core task w).core k = if k = core then { s.core core with scratch := ((s.sees core task w).core core).scratch } else s.core k := by
  unfold State.sees
  dsimp only
  split
  · split
    next h => rw [h]
    next => rfl
  · rw [State.core_setCore]
    split
    · rw [State.core_setCore, if_pos rfl]
    · rfl

theorem sees_of_idle (h : (s.core core).late = []) : s.sees core task w = s := if_pos (by rw [h]; rfl)

theorem sees_shell : (s.sees core task w).shell = s.shell := by
  unfold State.sees
  dsimp only
  split
  · rfl
  · rfl

theorem c_ctxOf : (s.ctxOf core task w chk).c = { s.core core with scratch := (s.ctxOf core task w chk).mem } :=
  (core_sees (s := s) (core := core) (task := task) (w := w) (k := core)).trans (if_pos rfl)

theorem t_ctxOf : (s.ctxOf core task w chk).t = (s.core core).task task := by
  rw [Ctx.t, c_ctxOf]
  rfl

@[simp] theorem ctxOf_fields : (s.ctxOf core task w chk).core = core ∧ (s.ctxOf core task w chk).task = task ∧ (s.ctxOf core task w chk).w = w ∧
    (s.ctxOf core task w chk).chk = chk ∧ (s.ctxOf core task w chk).inj = none ∧ (s.ctxOf core task w chk).tm = s.timing core task w :=
  ⟨rfl, rfl, rfl, rfl, rfl, rfl⟩

theorem remoteToken_other {x : Ctx} (put : cwOpcode x.w ≠ 0x07) (tsend : cwOpcode x.w ≠ 0x52) : remoteToken x = [] := by
  simp [remoteToken, put, tsend]

end

/-! ## The issue of a head, case by case -/

section
variable {s : State} {op : Nat} {cls : List Nat} {check : Ctx → Option CErr} {run : Ctx → Out} {core task : Nat} {chk : Check} {w : CmdWord}

theorem issue_noHead (h : s.issueHead core task = none) : s.issue op cls check run core task chk = s := by
  unfold State.issue
  rw [h]

section
variable (h : s.issueHead core task = some w)
include h

theorem issue_unfenced (keeps : ((s.core core).task task).err.discarding = false) (fence : fenceMet ((s.core core).task task) w = false) :
    s.issue op cls check run core task chk = s := by
  unfold State.issue
  simp [h, keeps, fence]

/-- A head of another row, of no reserved opcode, is left to that row. -/
theorem issue_otherRow (known : cwReserved (cwOpcode w) = false) (other : cwOpcode w ≠ op) : s.issue op cls check run core task chk = s := by
  unfold State.issue
  simp [h, known, other]

section
variable (calm : s.injection core = none) (hub : s.injectionHub = none)
include calm hub

theorem issue_discards (drops : ((s.core core).task task).err.discarding = true) (own : cwOpcode w = op) :
    s.issue op cls check run core task chk = s.discardCmd (s.ctxOf core task w chk) := by
  unfold State.issue
  simp [h, drops, own, calm, hub, State.ctxOf]

theorem issue_reserved (keeps : ((s.core core).task task).err.discarding = false) (fence : fenceMet ((s.core core).task task) w = true)
    (reserved : cwReserved (cwOpcode w) = true) :
    s.issue op cls check run core task chk = s.failCmd (s.ctxOf core task w chk) CErr.format := by
  unfold State.issue
  simp [h, keeps, fence, reserved, calm, hub, State.ctxOf]

end

end

end

/-! ## What an update of a task leaves -/

section
variable {s : State} {c : Core} {n t k : Nat} {f : Task → Task} {x : Task}

theorem task_setTask : (c.setTask t x).task k = if k = t ∧ t < c.tasks.length then x else c.task k := by
  by_cases h : k = t
  · subst h
    by_cases hlen : k < c.tasks.length
    · rw [Core.task_setTask_same hlen, if_pos ⟨rfl, hlen⟩]
    · rw [if_neg fun h => hlen h.2, Core.setTask, List.set_eq_of_length_le (not_lt.1 hlen)]
  · rw [Core.task_setTask_other h, if_neg fun e => h e.1]

theorem task_modTask_same (h : t < (s.core n).tasks.length) : ((s.modTask n t f).core n).task t = f ((s.core n).task t) := by
  rw [State.modTask, State.core_modCore, if_pos rfl, Core.task_setTask_same h]

theorem core_modTask_other (h : k ≠ n) : (s.modTask n t f).core k = s.core k := by
  rw [State.modTask, State.core_modCore, if_neg h]

/-- The core keeps what its tasks are no part of. -/
theorem core_modTask_keeps {γ : Type} (π : Core → γ) (h : ∀ (c : Core) ts, π { c with tasks := ts } = π c) :
    π ((s.modTask n t f).core k) = π (s.core k) := by
  by_cases hk : k = n
  · rw [hk, State.modTask, State.core_modCore, if_pos rfl]
    exact h _ _
  · rw [core_modTask_other hk]

theorem modTask_shell : (s.modTask n t f).shell = s.shell := rfl

end

/-! ## The head leaves -/

section
variable {t : Task} {w : CmdWord} {cyc : Nat}

/-- The task whose head has left and whose token has counted (R217). -/
def Task.headLeft (t : Task) (w : CmdWord) (cyc : Nat) : Task := (t.popHead cyc).doneToken w

theorem headLeft_frame : (t.headLeft w cyc).queue = t.queue.drop 1 ∧ (t.headLeft w cyc).err = t.err ∧
    (t.headLeft w cyc).tokens = (t.doneToken w).tokens := by
  unfold Task.headLeft Task.doneToken
  split
  · exact ⟨rfl, rfl, rfl⟩
  · exact ⟨rfl, rfl, rfl⟩

end

/-! ## A head that is discarded (R242) -/

section
variable {s : State} {x : Ctx} {t : Task}

/-- The task whose head, where it is no BARRIER, is discarded. -/
def Task.discarded (t : Task) (w : CmdWord) (cyc : Nat) : Task :=
  let t := t.headLeft w cyc
  if cwOpcode w = 0x57 then (if bitAt w 99 then { t with doneEnd := true, seq := .stopped } else { t with doneStep := true }) else t

theorem discarded_frame {w : CmdWord} {cyc : Nat} : (t.discarded w cyc).queue = t.queue.drop 1 ∧ (t.discarded w cyc).err = t.err ∧
    (t.discarded w cyc).tokens = (t.doneToken w).tokens := by
  unfold Task.discarded
  dsimp only
  split
  · split
    · exact headLeft_frame
    · exact headLeft_frame
  · exact headLeft_frame

theorem discarded_done {w : CmdWord} {cyc : Nat} (h : cwOpcode w = 0x57) :
    if bitAt w 99 = true then (t.discarded w cyc).doneEnd = true else (t.discarded w cyc).doneStep = true := by
  unfold Task.discarded
  dsimp only
  rw [if_pos h]
  split
  · rfl
  · rfl

theorem discardCmd_barrier (h : cwOpcode x.w = 0x51) : s.discardCmd x =
    (s.modTask x.core x.task fun t => t.headLeft x.w x.tm.issue).arriveBarrier x.core x.task (fld x.w 99 96) none := if_pos h

theorem discardCmd_other (h : cwOpcode x.w ≠ 0x51) (hrem : remoteToken x = []) :
    s.discardCmd x = s.modTask x.core x.task fun t => t.discarded x.w x.tm.issue := by
  unfold State.discardCmd
  rw [if_neg h, hrem]
  rfl

end

/-! ## Arrivals at a barrier (R254) -/

/-- What a barrier leaves of a state: staging, and of each core its memories and its tasks' segments and error records. -/
def State.segments (s : State) : Mem × (Nat → Mem × Mem × (Nat → List CmdWord × ErrRec)) :=
  (s.staging, fun n => ((s.core n).scratch, (s.core n).dcm, fun k => (((s.core n).task k).queue, ((s.core n).task k).err)))

section
variable {s t : State} {n k core task : Nat} {tok : Option Nat} {f : Task → Task}

theorem modTask_segments (h : ∀ t, (f t).queue = t.queue ∧ (f t).err = t.err) : (s.modTask n k f).segments = s.segments := by
  refine Prod.ext rfl (funext fun m => ?_)
  unfold State.segments
  dsimp only
  rw [core_modTask_keeps Core.scratch fun _ _ => rfl, core_modTask_keeps Core.dcm fun _ _ => rfl]
  refine congrArg (fun g => (_, _, g)) (funext fun j => ?_)
  by_cases hm : m = n
  · subst hm
    rw [State.modTask, State.core_modCore, if_pos rfl, task_setTask]
    split
    next hj => rw [hj.1, (h _).1, (h _).2]
    next => rfl
  · rw [core_modTask_other hm]

theorem snapUnit_segments : (s.snapUnit n).segments = s.segments := by
  obtain ⟨snaps, runs, h⟩ := snapUnit_eq (s := s) (n := n)
  rw [h]
  rfl

/-- A task goes on from a barrier: the tokens of its arrivals count. -/
def Task.barrierPassed (t : Task) (n : Nat) : Task :=
  (t.barriers.filter fun b => b.1 == n).foldl (fun t b => b.2.elim t t.incToken) { t with barriers := t.barriers.filter fun b => b.1 != n }

/-- The cores that have arrived at a barrier once this one has. -/
def State.arrivals (s : State) (core plan n : Nat) : List Nat :=
  let here := sget [] s.barriers (16 * plan + n)
  if here.contains core then here else here ++ [core]

/-- The task waits at a barrier, with the token that its end counts. -/
def Task.awaitBarrier (t : Task) (n : Nat) (tok : Option Nat) : Task := { t with barriers := t.barriers ++ [(n, tok)] }

/-- A core of a plan waits at a barrier with the others that have arrived. -/
def State.atBarrier (s : State) (core task n : Nat) (tok : Option Nat) (here : List Nat) : State :=
  { s.modTask core task fun t => t.awaitBarrier n tok with
    barriers := sput [] s.barriers (16 * ((s.core core).task task).plan + n) here }

/-- The members of a barrier. -/
def barrierCores (p : Plan) (n : Nat) : List Nat := (List.range 256).filter fun c => Nat.testBit (barrierMask p.image n) c

/-- Every member goes on from a barrier. -/
def State.barrierPassed (s : State) (p : Plan) (task n : Nat) : State :=
  (barrierCores p n).foldl (fun s c => s.modTask c task fun t => t.barrierPassed n) s

theorem arriveBarrier_noPlan (h : s.plan? ((s.core core).task task).plan = none) : s.arriveBarrier core task n tok = s := by
  unfold State.arriveBarrier
  extract_lets t
  rw [show s.plan? t.plan = none from h]

/-- An arrival at a barrier waits, or as the last one lets every member go on, which may begin a replay unit (R402). -/
theorem arriveBarrier_plan {p : Plan} (h : s.plan? ((s.core core).task task).plan = some p) :
    s.arriveBarrier core task n tok =
      if (barrierCores p n).all fun c => (s.arrivals core ((s.core core).task task).plan n).contains c then
        if barrierMask p.image n = planMask p.image ∧ planStepped p.image = false then
          ((s.atBarrier core task n tok []).barrierPassed p task n).snapUnit ((s.core core).task task).plan
        else (s.atBarrier core task n tok []).barrierPassed p task n
      else s.atBarrier core task n tok (s.arrivals core ((s.core core).task task).plan n) := by
  have passed : (fun t : Task => (t.barriers.filter fun b => b.1 == n).foldl (fun t b => match b.2 with
      | some k => t.incToken k
      | none => t) { t with barriers := t.barriers.filter fun b => b.1 != n }) = fun t => t.barrierPassed n := by
    funext t
    refine congrArg (fun g => List.foldl g _ _) (funext fun t => funext fun b => ?_)
    cases b.2 <;> rfl
  unfold State.arriveBarrier
  extract_lets t
  rw [show s.plan? t.plan = some p from h]
  show (if (barrierCores p n).all fun c => (s.arrivals core ((s.core core).task task).plan n).contains c then _ else _) = _
  refine if_congr Iff.rfl ?_ rfl
  unfold State.barrierPassed
  rw [← passed]
  rfl

theorem barrierPassed_kept {t : Task} : (t.barrierPassed n).queue = t.queue ∧ (t.barrierPassed n).err = t.err := by
  have kept (t : Task) (b : Nat × Option Nat) : (b.2.elim t t.incToken).queue = t.queue ∧ (b.2.elim t t.incToken).err = t.err := by
    cases b.2 with
    | none => exact ⟨rfl, rfl⟩
    | some k => exact ⟨rfl, rfl⟩
  exact ⟨foldl_keeps Task.queue (fun t b => (kept t b).1) _ _, foldl_keeps Task.err (fun t b => (kept t b).2) _ _⟩

theorem atBarrier_segments {here : List Nat} : (s.atBarrier core task n tok here).segments = s.segments :=
  modTask_segments (s := s) (n := core) (k := task) (f := fun t => t.awaitBarrier n tok) fun _ => ⟨rfl, rfl⟩

theorem arriveBarrier_segments : (s.arriveBarrier core task n tok).segments = s.segments := by
  have passed (p : Plan) : ((s.atBarrier core task n tok []).barrierPassed p task n).segments = s.segments :=
    (foldl_keeps State.segments (fun _ _ => modTask_segments fun _ => barrierPassed_kept) _ _).trans atBarrier_segments
  cases hp : s.plan? ((s.core core).task task).plan with
  | none => rw [arriveBarrier_noPlan hp]
  | some p =>
    rw [arriveBarrier_plan hp]
    split
    · split
      · exact snapUnit_segments.trans (passed p)
      · exact passed p
    · exact atBarrier_segments

end

/-! ## A head that fails (R216, R217, R242) -/

section
variable {s : State} {x : Ctx} {e : CErr}

/-- The core of a failing head: its counters, and the next cycle in which it may issue. -/
def Ctx.failed (x : Ctx) (e : CErr) (c : Core) : Core := { (countFailure c e).inc cFenceWait x.tm.fence with clock := x.tm.issue + 1 }

/-- The task of a failing head. -/
def Ctx.failedTask (x : Ctx) (e : CErr) (s : State) (t : Task) : Task := { t.headLeft x.w x.tm.issue with err := t.err.take x.w e s.beat }

theorem countFailure_uncounted {c : Core} : (countFailure c e).uncounted = c.uncounted := by
  unfold countFailure
  split
  · exact uncounted_inc
  · split
    · exact uncounted_inc
    · rfl

theorem failed_frame {c : Core} : (x.failed e c).scratch = c.scratch ∧ (x.failed e c).dcm = c.dcm ∧ (x.failed e c).tasks = c.tasks := by
  have counted := (uncounted_inc (c := countFailure c e) (o := cFenceWait) (n := x.tm.fence)).trans countFailure_uncounted
  exact ⟨(congrArg Core.scratch counted :), (congrArg Core.dcm counted :), (congrArg Core.tasks counted :)⟩

/-- A failure that no replay resolves, without effects elsewhere, writes the core's counters and the task alone. -/
theorem failCmd_records (hreplay : replayStatus e.status = false) (hformat : e.status ≠ stFormatError) (hbound : e.status ≠ stBoundFault)
    (hfx : e.fx = []) (hrem : remoteToken x = []) (hrun : ∀ r, s.run? x.t.plan = some r → r.broken = false) :
    s.failCmd x e = (s.modCore x.core (x.failed e)).modTask x.core x.task (x.failedTask e s) := by
  have noFx : failureFx x e = [] := by simp [failureFx, hformat, hbound, hfx]
  have unbroken : (match s.run? x.t.plan with
      | some r => r.broken
      | none => false) = false := by
    split
    next r hr => exact hrun r hr
    next => rfl
  have task : (fun t : Task => { t.headLeft x.w x.tm.issue with err := (t.headLeft x.w x.tm.issue).err.take x.w e s.beat }) =
      x.failedTask e s := by
    funext t
    rw [headLeft_frame.2.1]
    rfl
  unfold State.failCmd
  rw [hreplay, noFx, hrem, ← task]
  exact (if_neg Bool.false_ne_true).trans (if_neg (ne_true_of_eq_false unbroken))

/-- The state after a failure: its own core's counters and task differ. -/
theorem failed_state {t : State} (h : t = (s.modCore x.core (x.failed e)).modTask x.core x.task (x.failedTask e s))
    (hlen : x.task < (s.core x.core).tasks.length) : t = { s with cores := t.cores } ∧ (∀ c, c ≠ x.core → t.core c = s.core c) ∧
    (t.core x.core).scratch = (s.core x.core).scratch ∧ (t.core x.core).dcm = (s.core x.core).dcm ∧
    (t.core x.core).task x.task = x.failedTask e s ((s.core x.core).task x.task) := by
  obtain ⟨scratch, dcm, tasks⟩ := failed_frame (x := x) (e := e) (c := s.core x.core)
  have own : (s.modCore x.core (x.failed e)).core x.core = x.failed e (s.core x.core) := State.core_modCore.trans (if_pos rfl)
  have unchanged : (x.failed e (s.core x.core)).task x.task = (s.core x.core).task x.task := congrArg (fun l : List Task => l.getD x.task Task.init) tasks
  subst h
  refine ⟨eq_of_shell (modTask_shell.trans modCore_shell), fun c hc => ?_, ?_, ?_, ?_⟩
  · rw [core_modTask_other hc, State.core_modCore, if_neg hc]
  · rw [core_modTask_keeps Core.scratch fun _ _ => rfl, own, scratch]
  · rw [core_modTask_keeps Core.dcm fun _ _ => rfl, own, dcm]
  · rw [task_modTask_same (by rwa [own, tasks]), own, unchanged]

theorem take_first {r : ErrRec} {w : CmdWord} {beat : Nat} (h : r.valid = false) : r.take w e beat =
    { valid := true, discarding := true, opcode := cwOpcode w, status := e.status,
      detail := BitVec.ofNat 32 (2 ^ 28 * e.reason + 2 ^ 22 * (e.row % 64) + e.pos % 2 ^ 22), beat := beat, word := w } :=
  if_neg (by rw [h]; decide)

theorem take_later {r : ErrRec} {w : CmdWord} {beat : Nat} (h : r.valid = true) : r.take w e beat = { r with discarding := true } := if_pos h

theorem take_discards {r : ErrRec} {w : CmdWord} {beat : Nat} : (r.take w e beat).discarding = true ∧ (r.take w e beat).valid = true := by
  cases h : r.valid with
  | true => rw [take_later h]; exact ⟨rfl, h⟩
  | false => rw [take_first h]; exact ⟨rfl, rfl⟩

end

/-! ## The statements -/

/-- Settles O42: the issue of the row case by case, and the task that a discard leaves. -/
theorem tileHeadsWaitOrDiscard : Obligations.TileHeadsWaitOrDiscard := by
  intro i r s hrow k
  obtain ⟨cls, step⟩ := exec_of_tileRow (s := s) hrow
  refine ⟨fun h => ?_, fun w h calm hub => ⟨fun keeps fence => ?_, fun _ known other => ?_, fun _ known other => ?_, fun drops own hop => ?_,
    fun drops own hop hlen => ?_, fun drops own hop hrem => ?_, fun keeps fence reserved => ?_⟩⟩
  · rw [step, issue_noHead h]
  · rw [step, issue_unfenced h keeps fence]
  · rw [step, issue_otherRow h known other]
  · rw [step, issue_otherRow h known other]
  · have hlen := lt_tasks_of_issueHead h
    rw [step, issue_discards h calm hub drops own, discardCmd_barrier (own.trans hop)]
    have kept := arriveBarrier_segments (s := s.modTask r.core r.task fun t => t.headLeft w (s.ctxOf r.core r.task w r.chk).tm.issue)
      (core := r.core) (task := r.task) (n := fld w 99 96) (tok := none)
    have task := congrArg (fun z => (z.2 r.core).2.2 r.task) kept
    simp only [State.segments, task_modTask_same hlen, Prod.mk.injEq] at task
    exact ⟨_, rfl, (congrArg (fun z => (z.2 r.core).1) kept).trans (core_modTask_keeps Core.scratch fun _ _ => rfl),
      (congrArg (fun z => (z.2 r.core).2.1) kept).trans (core_modTask_keeps Core.dcm fun _ _ => rfl), task.1.trans headLeft_frame.1,
      task.2.trans headLeft_frame.2.1, congrArg Prod.fst kept⟩
  · rw [step, issue_discards h calm hub drops (own.trans hop.symm), discardCmd_other (by simp [own]) (remoteToken_other (by simp [own]) (by simp [own]))]
    refine ⟨_, rfl, ?_⟩
    simp only [ctxOf_fields]
    rw [task_modTask_same hlen]
    exact discarded_done own
  · have hlen := lt_tasks_of_issueHead h
    rw [step, issue_discards h calm hub drops own, discardCmd_other (fun e => hop (own.symm.trans e)) hrem]
    refine ⟨_, rfl, eq_of_shell modTask_shell, fun c hc => core_modTask_other hc, core_modTask_keeps Core.scratch fun _ _ => rfl,
      core_modTask_keeps Core.dcm fun _ _ => rfl, ?_⟩
    simp only [ctxOf_fields]
    rw [task_modTask_same hlen]
    obtain ⟨queue, err, tokens⟩ := discarded_frame (t := k) (w := w) (cyc := (s.ctxOf r.core r.task w r.chk).tm.issue)
    exact ⟨queue, tokens, err⟩
  · rw [step, issue_reserved h calm hub keeps fence reserved]

/-- Settles O45: a failure is one update of the core's counters and one of the task. -/
theorem tileFailureIsRecorded : Obligations.TileFailureIsRecorded := by
  intro s core task chk w hd x k
  refine ⟨fun e hreplay hformat hbound hfx hrem hrun => ?_, fun hop => ?_⟩
  · obtain ⟨head, -⟩ := hd
    have plan : x.t.plan = k.plan := congrArg Task.plan t_ctxOf
    obtain ⟨frame, others, scratch, dcm, own⟩ :=
      failed_state (failCmd_records hreplay hformat hbound hfx hrem fun r hr => hrun r (plan ▸ hr)) (lt_tasks_of_issueHead head)
    obtain ⟨queue, -, tokens⟩ := headLeft_frame (t := k) (w := w) (cyc := x.tm.issue)
    obtain ⟨discards, valid⟩ := take_discards (e := e) (r := k.err) (w := w) (beat := s.beat)
    have err : (((s.failCmd x e).core core).task task).err = k.err.take w e s.beat := congrArg Task.err own
    refine ⟨frame, others, scratch, dcm, (congrArg Task.queue own).trans queue, (congrArg Task.tokens own).trans tokens, ?_, ?_, fun h => ?_, fun h => ?_⟩
    · rw [err, discards]
    · rw [err, valid]
    · rw [err, take_later h]
    · rw [err, take_first h]
      exact ⟨rfl, rfl, rfl, rfl⟩
  · exact exec_of_headIs (i := .cal core task chk) rfl hd hop

end Sys2Proof.Machine
end

section
/-!
The sequencer: one instruction, an exception, and the push of a command (R203-R207); O56.
-/
namespace Sys2Proof.Machine

/-! ## One instruction -/

section
variable {s : State} {core k len : Nat} {chk : Check} {i : Rv} {b t : Task} {m : Mem} {rd rs1 : Nat} {imm : Int}

theorem x_zero : t.x 0 = 0 := if_pos rfl

theorem x_setX_same {v : DWord} (h0 : 0 < rd) (hlen : rd < t.xs.length) : (t.setX rd v).x rd = v := by
  rw [Task.x, Task.setX, if_neg h0.ne', if_neg h0.ne', List.getD_eq_getElem _ _ (by simpa using hlen), List.getElem_set_self]

/-- ADDI adds its immediate (R203). -/
theorem rvExec_addi : s.rvExec core k len t m (.opImm false 0 false rd rs1 imm) =
    some (({ t with pc := t.pc + len }).setX rd (t.x rs1 + BitVec.ofInt 64 imm), m, none) := rfl

/-- The part of a core that the landing of writes leaves. -/
theorem seqStore_frame {c : Core} {cyc : Nat} : (c.seqStore m cyc).tasks = c.tasks ∧ (c.late = [] → (c.seqStore m cyc).scratch = m) := by
  unfold Core.seqStore
  split
  next => exact ⟨rfl, fun _ => rfl⟩
  next h =>
    refine ⟨?_, fun idle => absurd (by rw [idle]; rfl) h⟩
    unfold Core.land
    rw [if_neg h]

/-- The core after an instruction that pushes nothing: its store lands, and its task has gone on. -/
def State.seqCore (s : State) (core k : Nat) (i : Rv) (b : Task) (m : Mem) : Core :=
  let n := 1 + (s.free 0).toNat
  { (s.core core).seqStore m (s.seqCycle core) with seqClock := s.seqCycle core + n }.setTask k (b.retire i n)

/-- An instruction that meets no corrected word retires. -/
theorem seqRetire_quiet (h : isLoad i = false ∨ chk = .clean) :
    s.seqRetire core k chk i b m none = (s.setCore core (s.seqCore core k i b m)).tookFree := by
  have quiet : ¬(isLoad i = true ∧ chk = .minor) := by
    rintro ⟨load, minor⟩
    rcases h with h | h
    · simp [h] at load
    · simp [h] at minor
  exact if_neg quiet

theorem task_seqCore_same (hlen : k < (s.core core).tasks.length) : (s.seqCore core k i b m).task k = b.retire i (1 + (s.free 0).toNat) :=
  Core.task_setTask_same (by rwa [seqStore_frame.1])

theorem task_seqCore_other {j : Nat} (h : j ≠ k) : (s.seqCore core k i b m).task j = (s.core core).task j :=
  (Core.task_setTask_other h).trans (congrArg (fun l : List Task => l.getD j Task.init) seqStore_frame.1)

section
variable (active : s.seqActive core = true)
include active

theorem sequencerInstruction_retires (run : ((s.core core).task (s.core core).seqTask).seq = .running)
    (fetch : (s.core core).rvFetch ((s.core core).task (s.core core).seqTask) = (i, len))
    (exec_ : s.rvExec core (s.core core).seqTask len ((s.core core).task (s.core core).seqTask) ((s.core core).seen fun _ => s.seqCycle core) i =
      some (b, m, none)) (h : isLoad i = false ∨ chk = .clean) :
    sequencerInstruction core chk s = (s.setCore core (s.seqCore core (s.core core).seqTask i b m)).tookFree := by
  have met : ¬(isLoad i = true ∧ (chk = .major ∨ chk = .spad)) := by
    rintro ⟨load, bad⟩
    rcases h with h | h
    · simp [h] at load
    · simp [h] at bad
  simp only [sequencerInstruction, active, Bool.true_eq_false, if_false, run, fetch, exec_]
  exact (if_neg met).trans (seqRetire_quiet h)

/-- An exception (R204). -/
theorem sequencerInstruction_halts (run : ((s.core core).task (s.core core).seqTask).seq = .running)
    (fetch : (s.core core).rvFetch ((s.core core).task (s.core core).seqTask) = (i, len))
    (exec_ : s.rvExec core (s.core core).seqTask len ((s.core core).task (s.core core).seqTask) ((s.core core).seen fun _ => s.seqCycle core) i = none) :
    sequencerInstruction core chk s = s.seqHalt core (s.core core).seqTask := by
  simp only [sequencerInstruction, active, Bool.true_eq_false, if_false, run, fetch, exec_]

/-- A task that waits or has stopped executes nothing. -/
theorem sequencerInstruction_idle {q : SeqState} (hq : q = .wfi ∨ q = .waitStep ∨ q = .halted ∨ q = .stopped ∨ q = .idle)
    (h : ((s.core core).task (s.core core).seqTask).seq = q) : sequencerInstruction core chk s = s := by
  rcases hq with rfl | rfl | rfl | rfl | rfl <;>
  simp only [sequencerInstruction, active, Bool.true_eq_false, if_false, h]

/-- A write of CMDHI (R205). -/
theorem cmdhi_pushes {task : Nat} {hi : DWord} (htask : (s.core core).seqTask = task) (run : ((s.core core).task task).seq = .running) :
    cmdhi core task hi s = s.modTask core task fun t => t.pushOrStall (cmdWordOf hi t.cmdLo) (s.seqCycle core) := by
  simp [cmdhi, active, htask, run]

end

/-- What a push leaves of the task. -/
theorem pushOrStall_frame {w : CmdWord} {cyc : Nat} : (t.pushOrStall w cyc).xs = t.xs ∧ (t.pushOrStall w cyc).pc = t.pc := by
  unfold Task.pushOrStall Task.push
  split
  · dsimp only
    split
    · exact ⟨rfl, rfl⟩
    · exact ⟨rfl, rfl⟩
  · exact ⟨rfl, rfl⟩

theorem pushOrStall_room {w : CmdWord} {cyc : Nat} (h : t.queue.length < t.qdepth) : (t.pushOrStall w cyc).queue = t.queue ++ [w] := by
  unfold Task.pushOrStall Task.push
  rw [if_pos h]
  dsimp only
  split
  · rfl
  · rfl

theorem pushOrStall_full {w : CmdWord} {cyc : Nat} (h : t.qdepth ≤ t.queue.length) : t.pushOrStall w cyc = { t with seq := .stallPush w } :=
  if_neg (not_lt.2 h)

end

/-- Settles O56: an instruction by the core that it leaves, a write of CMDHI by the push. -/
theorem sequencerRuns : Obligations.SequencerRuns := by
  intro s core active k a mem
  refine ⟨fun chk i len b m run hlen fetch hexec clean keeps => ?_, fun chk i len run fetch hexec => ?_, fun chk hq => ?_, fun len m rd rs1 imm => ?_,
    fun task hi htask run hlen => ?_⟩
  · obtain ⟨tasks, stored⟩ := seqStore_frame (c := s.core core) (m := m) (cyc := s.seqCycle core)
    have own : ((s.setCore core (s.seqCore core k i b m)).tookFree).core core = s.seqCore core k i b m := State.core_setCore.trans (if_pos rfl)
    have task : (s.seqCore core k i b m).task k = b.retire i (1 + (s.free 0).toNat) := task_seqCore_same hlen
    refine ⟨_, congrArg Host.Outcome.next (sequencerInstruction_retires active run fetch hexec clean), rfl, ?_⟩
    rw [own, task]
    refine ⟨fun n => rfl, rfl, rfl, stored, rfl, if_neg (by rw [keeps]; decide), rfl, fun j hj => task_seqCore_other hj,
      fun c hc => State.core_setCore.trans (if_neg hc)⟩
  · exact congrArg Host.Outcome.next (sequencerInstruction_halts active run fetch hexec)
  · exact congrArg Host.Outcome.next (sequencerInstruction_idle active hq rfl)
  · exact ⟨x_zero, fun h0 hrd => ⟨rvExec_addi, x_setX_same h0 hrd⟩⟩
  · have step := cmdhi_pushes (hi := hi) active htask.symm (htask ▸ run)
    obtain ⟨xs, pc⟩ := pushOrStall_frame (t := a) (w := cmdWordOf hi a.cmdLo) (cyc := s.seqCycle core)
    have own : ((cmdhi core task hi s).core core).task k = a.pushOrStall (cmdWordOf hi a.cmdLo) (s.seqCycle core) := by
      rw [step, htask]
      exact task_modTask_same hlen
    refine ⟨_, rfl, ?_, fun c hc => ?_, ?_⟩
    · rw [step]
      exact eq_of_shell modTask_shell
    · rw [step, core_modTask_other hc]
    · rw [own]
      refine ⟨pushOrStall_room, fun h => ?_, xs, pc⟩
      rw [pushOrStall_full h]
      exact ⟨rfl, rfl⟩

end Sys2Proof.Machine
end

section
/-!
Operand words without error, the tiles that they name, and the end of a copy (R215-R218, R229, R244, R246), for O47.
-/
namespace Sys2Proof.Machine

/-! ## Checks that pass -/

section
variable {x : Ctx} {l : List (Option CErr)} {e : CErr} {ok fields : Bool} {ops : List Opd} {h : Nat} {fmts : List Nat}

theorem firstErr_eq_none : firstErr l = none ↔ ∀ c ∈ l, c = none := by
  induction l with
  | nil => simp [firstErr]
  | cons c l ih =>
    cases c with
    | none => simpa [firstErr] using ih
    | some e => simp [firstErr]

theorem unlessOk_eq_none : unlessOk ok e = none ↔ ok = true := by
  cases ok <;> simp [unlessOk]

/-- Operand words without error: every operand is as its command asks, and the reserved fields are zero. -/
theorem operandCheck_eq_none (h : x.operandCheck ops fields = none) : (∀ o ∈ ops, x.opdOk o = true) ∧ fields = true := by
  simp only [Ctx.operandCheck, firstErr_eq_none, List.forall_mem_cons, unlessOk_eq_none, List.all_eq_true] at h
  obtain ⟨-, ok, zero, -⟩ := h
  exact ⟨ok, zero⟩

/-- A tile whose entry is in range (R229): its rows lie apart. -/
theorem pitch_of_tileOk {w : DWord} (h : tileOk w = true) : 256 ≤ (tileOf w).pitch := by
  simp only [tileOk, Bool.and_eq_true, decide_eq_true_eq] at h
  tauto

theorem pitch_of_opdOk (ok : x.opdOk ⟨h, true, fmts⟩ = true) : 256 ≤ (x.tile h).pitch := by
  unfold Ctx.opdOk at ok
  split at ok
  · cases ok
  · simp only [Bool.and_eq_true] at ok
    exact pitch_of_tileOk ok.1.2

end

/-! ## Rows of a tile -/

section
variable {t : Tile} {base r q j n k b : Nat} {m : Mem} {addr : Nat → Nat} {row : Nat → List Byte}

theorem rowAddr_apart (hp : 256 ≤ t.pitch) (hq : q < r) : t.rowAddr base q + 256 ≤ t.rowAddr base r := by
  have step : (q + 1) * t.pitch ≤ r * t.pitch := Nat.mul_le_mul_right _ hq
  rw [Nat.succ_mul] at step
  unfold Tile.rowAddr
  omega

theorem rowAddr_disjoint (hp : 256 ≤ t.pitch) (hq : q ≠ r) (hj : j < 256) :
    t.rowAddr base r + j < t.rowAddr base q ∨ t.rowAddr base q + 256 ≤ t.rowAddr base r + j := by
  rcases Nat.lt_or_gt_of_ne hq with h | h
  · have := rowAddr_apart (base := base) hp h
    omega
  · have := rowAddr_apart (base := base) hp h
    omega

theorem rowAddr_before_strip (hp : 256 ≤ t.pitch) (hr : r < t.rows) : t.rowAddr base r + 256 ≤ t.stripAddr base := rowAddr_apart hp hr

/-- Rows written one after another. -/
def Mem.writeRows (m : Mem) (addr : Nat → Nat) (row : Nat → List Byte) (n : Nat) : Mem :=
  (List.range n).foldl (fun m r => m.write (addr r) (row r)) m

theorem writeRows_succ : m.writeRows addr row (n + 1) = (m.writeRows addr row n).write (addr n) (row n) := by
  rw [Mem.writeRows, List.range_succ, List.foldl_append]
  rfl

theorem byte_writeRows_outside (h : ∀ q < n, b < addr q ∨ addr q + (row q).length ≤ b) : (m.writeRows addr row n).byte b = m.byte b := by
  induction n with
  | zero => rfl
  | succ n ih => rw [writeRows_succ, Mem.byte_write_outside (h n n.lt_succ_self), ih fun q hq => h q (by omega)]

/-- A byte of a row that no other row holds. -/
theorem byte_writeRows_inside (hr : r < n) (hj : j < (row r).length)
    (h : ∀ q < n, q ≠ r → addr r + j < addr q ∨ addr q + (row q).length ≤ addr r + j) :
    (m.writeRows addr row n).byte (addr r + j) = (row r).getD j 0 := by
  induction n with
  | zero => cases hr
  | succ n ih =>
    rw [writeRows_succ]
    by_cases last : r = n
    · subst last
      exact Mem.byte_write_inside hj
    · rw [Mem.byte_write_outside (h n n.lt_succ_self (Ne.symm last)), ih (by omega) fun q hq => h q (by omega)]

/-- A byte of a tile's row once its rows are written. -/
theorem byte_tileRows (hp : 256 ≤ t.pitch) (hlen : ∀ q < n, (row q).length = 256) (hr : r < n) (hj : j < 256) :
    (m.writeRows (t.rowAddr base) row n).byte (t.rowAddr base r + j) = (row r).getD j 0 :=
  byte_writeRows_inside hr (by rwa [hlen r hr]) fun q hq hne => by rw [hlen q hq]; exact rowAddr_disjoint hp hne hj

@[simp] theorem length_tileRow : (t.row m base r).length = 256 := Mem.length_read

theorem getD_tileRow (hj : j < 256) : (t.row m base r).getD j 0 = m.byte (t.rowAddr base r + j) := Mem.getD_read hj

end

/-! ## A command without errors in its reads -/

section
variable {s : State} {x : Ctx} {core task cls : Nat} {w : CmdWord}

theorem meets_clean (hchk : x.chk = .clean) (hinj : x.inj = none) : x.meets cls = .clean := by
  rw [Ctx.meets, hinj, hchk]

theorem spadCounts_clean (hchk : x.chk = .clean) (hinj : x.inj = none) : x.spadCounts = [] := by
  simp [Ctx.spadCounts, meets_clean hchk hinj, hchk]

theorem spadFx_clean (hchk : x.chk = .clean) (hinj : x.inj = none) : x.spadFx = [] := by
  simp [Ctx.spadFx, meets_clean hchk hinj, hchk]

theorem linkFx_clean {a b : Nat} (hinj : x.inj = none) : x.linkFx a b = [] := by
  rw [Ctx.linkFx, hinj]

theorem icc_timing (h : takesCredit (cwOpcode w) = false) : (s.timing core task w).icc = 0 := by
  unfold State.timing
  dsimp only
  rw [h]
  rfl

/-- With no write in flight a command's reads see its core. -/
theorem s_ctxOf_idle {chk : Check} (h : (s.core core).late = []) : (s.ctxOf core task w chk).s = s := sees_of_idle h

theorem c_ctxOf_idle {chk : Check} (h : (s.core core).late = []) : (s.ctxOf core task w chk).c = s.core core := by
  rw [Ctx.c, s_ctxOf_idle h]
  rfl

end

/-! ## The end of a command that leaves its core's tasks -/

/-- An operation that executes: it leaves the tasks of its core and the writes in flight, and its token counts at its end. -/
structure Out.Plain (o : Out) (c : Core) : Prop where
  go : o.stay = false
  counts : o.defer = false
  tasks : o.core.tasks = c.tasks
  late : o.core.late = c.late

section
variable {s : State} {core task : Nat} {w : CmdWord} {chk : Check} {o : Out} {k : Nat}

/-- The effects of a command elsewhere come after what it leaves of its own core. -/
theorem finishCmd_fx {x : Ctx} (hrem : remoteToken x = []) :
    s.finishCmd x o = (s.finishCmd x { o with fx := [] }).applyFxs x.core x.task (x.doneAt o) o.fx := by
  unfold State.finishCmd
  rw [hrem, List.append_nil]
  rfl

theorem tokensDone_of_counts {x : Ctx} {t : Task} (h : o.defer = false) : x.tokensDone o t.tokens = (t.doneToken x.w).tokens := by
  unfold Ctx.tokensDone Task.doneToken
  by_cases done : cwDone x.w = true
  · rw [if_pos ⟨done, h⟩, if_pos done]
    rfl
  · rw [if_neg fun e => done e.1, if_neg done]

/-- A command that executes without effects elsewhere: what `Issued` says, and the memories of its core. -/
theorem finishCmd_plain (head : s.issueHead core task = some w) (hcredit : takesCredit (cwOpcode w) = false)
    (hrem : remoteToken (s.ctxOf core task w chk) = []) (hfx : o.fx = []) (hp : o.Plain (s.core core)) :
    Issued s (s.finishCmd (s.ctxOf core task w chk) o) core task w ∧
    ((s.core core).late = [] → ((s.finishCmd (s.ctxOf core task w chk) o).core core).scratch = o.core.scratch) ∧
    ((s.finishCmd (s.ctxOf core task w chk) o).core core).dcm = o.core.dcm := by
  have hicc : (s.ctxOf core task w chk).tm.icc = 0 := icc_timing hcredit
  have own : (s.finishCmd (s.ctxOf core task w chk) o).core core = (s.ctxOf core task w chk).finished o :=
    (core_finishCmd hfx hrem hicc).trans (if_pos rfl)
  have task_ (j : Nat) : o.core.task j = (s.core core).task j := congrArg (fun l : List Task => l.getD j Task.init) hp.tasks
  obtain ⟨scratch, dcm, -⟩ := finished_frame (x := s.ctxOf core task w chk) (o := o)
  obtain ⟨q, done⟩ := task_finished_same (x := s.ctxOf core task w chk) (o := o) (by rw [hp.tasks]; exact lt_tasks_of_issueHead head)
  refine ⟨⟨?_, ?_, fun j hj => ?_, fun c hc => (core_finishCmd hfx hrem hicc).trans (if_neg hc), ?_⟩, fun h => ?_, own ▸ dcm⟩
  · rw [own]
    exact (congrArg Task.queue done).trans (congrArg (fun t : Task => t.queue.drop 1) (task_ task))
  · rw [own]
    exact (congrArg Task.tokens done).trans ((tokensDone_of_counts hp.counts).trans (congrArg (fun t : Task => (t.doneToken w).tokens) (task_ task)))
  · rw [own, task_finished_other hj, task_ j]
  · rw [finishCmd_eq hfx hrem hicc]
    rfl
  · rw [own, scratch (hp.late.trans h)]

end

end Sys2Proof.Machine
end

section
/-!
The bytes that the copies within a core move (R216, R218, R220, R246), for O47.
-/
namespace Sys2Proof.Machine

/-! ## Bytes in rows -/

section
variable {m : Mem} {a n r j : Nat} {row : Nat → List Byte} {tail bs cs : List Byte}

theorem Mem.write_append : m.write a (bs ++ cs) = (m.write a bs).write (a + bs.length) cs := by
  induction bs generalizing m a with
  | nil => rfl
  | cons b bs ih => simp only [List.cons_append, Mem.write, ih, List.length_cons, Nat.add_assoc, Nat.add_comm 1]

/-- Pieces of 32 bytes written one after another are one write. -/
theorem foldl_write_pieces (h : 32 * n ≤ bs.length) :
    (List.range n).foldl (fun m k => m.write (a + 32 * k) ((bs.drop (32 * k)).take 32)) m = m.write a (bs.take (32 * n)) := by
  induction n with
  | zero => rfl
  | succ n ih =>
    have split : bs.take (32 * (n + 1)) = bs.take (32 * n) ++ (bs.drop (32 * n)).take 32 := by rw [Nat.mul_succ, List.take_add]
    have len : (bs.take (32 * n)).length = 32 * n := List.length_take_of_le (by omega)
    rw [List.range_succ, List.foldl_append, ih (by omega), split, Mem.write_append, len]
    rfl

/-- With all eight lanes a row is written whole (R246). -/
theorem writeLanes_all (h : bs.length = 256) : writeLanes m a 0xFF bs = m.write a bs := by
  have all : ∀ k ∈ List.range 8, Nat.testBit 0xFF k = true := by decide
  have pieces := foldl_write_pieces (m := m) (a := a) (n := 8) (bs := bs) (by omega)
  rw [List.take_of_length_le (by omega)] at pieces
  exact (List.foldl_ext _ _ m fun m k hk => if_pos (all k hk)).trans pieces

theorem length_flatMap_rows (hlen : ∀ q < n, (row q).length = 256) : ((List.range n).flatMap row).length = 256 * n := by
  induction n with
  | zero => rfl
  | succ n ih =>
    rw [List.range_succ, List.flatMap_append, List.length_append, ih fun q hq => hlen q (by omega)]
    simp [hlen n n.lt_succ_self, Nat.mul_succ]

/-- A byte of rows laid one after another. -/
theorem getD_flatMap_rows (hlen : ∀ q < n, (row q).length = 256) (hr : r < n) (hj : j < 256) :
    ((List.range n).flatMap row ++ tail).getD (256 * r + j) 0 = (row r).getD j 0 := by
  induction n generalizing tail with
  | zero => cases hr
  | succ n ih =>
    have before := length_flatMap_rows fun q hq => hlen q (Nat.lt_succ_of_lt hq)
    rw [List.range_succ, List.flatMap_append, List.append_assoc]
    by_cases last : r = n
    · subst last
      have inside : j < (row r).length := by rwa [hlen r hr]
      rw [List.getD_append_right _ _ _ _ (by omega), before, Nat.add_sub_cancel_left, List.flatMap_singleton, List.getD_append _ _ _ _ inside]
    · exact ih (fun q hq => hlen q (by omega)) (by omega)

end

/-! ## What the commands leave of their core -/

section
variable {x : Ctx} {c : Core} {bytes cycles : Nat} {fx : List Fx}

/-- A copy's end: the bytes are counted, nothing of the core else. -/
def Core.copyEnd (c : Core) (bytes cycles : Nat) (fx : List Fx) : Out := { Out.of (c.copied bytes) cycles with fx := fx }

theorem copyEnd_plain {base : Core} (tasks : c.tasks = base.tasks) (late : c.late = base.late) : (c.copyEnd bytes cycles fx).Plain base :=
  ⟨rfl, rfl, tasks, late⟩

theorem copyEnd_frame : (c.copyEnd bytes cycles fx).core.scratch = c.scratch ∧ (c.copyEnd bytes cycles fx).core.dcm = c.dcm := ⟨rfl, rfl⟩

section
variable (hchk : x.chk = .clean) (hinj : x.inj = none)
include hchk hinj

theorem copyOut_clean : x.copyOut c bytes cycles fx = c.copyEnd bytes cycles fx := by
  rw [Ctx.copyOut, spadCounts_clean hchk hinj, spadFx_clean hchk hinj, List.append_nil]
  rfl

theorem fillRun_clean : fillRun x =
    ({ x.c with scratch := x.mem.writeRows (x.d.rowAddr x.base) (fun _ => x.a.row x.mem x.base 0) x.d.rows } : Core).copyEnd
      (256 * x.d.rows) (x.d.rows + 1) [] := copyOut_clean hchk hinj

theorem copywRun_clean : copywRun x =
    ({ x.c with scratch := x.d.writeFrom x.a x.base x.mem x.mem x.base } : Core).copyEnd x.a.bytes (x.a.units + 7) [] := copyOut_clean hchk hinj

/-- A DCM that is not lost is read as it stands, and the read counts nothing (R182, R186). -/
theorem dcmRead_clean {l : Nat} (hlost : (x.c.dcmInfo l).lost = false) : x.dcmReadCore l c = c ∧ x.dcmReadFx l = [] := by
  have uncorrected : x.dcmCorrected = false := by simp [Ctx.dcmCorrected, hinj, meets_clean hchk hinj]
  have unrebuilt : x.dcmRebuilt l = false := by simp [Ctx.dcmRebuilt, hinj, meets_clean hchk hinj, hlost]
  constructor
  · simp [Ctx.dcmReadCore, uncorrected, unrebuilt]
  · simp [Ctx.dcmReadFx, uncorrected, unrebuilt, meets_clean hchk hinj]

/-- DCM_RD of whole rows from a DCM that is not lost. -/
theorem dcmRdRun_rows (hrow : cwFlag12 x.w = false) (hmask : fld x.w 80 73 = 0) (hlost : (x.c.dcmInfo (dcmOf x)).lost = false) : dcmRdRun x =
    ({ x.c with scratch := x.mem.writeRows (x.d.rowAddr x.base) (fun r => x.c.dcmBytes (dcmOf x) (dcmRow x + r) 256) x.d.rows } : Core).copyEnd
      (256 * x.d.rows) (x.d.rows + 11 + 0 + x.dcmReadDelay (dcmOf x)) [] := by
  have lanes : laneMask x = 0xFF := if_pos hmask
  have whole (m : Mem) (a r : Nat) : writeLanes m a 0xFF (x.c.dcmBytes (dcmOf x) r 256) = m.write a (x.c.dcmBytes (dcmOf x) r 256) :=
    writeLanes_all Mem.length_read
  obtain ⟨core, fx⟩ := dcmRead_clean (c := { x.c with
    scratch := x.mem.writeRows (x.d.rowAddr x.base) (fun r => x.c.dcmBytes (dcmOf x) (dcmRow x + r) 256) x.d.rows }) hchk hinj hlost
  unfold dcmRdRun
  simp only [hrow, lanes, whole, Bool.false_eq_true, if_false]
  rw [fx]
  exact congrArg (fun c : Core => c.copyEnd _ _ _) core

/-- STG_IN of a dense tile. -/
theorem stgInRun_rows (hrow : cwFlag12 x.w = false) : ∃ bytes cycles, stgInRun x =
    ({ x.c with scratch := (x.mem.writeRows (x.d.rowAddr x.base) (fun r => ((x.s.staging.read (stageAddr x) x.d.bytes).drop (256 * r)).take 256) x.d.rows).write
                  (x.d.stripAddr x.base) ((x.s.staging.read (stageAddr x) x.d.bytes).drop (256 * x.d.rows)) } : Core).copyEnd bytes cycles [] := by
  unfold stgInRun
  simp only [hrow, meets_clean hchk hinj, linkFx_clean hinj, Bool.false_eq_true, if_false, reduceCtorEq]
  exact ⟨x.d.bytes, _, rfl⟩

end

section
variable (hlost : x.c.anyLost = false)
include hlost

theorem lost_of_anyLost {l : Nat} : (x.c.dcmInfo l).lost = false :=
  sget_of_forall (P := fun d : Dcm => d.lost = false) rfl (fun e he => by simpa using List.any_eq_false.1 hlost e he) l

/-- Without a lost DCM the data DCMs read as they stand. -/
theorem dcmView_of_anyLost : x.c.dcmView = x.c.dcm := if_neg (by rw [hlost]; decide)

theorem dcmStore_frame {m : Mem} : (x.c.dcmStore m).dcm = m ∧ (x.c.dcmStore m).scratch = x.c.scratch ∧ (x.c.dcmStore m).tasks = x.c.tasks ∧
    (x.c.dcmStore m).late = x.c.late := ⟨if_neg (by rw [hlost]; decide), rfl, rfl, rfl⟩

end

theorem rowsWritten_keeps {γ : Type} (π : Core → γ) (h : ∀ (c : Core) ds, π { c with dcms := ds } = π c) {l first n : Nat} :
    π (c.rowsWritten l first n) = π c := by
  unfold Core.rowsWritten
  split
  · split
    · exact h _ _
    · rfl
  · rfl

/-- DCM_WR of whole rows. -/
theorem dcmWrRun_rows (hchk : x.chk = .clean) (hinj : x.inj = none) (hrow : cwFlag12 x.w = false) (hmask : fld x.w 80 73 = 0)
    (hlost : x.c.anyLost = false) : (dcmWrRun x).fx = [] ∧ (dcmWrRun x).Plain x.c ∧ (dcmWrRun x).core.scratch = x.c.scratch ∧
    (dcmWrRun x).core.dcm = x.c.dcm.writeRows (fun r => dcmAddr (dcmOf x) (dcmRow x + r)) (fun r => x.a.row x.mem x.base r) x.a.rows := by
  have lanes : laneMask x = 0xFF := if_pos hmask
  have whole (m : Mem) (a r : Nat) : writeLanes m a 0xFF (x.a.row x.mem x.base r) = m.write a (x.a.row x.mem x.base r) := writeLanes_all length_tileRow
  obtain ⟨dcm, scratch, tasks, late⟩ := dcmStore_frame (x := x) hlost
    (m := x.c.dcm.writeRows (fun r => dcmAddr (dcmOf x) (dcmRow x + r)) (fun r => x.a.row x.mem x.base r) x.a.rows)
  unfold dcmWrRun
  simp only [hrow, lanes, whole, Bool.false_eq_true, if_false, if_true, dcmView_of_anyLost hlost, copyOut_clean hchk hinj]
  refine ⟨rfl, ⟨rfl, rfl, (rowsWritten_keeps Core.tasks fun _ _ => rfl).trans tasks, (rowsWritten_keeps Core.late fun _ _ => rfl).trans late⟩,
    (rowsWritten_keeps Core.scratch fun _ _ => rfl).trans scratch, (rowsWritten_keeps Core.dcm fun _ _ => rfl).trans dcm⟩

end

end Sys2Proof.Machine
end

section
/-!
Bytes that a PUT writes into another core, in the order in which they land (R212, R218, R221), for O47.
-/
namespace Sys2Proof.Machine

/-! ## The order of landing does not matter to a byte that is written once -/

section
variable {m : Mem} {l : List LateWrite} {e : LateWrite} {a b u : Nat} {y : Byte} {bs : List Byte}

/-- Writes put into a memory one after another. -/
def Mem.putAll (m : Mem) (l : List LateWrite) : Mem := l.foldl (fun m e => m.put e.addr e.byte) m

theorem insertLate_perm : (insertLate e l).Perm (e :: l) := by
  induction l with
  | nil => rfl
  | cons f l ih =>
    unfold insertLate
    split
    · rfl
    · exact (ih.cons f).trans (List.Perm.swap e f l)

theorem landing_perm : (landing l).Perm l := by
  induction l using List.reverseRecOn with
  | nil => rfl
  | append_singleton l e ih =>
    have last : landing (l ++ [e]) = insertLate e (landing l) := List.foldl_append
    rw [last]
    exact insertLate_perm.trans ((ih.cons e).trans (List.perm_append_singleton e l).symm)

/-- Where all writes of an address write the same byte, it stands whatever their order. -/
theorem byte_putAll (same : ∀ e ∈ l, e.addr = b → e.byte = y) (some_ : (∃ e ∈ l, e.addr = b) ∨ m.byte b = y) : (m.putAll l).byte b = y := by
  induction l generalizing m with
  | nil => exact some_.resolve_left (by simp)
  | cons e l ih =>
    refine ih (fun f hf => same f (List.mem_cons_of_mem e hf)) ?_
    rw [Mem.byte_put]
    by_cases h : b = e.addr
    · rw [if_pos h]
      exact .inr (same e List.mem_cons_self h.symm)
    · rw [if_neg h]
      refine some_.imp_left ?_
      rintro ⟨f, hf, hb⟩
      exact ⟨f, (List.mem_cons.1 hf).resolve_left fun e => h (e ▸ hb.symm), hb⟩

theorem mem_lateWrites : e ∈ lateWrites a bs u ↔ ∃ i, i < bs.length ∧ e = { cycle := u, addr := a + i, byte := bs.getD i 0 } := by
  simp only [lateWrites, List.mem_mapIdx]
  constructor
  · rintro ⟨i, hi, rfl⟩
    exact ⟨i, hi, by rw [List.getD_eq_getElem _ _ hi]⟩
  · rintro ⟨i, hi, rfl⟩
    exact ⟨i, hi, by rw [List.getD_eq_getElem _ _ hi]⟩

end

/-! ## Writes that land in a core -/

/-- What a core holds whose writes in flight are l, over the scratchpad m. -/
def Core.LandedOn (c : Core) (m : Mem) (l : List LateWrite) : Prop := c.late = l ∧ c.scratch = m.putAll (landing l) ∧ (l ≠ [] → c.old = m)

section
variable {c : Core} {m : Mem} {l : List LateWrite} {a u : Nat} {bs : List Byte}

theorem landedOn_idle (h : c.late = []) : c.LandedOn c.scratch [] := ⟨h, rfl, fun e => absurd rfl e⟩

theorem landedOn_landBytes (h : c.LandedOn m l) : (c.landBytes a bs u).LandedOn m (l ++ lateWrites a bs u) := by
  obtain ⟨late, scratch, old⟩ := h
  by_cases hl : l = []
  · subst hl
    have start : c.scratch = m := scratch
    rw [landBytes_idle late, List.nil_append, start]
    refine ⟨rfl, ?_, fun h => if_neg (by simpa using h)⟩
    rw [landing_lateWrites]
    exact foldl_put_lateWrites.symm
  · have busy : ¬c.late.isEmpty = true := by rw [late]; simpa using hl
    unfold Core.landBytes
    rw [if_neg busy, late, old hl]
    exact ⟨rfl, rfl, fun _ => rfl⟩

theorem landBytes_tasks : (c.landBytes a bs u).tasks = c.tasks := by
  unfold Core.landBytes
  dsimp only
  split
  · rfl
  · rfl

end

/-! ## Writes that a command sends to another core -/

section
variable {s t : State} {core task done c : Nat} {w : Nat × Nat × List Byte} {ws : List (Nat × Nat × List Byte)} {k : Core}

/-- Bytes of address, lead over the command's end and contents as they arrive in a core. -/
def State.arrive (s : State) (core c done : Nat) (k : Core) (w : Nat × Nat × List Byte) : Core :=
  if (s.region (regionOf c)).run.isSome then k.landBytes w.1 w.2.2 (s.cycleIn (regionOf core) (regionOf c) (done - w.2.1)) else k.spadWrite w.1 w.2.2 0

/-- The effect that sends them. -/
def spadFxOf (c : Nat) (w : Nat × Nat × List Byte) : Fx := .spad c w.1 w.2.1 w.2.2

theorem applyFx_spadFxOf : s.applyFx core task done (spadFxOf c w) = s.setCore c (s.arrive core c done (s.core c) w) := by
  unfold State.arrive
  show (if (s.region (regionOf c)).run.isSome then _ else _) = _
  split
  · rfl
  · rfl

theorem applyFxs_spads : (s.applyFxs core task done (ws.map (spadFxOf c))).shell = s.shell ∧
    (∀ j, j ≠ c → (s.applyFxs core task done (ws.map (spadFxOf c))).core j = s.core j) ∧
    (s.applyFxs core task done (ws.map (spadFxOf c))).core c = ws.foldl (s.arrive core c done) (s.core c) := by
  induction ws generalizing s with
  | nil => exact ⟨rfl, fun _ _ => rfl, rfl⟩
  | cons w ws ih =>
    obtain ⟨shell, others, own⟩ := ih (s := s.setCore c (s.arrive core c done (s.core c) w))
    have first : s.applyFxs core task done ((w :: ws).map (spadFxOf c)) =
        (s.setCore c (s.arrive core c done (s.core c) w)).applyFxs core task done (ws.map (spadFxOf c)) := by
      rw [← applyFx_spadFxOf (task := task)]
      rfl
    rw [first]
    refine ⟨shell, fun j hj => (others j hj).trans (State.core_setCore.trans (if_neg hj)), own.trans ?_⟩
    rw [State.core_setCore, if_pos rfl]
    rfl

/-- The writes of bytes that arrive, each in the cycle that the function gives. -/
def arrivalWrites (cyc : Nat × Nat × List Byte → Nat) (ws : List (Nat × Nat × List Byte)) : List LateWrite :=
  ws.flatMap fun w => lateWrites w.1 w.2.2 (cyc w)

theorem foldl_write_arrivalWrites {m : Mem} : ws.foldl (fun m w => m.write w.1 w.2.2) m = m.putAll (arrivalWrites (fun _ => 0) ws) := by
  induction ws generalizing m with
  | nil => rfl
  | cons w ws ih =>
    rw [List.foldl_cons, ih, ← foldl_put_lateWrites (u := 0)]
    exact List.foldl_append.symm

theorem foldl_landBytes {m : Mem} {l : List LateWrite} {cyc : Nat × Nat × List Byte → Nat} (h : k.LandedOn m l) :
    (ws.foldl (fun k w => k.landBytes w.1 w.2.2 (cyc w)) k).LandedOn m (l ++ arrivalWrites cyc ws) := by
  induction ws generalizing k l with
  | nil => rwa [arrivalWrites, List.flatMap_nil, List.append_nil]
  | cons w ws ih =>
    have next := ih (landedOn_landBytes (a := w.1) (bs := w.2.2) (u := cyc w) h)
    rwa [List.append_assoc] at next

theorem foldl_spadWrite (h : k.late = []) : ws.foldl (fun k w => k.spadWrite w.1 w.2.2 0) k =
    { k with scratch := ws.foldl (fun m w => m.write w.1 w.2.2) k.scratch } := by
  induction ws generalizing k with
  | nil => rfl
  | cons w ws ih =>
    have first : k.spadWrite w.1 w.2.2 0 = { k with scratch := k.scratch.write w.1 w.2.2 } := if_pos (by rw [h]; rfl)
    rw [List.foldl_cons, first]
    exact ih (k := { k with scratch := k.scratch.write w.1 w.2.2 }) h

/-- What arrives in a core with no write in flight is put into its scratchpad in some order; its tasks stay. -/
theorem foldl_arrive (h : k.late = []) : (ws.foldl (s.arrive core c done) k).tasks = k.tasks ∧
    ∃ cyc l, l.Perm (arrivalWrites cyc ws) ∧ (ws.foldl (s.arrive core c done) k).scratch = k.scratch.putAll l := by
  by_cases run : (s.region (regionOf c)).run.isSome = true
  · have step : s.arrive core c done = fun k w => k.landBytes w.1 w.2.2 (s.cycleIn (regionOf core) (regionOf c) (done - w.2.1)) :=
      funext fun k => funext fun w => if_pos run
    rw [step]
    obtain ⟨-, scratch, -⟩ := foldl_landBytes (ws := ws) (cyc := fun w => s.cycleIn (regionOf core) (regionOf c) (done - w.2.1)) (landedOn_idle h)
    exact ⟨foldl_keeps Core.tasks (fun _ _ => landBytes_tasks) _ _, _, _, landing_perm, scratch⟩
  · have step : s.arrive core c done = fun k w => k.spadWrite w.1 w.2.2 0 := funext fun k => funext fun w => if_neg run
    rw [step, foldl_spadWrite h]
    exact ⟨rfl, _, _, .refl _, foldl_write_arrivalWrites⟩

end

/-! ## Rows and strip of a tile -/

section
variable {t : Tile} {base n : Nat} {row : Nat → List Byte} {back : Nat → Nat} {strip : List Byte} {stripBack : Nat}

/-- The rows of a tile, then its strip, as they are sent. -/
def Tile.sent (t : Tile) (base n : Nat) (row : Nat → List Byte) (back : Nat → Nat) (stripBack : Nat) (strip : List Byte) : List (Nat × Nat × List Byte) :=
  (List.range n).map (fun r => (t.rowAddr base r, back r, row r)) ++ [(t.stripAddr base, stripBack, strip)]

/-- A byte of a row, once the rows have arrived in any order. -/
theorem byte_sent {m : Mem} {l : List LateWrite} {cyc : Nat × Nat × List Byte → Nat} {r j : Nat} (hp : 256 ≤ t.pitch) (hn : n ≤ t.rows)
    (hlen : ∀ q < n, (row q).length = 256) (hl : l.Perm (arrivalWrites cyc (t.sent base n row back stripBack strip))) (hr : r < n) (hj : j < 256) :
    (m.putAll l).byte (t.rowAddr base r + j) = (row r).getD j 0 := by
  refine byte_putAll (fun e he haddr => ?_) (.inl ?_)
  · obtain ⟨w, hw, hew⟩ := List.mem_flatMap.1 (hl.mem_iff.1 he)
    obtain ⟨i, hi, rfl⟩ := mem_lateWrites.1 hew
    rcases List.mem_append.1 hw with hw | hw
    · obtain ⟨q, hq, rfl⟩ := List.mem_map.1 hw
      have hq := List.mem_range.1 hq
      dsimp only at haddr hi ⊢
      rw [hlen q hq] at hi
      by_cases hqr : q = r
      · subst hqr
        rw [Nat.add_left_cancel haddr]
      · have := rowAddr_disjoint (base := base) hp hqr hj
        omega
    · obtain rfl := List.mem_singleton.1 hw
      have := rowAddr_before_strip (base := base) hp (hr.trans_le hn)
      dsimp only at haddr
      omega
  · have sent : (t.rowAddr base r, back r, row r) ∈ t.sent base n row back stripBack strip :=
      List.mem_append_left _ (List.mem_map_of_mem (List.mem_range.2 hr))
    exact ⟨_, hl.mem_iff.2 (List.mem_flatMap.2 ⟨_, sent, mem_lateWrites.2 ⟨j, by rwa [hlen r hr], rfl⟩⟩), rfl⟩

end

end Sys2Proof.Machine
end

section
/-!
The copies, each as its operand words give it (R216, R218, R220, R246, R254); O47.
-/
namespace Sys2Proof.Machine

/-! ## Commands within a core -/

/-- What the clauses share: a head that may issue, no write in flight in its core's scratchpad, and no DCM of the core lost. -/
structure CopyHead (s : State) (core : Fin 256) (task : Fin 4) (w : CmdWord) : Prop where
  head : s.headIs core task w
  late : (s.core core).late = []
  lost : (s.core core).anyLost = false

/-- A command that reaches no other core and draws no current credit. -/
def withinCore (op : Nat) : Prop := takesCredit op = false ∧ op ≠ 0x07 ∧ op ≠ 0x52

section
variable {s : State} {core : Fin 256} {task : Fin 4} {w : CmdWord} {i : Instr} {op bytes cycles : Nat} {check : Ctx → Option CErr} {run : Ctx → Out}
  {c : Core} {x : Ctx}

theorem clean_of_ctxOf (hx : x = s.ctxOf core task w .clean) : x.chk = .clean ∧ x.inj = none ∧ x.w = w := by
  subst hx
  exact ⟨rfl, rfl, rfl⟩

variable (h : CopyHead s core task w) (hx : x = s.ctxOf core task w .clean)
include h hx

theorem copyHead_s : x.s = s := by rw [hx]; exact s_ctxOf_idle h.late

theorem copyHead_c : x.c = s.core core := by rw [hx]; exact c_ctxOf_idle h.late

theorem copyHead_mem : x.mem = (s.core core).scratch := congrArg Core.scratch (copyHead_c h hx)

section
variable (hrow : tileRow i = some ⟨op, core, task, .clean, check, run⟩) (hop : cwOpcode w = op) (within : withinCore op)
  (hcheck : check x = none) (room : s.roomFor x (run x) = true)
include hrow hop within hcheck room

/-- A command within its core that passes its check and finds room. -/
theorem exec_plain (hfx : (run x).fx = []) (hp : (run x).Plain (s.core core)) :
    ∃ t, exec i s = .next t ∧ Issued s t core task w ∧ (t.core core).scratch = (run x).core.scratch ∧ (t.core core).dcm = (run x).core.dcm := by
  subst hx hop
  obtain ⟨credit, put, tsend⟩ := within
  obtain ⟨issued, scratch, dcm⟩ := finishCmd_plain h.head.1 credit (remoteToken_other put tsend) hfx hp
  exact ⟨_, (tileCommandsComplete i _ s w hrow h.head rfl).1 hcheck hp.go room, issued, scratch h.late, dcm⟩

/-- A copy within its core whose end leaves c. -/
theorem exec_copyEnd (hrun : run x = c.copyEnd bytes cycles []) (htasks : c.tasks = x.c.tasks) (hlate : c.late = x.c.late) :
    ∃ t, exec i s = .next t ∧ Issued s t core task w ∧ (t.core core).scratch = c.scratch ∧ (t.core core).dcm = c.dcm := by
  rw [copyHead_c h hx] at htasks hlate
  have plain : (run x).Plain (s.core core) := by rw [hrun]; exact copyEnd_plain htasks hlate
  have out := exec_plain h hx hrow hop within hcheck room (by rw [hrun]; rfl) plain
  rwa [hrun] at out

end

theorem nop_moves (hop : cwOpcode w = 0x00) (hcheck : nopCheck x = none) (room : s.roomFor x (nopRun x) = true) :
    ∃ t, exec (.nop core task .clean) s = .next t ∧ Issued s t core task w ∧
      (t.core core).scratch = (s.core core).scratch ∧ (t.core core).dcm = (s.core core).dcm := by
  have own := copyHead_c h hx
  rw [← own]
  exact exec_plain (i := .nop core task .clean) h hx rfl hop ⟨rfl, by decide, by decide⟩ hcheck room rfl ⟨rfl, rfl, congrArg Core.tasks own, congrArg Core.late own⟩

theorem fill_moves (hop : cwOpcode w = 0x01) (hcheck : fillCheck x = none) (room : s.roomFor x (fillRun x) = true) :
    ∃ t, exec (.fill core task .clean) s = .next t ∧ Issued s t core task w ∧
      (∀ r < x.d.rows, ∀ j < 256, (t.core core).scratch.byte (x.d.rowAddr x.base r + j) = (s.core core).scratch.byte (x.a.rowAddr x.base 0 + j)) ∧
      ∀ a, (∀ r < x.d.rows, a < x.d.rowAddr x.base r ∨ x.d.rowAddr x.base r + 256 ≤ a) → (t.core core).scratch.byte a = (s.core core).scratch.byte a := by
  obtain ⟨chk, inj, -⟩ := clean_of_ctxOf hx
  obtain ⟨t, ht, issued, scratch, -⟩ := exec_copyEnd (i := .fill core task .clean) h hx rfl hop ⟨rfl, by decide, by decide⟩ hcheck room (fillRun_clean chk inj) rfl rfl
  simp only [fillCheck, firstErr_eq_none, List.forall_mem_cons] at hcheck
  have hp : 256 ≤ x.d.pitch := pitch_of_opdOk ((operandCheck_eq_none hcheck.1).1 _ List.mem_cons_self)
  have mem := copyHead_mem h hx
  refine ⟨t, ht, issued, fun r hr j hj => ?_, fun a apart => ?_⟩
  · rw [scratch, ← mem, byte_tileRows hp (fun _ _ => length_tileRow) hr hj, getD_tileRow hj]
  · rw [scratch, ← mem]
    exact byte_writeRows_outside fun q hq => by rw [length_tileRow]; exact apart q hq

theorem copyw_moves (hop : cwOpcode w = 0x02) (hcheck : copywCheck x = none) (room : s.roomFor x (copywRun x) = true) :
    ∃ t, exec (.copyw core task .clean) s = .next t ∧ Issued s t core task w ∧
      (∀ r < x.a.rows, ∀ j < 256, (t.core core).scratch.byte (x.d.rowAddr x.base r + j) = (s.core core).scratch.byte (x.a.rowAddr x.base r + j)) ∧
      (∀ j < stripLen x.a.fmt x.a.rows, (t.core core).scratch.byte (x.d.stripAddr x.base + j) = (s.core core).scratch.byte (x.a.stripAddr x.base + j)) := by
  obtain ⟨chk, inj, -⟩ := clean_of_ctxOf hx
  obtain ⟨t, ht, issued, scratch, -⟩ := exec_copyEnd (i := .copyw core task .clean) h hx rfl hop ⟨rfl, by decide, by decide⟩ hcheck room (copywRun_clean chk inj) rfl rfl
  have bytes : (t.core core).scratch = (x.mem.writeRows (x.d.rowAddr x.base) (fun r => x.a.row x.mem x.base r) x.a.rows).write (x.d.stripAddr x.base)
      (x.mem.read (x.a.stripAddr x.base) (stripLen x.a.fmt x.a.rows)) := scratch
  simp only [copywCheck, firstErr_eq_none, List.forall_mem_cons, unlessOk_eq_none, Tile.fits, Bool.and_eq_true, decide_eq_true_eq] at hcheck
  obtain ⟨operands, ⟨rows, -⟩, -⟩ := hcheck
  have hp : 256 ≤ x.d.pitch := pitch_of_opdOk ((operandCheck_eq_none operands).1 _ List.mem_cons_self)
  have mem := copyHead_mem h hx
  refine ⟨t, ht, issued, fun r hr j hj => ?_, fun j hj => ?_⟩
  · have before := rowAddr_before_strip (base := x.base) hp (hr.trans_le rows)
    rw [bytes, Mem.byte_write_outside (.inl (by omega)), ← mem, byte_tileRows hp (fun _ _ => length_tileRow) hr hj, getD_tileRow hj]
  · rw [bytes, ← mem, Mem.byte_write_read hj]

theorem dcmRd_moves (hop : cwOpcode w = 0x03) (hrow : cwFlag12 w = false) (hmask : fld w 80 73 = 0) (hcheck : dcmRdCheck x = none)
    (room : s.roomFor x (dcmRdRun x) = true) :
    ∃ t, exec (.dcmRd core task .clean) s = .next t ∧ Issued s t core task w ∧ (t.core core).dcm = (s.core core).dcm ∧
      ∀ r < x.d.rows, ∀ j < 256, (t.core core).scratch.byte (x.d.rowAddr x.base r + j) =
        (s.core core).dcm.byte (dcmAddr (dcmOf x) (dcmRow x + r) + j) := by
  obtain ⟨chk, inj, word⟩ := clean_of_ctxOf hx
  have lost : x.c.anyLost = false := by rw [copyHead_c h hx]; exact h.lost
  obtain ⟨t, ht, issued, scratch, dcm⟩ := exec_copyEnd (i := .dcmRd core task .clean) h hx rfl hop ⟨rfl, by decide, by decide⟩ hcheck room
    (dcmRdRun_rows chk inj (by rwa [word]) (by rwa [word]) (lost_of_anyLost lost)) rfl rfl
  simp only [dcmRdCheck, firstErr_eq_none, List.forall_mem_cons] at hcheck
  have hp : 256 ≤ x.d.pitch := pitch_of_opdOk ((operandCheck_eq_none hcheck.1).1 _ List.mem_cons_self)
  have own : x.c.dcm = (s.core core).dcm := congrArg Core.dcm (copyHead_c h hx)
  refine ⟨t, ht, issued, dcm.trans own, fun r hr j hj => ?_⟩
  rw [scratch, ← own, ← dcmView_of_anyLost lost]
  exact (byte_tileRows (row := fun r => x.c.dcmBytes (dcmOf x) (dcmRow x + r) 256) hp (fun _ _ => Mem.length_read) hr hj).trans (Mem.getD_read hj)

theorem dcmWr_moves (hop : cwOpcode w = 0x04) (hrow : cwFlag12 w = false) (hmask : fld w 80 73 = 0) (hcheck : dcmWrCheck x = none)
    (room : s.roomFor x (dcmWrRun x) = true) :
    ∃ t, exec (.dcmWr core task .clean) s = .next t ∧ Issued s t core task w ∧ (t.core core).scratch = (s.core core).scratch ∧
      ∀ r < x.a.rows, ∀ j < 256, (t.core core).dcm.byte (dcmAddr (dcmOf x) (dcmRow x + r) + j) = (s.core core).scratch.byte (x.a.rowAddr x.base r + j) := by
  obtain ⟨chk, inj, word⟩ := clean_of_ctxOf hx
  have own := copyHead_c h hx
  obtain ⟨fx, plain, kept, written⟩ := dcmWrRun_rows chk inj (by rwa [word]) (by rwa [word]) (by rw [own]; exact h.lost)
  obtain ⟨t, ht, issued, scratch, dcm⟩ := exec_plain (i := .dcmWr core task .clean) h hx rfl hop ⟨rfl, by decide, by decide⟩ hcheck room fx (own ▸ plain)
  refine ⟨t, ht, issued, scratch.trans (kept.trans (congrArg Core.scratch own)), fun r hr j hj => ?_⟩
  rw [dcm, written, byte_writeRows_inside (addr := fun r => dcmAddr (dcmOf x) (dcmRow x + r)) hr (by rwa [length_tileRow]) fun q _ hne => ?_,
    getD_tileRow hj, copyHead_mem h hx]
  rw [length_tileRow]
  unfold dcmAddr
  omega

theorem stgIn_moves (hop : cwOpcode w = 0x08) (hrow : cwFlag12 w = false) (hcheck : stgInCheck x = none) (room : s.roomFor x (stgInRun x) = true) :
    ∃ t, exec (.stgIn core task .clean) s = .next t ∧ Issued s t core task w ∧ ∀ r < x.d.rows, ∀ j < 256,
      (t.core core).scratch.byte (x.d.rowAddr x.base r + j) = s.staging.byte (stageAddr x + 256 * r + j) := by
  obtain ⟨chk, inj, word⟩ := clean_of_ctxOf hx
  obtain ⟨bytes, cycles, hrun⟩ := stgInRun_rows chk inj (by rwa [word])
  obtain ⟨t, ht, issued, scratch, -⟩ := exec_copyEnd (i := .stgIn core task .clean) h hx rfl hop ⟨rfl, by decide, by decide⟩ hcheck room hrun rfl rfl
  simp only [stgInCheck, firstErr_eq_none, List.forall_mem_cons] at hcheck
  have hp : 256 ≤ x.d.pitch := pitch_of_opdOk ((operandCheck_eq_none hcheck.1).1 _ List.mem_cons_self)
  have piece (q : Nat) (hq : q < x.d.rows) : ((x.s.staging.read (stageAddr x) x.d.bytes).drop (256 * q)).take 256 =
      x.s.staging.read (stageAddr x + 256 * q) 256 := Mem.read_drop_take (by unfold Tile.bytes; omega)
  refine ⟨t, ht, issued, fun r hr j hj => ?_⟩
  have before := rowAddr_before_strip (base := x.base) hp hr
  rw [scratch, Mem.byte_write_outside (.inl (by omega)),
    byte_tileRows hp (fun q hq => by rw [piece q hq, Mem.length_read]) hr hj, piece r hr, Mem.getD_read hj, copyHead_s h hx]

end

end Sys2Proof.Machine
end

section
/-!
Copies that leave their core: STG_OUT, PUT and TSEND (R218, R220, R221, R246, R254); O47.
-/
namespace Sys2Proof.Machine

section
variable {s : State} {core : Fin 256} {task : Fin 4} {w : CmdWord} {i : Instr} {op bytes cycles : Nat} {check : Ctx → Option CErr} {run : Ctx → Out}
  {x : Ctx} {fx : List Fx}
variable (h : CopyHead s core task w) (hx : x = s.ctxOf core task w .clean)
include h hx

/-- A copy that leaves its core as it was but for the count: what it leaves of its core, then its effects elsewhere. -/
theorem exec_copyEnd_fx (hrow : tileRow i = some ⟨op, core, task, .clean, check, run⟩) (hop : cwOpcode w = op) (hcredit : takesCredit op = false)
    (hrem : remoteToken x = []) (hcheck : check x = none) (room : s.roomFor x (run x) = true) (hrun : run x = x.c.copyEnd bytes cycles fx) :
    ∃ t done, exec i s = .next (t.applyFxs core task done fx) ∧ Issued s t core task w ∧ (t.core core).scratch = (s.core core).scratch := by
  have own := copyHead_c h hx
  have tasks : x.c.tasks = (s.core core).tasks := congrArg Core.tasks own
  have late : x.c.late = (s.core core).late := congrArg Core.late own
  have mem : x.c.scratch = (s.core core).scratch := congrArg Core.scratch own
  have go := (tileCommandsComplete i _ s w hrow h.head hop).1
  subst hx hop
  dsimp only at go
  rw [hrun, finishCmd_fx hrem] at go
  rw [hrun] at room
  obtain ⟨issued, scratch, -⟩ := finishCmd_plain (o := (s.ctxOf core task w .clean).c.copyEnd bytes cycles []) h.head.1 hcredit hrem rfl
    (copyEnd_plain tasks late)
  exact ⟨_, _, go hcheck rfl room, issued, (scratch h.late).trans mem⟩

/-! ## STG_OUT -/

omit h in
/-- STG_OUT of a dense tile. -/
theorem stgOutRun_dense (hrow : cwFlag12 w = false) : ∃ bytes cycles, stgOutRun x = x.c.copyEnd bytes cycles [.stage (stageAddr x) (x.a.dense x.mem x.base)] := by
  obtain ⟨chk, inj, word⟩ := clean_of_ctxOf hx
  unfold stgOutRun stgOutBytes
  simp only [word, hrow, linkFx_clean inj, copyOut_clean chk inj, Bool.false_and, Bool.false_eq_true, if_false, List.append_nil]
  exact ⟨_, _, rfl⟩

theorem stgOut_moves (hop : cwOpcode w = 0x09) (hrow : cwFlag12 w = false) (hcheck : stgOutCheck x = none) (room : s.roomFor x (stgOutRun x) = true) :
    ∃ t, exec (.stgOut core task .clean) s = .next t ∧ t = { s with cores := t.cores, freeCtr := s.freeCtr + 1, staging := t.staging } ∧
      (t.core core).scratch = (s.core core).scratch ∧
      (∀ r < x.a.rows, ∀ j < 256, t.staging.byte (stageAddr x + 256 * r + j) = (s.core core).scratch.byte (x.a.rowAddr x.base r + j)) ∧
      ∀ a, a < stageAddr x ∨ stageAddr x + denseLen x.a.fmt x.a.rows ≤ a → t.staging.byte a = s.staging.byte a := by
  obtain ⟨bytes, cycles, hrun⟩ := stgOutRun_dense hx hrow
  obtain ⟨-, -, word⟩ := clean_of_ctxOf hx
  obtain ⟨t, done, ht, ⟨-, -, -, -, frame⟩, scratch⟩ := exec_copyEnd_fx (i := .stgOut core task .clean) h hx rfl hop rfl
    (remoteToken_other (by simp [word, hop]) (by simp [word, hop])) hcheck room hrun
  have staged : t.applyFxs core task done [.stage (stageAddr x) (x.a.dense x.mem x.base)] =
      { t with staging := s.staging.write (stageAddr x) (x.a.dense x.mem x.base) } := by rw [frame]; rfl
  rw [staged] at ht
  have rows : ∀ q < x.a.rows, (x.a.row x.mem x.base q).length = 256 := fun _ _ => length_tileRow
  have len : (x.a.dense x.mem x.base).length = denseLen x.a.fmt x.a.rows := by
    rw [Tile.dense, List.length_append, length_flatMap_rows rows, Mem.length_read, denseLen, Nat.mul_comm]
  refine ⟨_, ht, by rw [frame], scratch, fun r hr j hj => ?_, fun a outside => Mem.byte_write_outside (by rwa [len])⟩
  have inside : 256 * r + j < (x.a.dense x.mem x.base).length := by
    rw [len, denseLen]
    omega
  rw [Nat.add_assoc, Mem.byte_write_inside inside, Tile.dense, getD_flatMap_rows rows hr hj, getD_tileRow hj, copyHead_mem h hx]

end

/-! ## PUT and TSEND to another core -/

/-- What a PUT sends to its destination core: each row of A, then its strip. -/
def Ctx.putWrites (x : Ctx) : List (Nat × Nat × List Byte) :=
  (tileOf x.remoteHandle).sent x.remoteTask.base x.a.rows (fun r => x.a.row x.mem x.base r) (fun r => x.putTail + x.a.units - r) (x.putTail + 1)
    (x.mem.read (x.a.stripAddr x.base) (stripLen x.a.fmt x.a.rows))

section
variable {x : Ctx}

theorem putFx_eq : putFx x = x.putWrites.map (spadFxOf (cwDestCore x.w)) := by
  unfold putFx Ctx.putWrites Tile.sent
  rw [List.map_append, List.map_map]
  rfl

theorem putRun_away (away : cwDestCore x.w ≠ x.core) (hchk : x.chk = .clean) (hinj : x.inj = none) :
    ∃ bytes cycles, putRun x = x.c.copyEnd bytes cycles (x.putWrites.map (spadFxOf (cwDestCore x.w))) := by
  unfold putRun
  rw [if_neg away, linkFx_clean hinj, List.append_nil, putFx_eq, copyOut_clean hchk hinj]
  exact ⟨_, _, rfl⟩

/-- The destination tile of a PUT to another core holds the source (R254). -/
theorem remote_of_putCheck (away : cwDestCore x.w ≠ x.core) (h : putCheck x = none) :
    256 ≤ (tileOf x.remoteHandle).pitch ∧ x.a.rows ≤ (tileOf x.remoteHandle).rows := by
  unfold putCheck at h
  rw [if_neg away] at h
  simp only [firstErr_eq_none, List.forall_mem_cons, unlessOk_eq_none, Ctx.remoteOk, Tile.fits, Bool.and_eq_true, decide_eq_true_eq] at h
  obtain ⟨-, ⟨⟨⟨-, tile⟩, -⟩, rows, -⟩, -⟩ := h
  exact ⟨pitch_of_tileOk tile, rows⟩

theorem remoteToken_unasked (h : cwRemtok x.w = false) : remoteToken x = [] := by simp [remoteToken, h]

end

section
variable {s : State} {core : Fin 256} {task : Fin 4} {w : CmdWord} {i : Instr} {op : Nat} {x : Ctx}

theorem put_moves (h : CopyHead s core task w) (hx : x = s.ctxOf core task w .clean) (away : cwDestCore w ≠ core.val)
    (idle : (s.core (cwDestCore w)).late = []) (noToken : cwRemtok w = false) (hcheck : putCheck x = none) (room : s.roomFor x (putRun x) = true)
    (hrow : tileRow i = some ⟨op, core, task, .clean, putCheck, putRun⟩) (hop : cwOpcode w = op) (hcredit : takesCredit op = false) :
    ∃ t, exec i s = .next t ∧ putMoved s t core task w x := by
  obtain ⟨chk, inj, word⟩ := clean_of_ctxOf hx
  have there : cwDestCore x.w ≠ x.core := by rw [word, hx]; exact away
  obtain ⟨bytes, cycles, hrun⟩ := putRun_away there chk inj
  obtain ⟨pitch, rows⟩ := remote_of_putCheck there hcheck
  obtain ⟨t, done, ht, ⟨queue, -, -, others, frame⟩, scratch⟩ :=
    exec_copyEnd_fx h hx hrow hop hcredit (remoteToken_unasked (by rwa [word])) hcheck room hrun
  rw [word] at ht
  obtain ⟨shell, left, dest⟩ := applyFxs_spads (s := t) (core := core) (task := task) (done := done) (c := cwDestCore w) (ws := x.putWrites)
  rw [others _ away] at dest
  obtain ⟨tasks, cyc, l, order, landed⟩ := foldl_arrive (s := t) (core := core) (c := cwDestCore w) (done := done) (ws := x.putWrites) idle
  have own := left core away.symm
  refine ⟨_, ht, by rw [own, queue], (eq_of_shell shell).trans (by rw [frame]), by rw [own, scratch], by rw [dest, tasks],
    fun c hc hd => (left c hd).trans (others c hc), fun r hr j hj => ?_⟩
  rw [dest, landed, byte_sent pitch rows (fun _ _ => length_tileRow) order hr hj, getD_tileRow hj, copyHead_mem h hx]

end

/-- Settles O47: each copy's bytes as its run leaves them, a PUT's as they arrive in its destination core. -/
theorem copiesMoveTheirBytes : Obligations.CopiesMoveTheirBytes := by
  intro s core task w head x m late lost room
  have h : CopyHead s core task w := ⟨head, late, lost⟩
  exact ⟨nop_moves h rfl, fill_moves h rfl, copyw_moves h rfl, dcmRd_moves h rfl, dcmWr_moves h rfl,
    fun away idle noToken hcheck hroom =>
      ⟨fun hop => put_moves h rfl away idle noToken hcheck hroom rfl hop rfl, fun hop => put_moves h rfl away idle noToken hcheck hroom rfl hop rfl⟩,
    stgIn_moves h rfl, stgOut_moves h rfl⟩

end Sys2Proof.Machine
end

section
/-!
A TOKEN beside a write in flight (R212, R254); O48.

The clause of TOKEN names no condition on the writes in flight of the core's scratchpad, as the clauses of HSET and DONE do. Where a
core has writes in flight, the end of a command makes its scratchpad anew from what it held before them. In the state below its
scratchpad holds another byte than the write in flight leaves, so that TOKEN, which writes nothing, changes it.
-/
namespace Sys2Proof.Machine

section
variable {s : State} {core task : Nat} {w : CmdWord} {chk : Check}

/-- A command of a core with writes in flight reads what its reads of their cycle see. -/
theorem mem_ctxOf_busy (h : (s.core core).late ≠ []) :
    (s.ctxOf core task w chk).mem = (s.core core).seen (s.readCycle core task w (s.timing core task w)) := by
  show ((s.sees core task w).core core).scratch = _
  unfold State.sees
  dsimp only
  rw [if_neg (by simpa using h), State.core_setCore, if_pos rfl]

/-- The scratchpad at the end of a command is what its writes and those in flight leave. -/
theorem scratch_finished {x : Ctx} {o : Out} : (x.finished o).scratch = (x.landed o).scratch :=
  (congrArg Core.scratch (finished_untasked (x := x) (o := o)) :)

end

/-- TOKEN, without a fence and without a token of its own. -/
def tokenWord : CmdWord := 0xFFFFFFFF0054

/-- Task 0 of core 0 with the TOKEN at its head. -/
def tokenTask : Task := { Task.init with valid := true, klass := 6, bound := 0x10000, queue := [tokenWord], qdepth := 4 }

/-- The write in flight of byte 0 at address 0. -/
def zeroInFlight : LateWrite := { cycle := 0, addr := 0, byte := 0 }

/-- Core 0: its scratchpad holds 1 at address 0, where it held 0 and a 0 is in flight. -/
def tokenCore : Core :=
  { Core.init with tasks := [tokenTask, Task.init, Task.init, Task.init], scratch := [(0, 1)], late := [zeroInFlight], old := [] }

/-- Core 0 in a run of its task's class and partition. -/
def tokenState : State :=
  { State.reset with
    boot := { Boot.init with phase := .ready }
    cores := [(0, tokenCore)]
    regions := [{ Region.init with run := some { beat := 0, first := 0, slots := 8, klass := 6, part := 0, budget := 100000 } },
      Region.init, Region.init, Region.init] }

theorem tokenState_headIs : tokenState.headIs 0 0 tokenWord := by
  unfold State.headIs
  decide +kernel

/-- The core as the TOKEN reads it. -/
def tokenSeen : Core := { tokenCore with scratch := [] }

/-- Whichever cycle the command reads in, it sees zeros. -/
theorem seen_tokenCore {readAt : Nat → Nat} : tokenCore.seen readAt = [] := by
  have landed : landing tokenCore.late = [zeroInFlight] := rfl
  unfold Core.seen
  rw [landed]
  by_cases h : zeroInFlight.cycle < readAt zeroInFlight.addr
  · simp only [List.filter_cons, h]
    rfl
  · simp only [List.filter_cons, h]
    rfl

theorem c_tokenState : (tokenState.ctxOf 0 0 tokenWord .clean).c = tokenSeen := by
  rw [c_ctxOf, mem_ctxOf_busy (by decide)]
  exact congrArg (fun m => ({ tokenCore with scratch := m } : Core)) seen_tokenCore

theorem earlierEnded_tokenState : (tokenState.ctxOf 0 0 tokenWord .clean).earlierEnded = true := by
  unfold Ctx.earlierEnded
  rw [t_ctxOf]
  rfl

theorem tokenRun_tokenState : tokenRun (tokenState.ctxOf 0 0 tokenWord .clean) = Out.of tokenSeen 1 := by
  rw [tokenRun, if_pos earlierEnded_tokenState, c_tokenState]

theorem roomFor_tokenState : tokenState.roomFor (tokenState.ctxOf 0 0 tokenWord .clean) (Out.of tokenSeen 1) = true := by
  unfold State.roomFor
  rw [t_ctxOf]
  decide +kernel

theorem scratch_tokenState : ((tokenState.finishCmd (tokenState.ctxOf 0 0 tokenWord .clean) (Out.of tokenSeen 1)).core 0).scratch = [] := by
  have ends := (core_finishCmd (s := tokenState) (x := tokenState.ctxOf 0 0 tokenWord .clean) (o := Out.of tokenSeen 1) (k := 0) rfl
    (remoteToken_other (by decide) (by decide)) (icc_timing rfl)).trans (if_pos rfl)
  rw [ends, scratch_finished, Ctx.landed, c_tokenState]
  rfl

theorem tokenCheck_tokenState : tokenCheck (tokenState.ctxOf 0 0 tokenWord .clean) = none := by decide +kernel

theorem exec_token_tokenState : exec (.token 0 0 .clean) tokenState =
    .next (tokenState.finishCmd (tokenState.ctxOf 0 0 tokenWord .clean) (Out.of tokenSeen 1)) := by
  rw [← tokenRun_tokenState]
  exact (tileCommandsComplete (.token 0 0 .clean) _ tokenState tokenWord rfl tokenState_headIs rfl).1 tokenCheck_tokenState
    (congrArg Out.stay tokenRun_tokenState) ((congrArg _ tokenRun_tokenState).trans roomFor_tokenState)

/-- Refutes O48: a TOKEN beside a write in flight leaves 0 at address 0 of a scratchpad that held 1. -/
theorem not_synchronisationActs : ¬ Obligations.SynchronisationActs := by
  intro h
  obtain ⟨-, -, token, -⟩ := h tokenState 0 0 tokenWord tokenState_headIs
  obtain ⟨t, ht, -, kept⟩ := token rfl tokenCheck_tokenState earlierEnded_tokenState ((congrArg _ tokenRun_tokenState).trans roomFor_tokenState)
  obtain rfl := Host.Outcome.next.inj (ht.symm.trans exec_token_tokenState)
  exact absurd (kept.symm.trans scratch_tokenState) (by decide)

end Sys2Proof.Machine
end

section
/-!
An ABORT close beside an append that names an entry beyond the stream table (R287, R292, R296); O32.

The clause of the ABORT close bounds the stream that the close names, not the streams that the other commands name. A command joins the
stream of the low 13 bits of its NAMED field, and an append that ends has the pages of the whole field's entry trimmed. In the state
below an append of NAMED 8193 joins stream 1: the abort of stream 1 ends it and takes a page from entry 8193, which the clause says
is unchanged. Admission takes no such append, as it tests NAMED against the table; the statement is about every state.
-/
namespace Sys2Proof.Machine

/-- An admitted command of port 0 that has not begun: opcode, FLAGS, NAMED and its parameters from byte 0x18 on. -/
def unbegunCmd (id op flags named : Nat) (pars : List Byte) : Cmd :=
  { id := id, port := 0, sq := 0, cq := 0,
    desc := toLe 1 op ++ toLe 1 flags ++ toLe 2 named ++ List.replicate 20 0 ++ pars ++ List.replicate (40 - pars.length) 0,
    part := 0, admitBeat := 0, phase := .waiting, done := 0, klass := 0, events := 0, joined := 0, fail := none, abort := true,
    discard := false, decks := [], keySlot := none, content := [] }

/-- The STREAM_CLOSE of stream 1 with ABORT. -/
def abortClose : Cmd := unbegunCmd 2 0x04 1 1 []

/-- The STREAM_APPEND of one token that names 8193. -/
def strayAppend : Cmd := unbegunCmd 1 0x02 0 8193 (toLe 8 0x1000 ++ toLe 4 1)

/-- The block in service with both commands admitted, stream 1 closing, and an entry 8193 with two pages. -/
def strayState : State :=
  { State.reset with
    boot := { Boot.init with phase := .ready }
    cmds := [strayAppend, abortClose]
    streams := [(1, { Stream.init with state := .closing, inflight := 2, abort := true }), (8193, { Stream.init with state := .idle, pages := 2 })] }

theorem admitted_abortClose : strayState.admitted 2 0x04 = some abortClose := by decide +kernel

/-- The stray append joins the stream that the close names, and its pages are those of another entry. -/
theorem strayAppend_joins : strayAppend.stream? = some abortClose.named ∧ strayAppend.named = 8193 ∧ abortClose.named = 1 := by
  decide +kernel

theorem strayState_noStep : ∀ e ∈ strayState.cmds, strayState.inStepOrBatch e = false ∧ strayState.runOf e = none := by
  simp only [strayState, List.forall_mem_cons, List.not_mem_nil, false_imp_iff, implies_true, and_true]
  decide +kernel

/-- The abort trims the pages of entry 8193. -/
theorem pages_streamClose_strayState : (strayState.stream 8193).pages = 2 ∧ ((streamClose 2 strayState).stream 8193).pages = 1 := by
  decide +kernel

/-- Refutes O32: the ABORT close of stream 1 takes a page from entry 8193. -/
theorem not_streamsOpenAndClose : ¬ Obligations.StreamsOpenAndClose := by
  intro h
  obtain ⟨-, -, -, -, abort, -⟩ := h strayState 2 abortClose
  obtain ⟨t, ht, -, -, others⟩ := abort admitted_abortClose (by decide) (by decide) (by decide) fun e he _ _ => strayState_noStep e he
  obtain rfl : streamClose 2 strayState = t := Host.Outcome.next.inj ht
  obtain ⟨before, after⟩ := pages_streamClose_strayState
  have kept := congrArg Stream.pages (others 8193 (by decide))
  exact absurd (before.symm.trans (kept.symm.trans after)) (by decide)

end Sys2Proof.Machine
end

section
/-!
Admission of the descriptor at the head of a ring (R317, R351, R359): it is held, consumed or admitted; O29.
-/
namespace Sys2Proof.Machine

/-! ## The rings of a descriptor -/

section
variable {s : State} {p n cq : Nat} {c : Cmd} {part : Option Nat}

/-- A ring whose head waits (R317). -/
def SubRing.waiting (q : SubRing) : SubRing := { q with held := true, headDirty := q.headDirty || !q.held }

/-- A ring whose head has moved past its descriptor. -/
def SubRing.passed (q : SubRing) : SubRing := { q with head := q.head + 1, held := false, headDirty := true }

/-- A completion ring with one place more reserved. -/
def CplRing.reserving (c : CplRing) : CplRing := { c with reserved := c.reserved + 1, full := false }

/-- A port at which a ring waits. -/
def Port.held (x : Port) (n : Nat) : Port := x.setSq n (x.sq n).waiting

/-- A port whose ring has moved past a descriptor, for which a place of its completion ring is reserved. -/
def Port.moved (x : Port) (n cq : Nat) : Port := (x.setCq cq (x.cq cq).reserving).setSq n (x.sq n).passed

/-- A port that finds a completion ring full. -/
def Port.filled (x : Port) (k : Nat) : Port := x.setCq k { x.cq k with full := true }

section
variable {x : Port}

theorem sq_held : (x.held n).sq n = (x.sq n).waiting := Port.sq_setSq.trans (if_pos rfl)

theorem sq_moved : (x.moved n cq).sq n = (x.sq n).passed := Port.sq_setSq.trans (if_pos rfl)

theorem cq_moved : (x.moved n cq).cq cq = (x.cq cq).reserving := Port.cq_setCq.trans (if_pos rfl)

theorem sq_filled : (x.filled cq).sq n = x.sq n := rfl

theorem full_filled : ((x.filled cq).cq cq).full = true := congrArg CplRing.full (Port.cq_setCq.trans (if_pos rfl))

end

theorem holdRing_eq : ∃ hub beats, s.holdRing p n part =
    { s.setPort p ((s.port p).held n) with hub := hub, overloadBeat := beats } := by
  unfold State.holdRing
  dsimp only
  split
  · exact ⟨s.hub, s.overloadBeat, rfl⟩
  · split
    · exact ⟨s.hub, s.overloadBeat, rfl⟩
    · exact ⟨_, _, rfl⟩

theorem port_holdRing (hp : p < s.ports.length) : (s.holdRing p n part).port p = (s.port p).held n := by
  obtain ⟨hub, beats, e⟩ := holdRing_eq (s := s) (p := p) (n := n) (part := part)
  rw [e]
  exact State.port_setPort hp

theorem holdRing_streams : (s.holdRing p n part).streams = s.streams := by
  obtain ⟨hub, beats, e⟩ := holdRing_eq (s := s) (p := p) (n := n) (part := part)
  rw [e]
  rfl

theorem length_holdRing : (s.holdRing p n part).ports.length = s.ports.length := by
  obtain ⟨hub, beats, e⟩ := holdRing_eq (s := s) (p := p) (n := n) (part := part)
  rw [e]
  exact List.length_set

theorem port_moved (hp : p < s.ports.length) : ((s.reserve p cq).passHead p n).port p = (s.port p).moved n cq := by
  have reserved : (s.reserve p cq).port p = (s.port p).setCq cq ((s.port p).cq cq).reserving := State.port_setPort hp
  have still : p < (s.reserve p cq).ports.length := by simpa [State.reserve, State.setPort] using hp
  refine (State.port_setPort still).trans ?_
  rw [reserved]
  rfl

/-! ## Admission -/

/-- Of the state: its ports, the numbers of its admitted commands, and the next number. -/
def State.intake (s : State) : List Port × List Nat × Nat := (s.ports, s.cmds.map (·.id), s.nextCmd)

theorem allocPage_intake {slot : Nat} : (s.allocPage slot).intake = s.intake := by
  cases hx : mget s.slots slot with
  | none => rw [State.allocPage, hx]
  | some x =>
    rw [allocPage_eq hx]
    rfl

theorem slotTaken_intake : (s.slotTaken c n).intake = s.intake := by
  unfold State.slotTaken
  split
  · exact (rfl : _ = State.intake (State.allocPage _ _)).trans allocPage_intake
  · rfl

/-- The mark of an abort changes no command's number. -/
theorem ids_marked {l : List Cmd} : (l.map fun e => if e.stream? = some n then { e with abort := true } else e).map (·.id) = l.map (·.id) := by
  rw [List.map_map]
  refine List.map_congr_left fun e _ => ?_
  rw [Function.comp_apply]
  split <;> rfl

theorem admitStream_intake : (s.admitStream c).intake = s.intake := by
  cases h : c.stream? with
  | none => rw [State.admitStream, h]
  | some n =>
    obtain ⟨x, e⟩ := admitStream_some (s := s) h
    rw [e, ← slotTaken_intake (s := s) (c := c) (n := n)]
    split
    · exact congrArg (fun l => (_, l, _)) ids_marked
    · rfl

theorem admitCmd_intake : (s.admitCmd c).intake = (s.ports, s.cmds.map (·.id) ++ [c.id], s.nextCmd + 1) := by
  have joined (d : Cmd) : (s.admitStream d).intake = s.intake := admitStream_intake
  unfold State.admitCmd State.intake
  dsimp only
  rw [List.map_append]
  exact congrArg (fun a : List Port × List Nat × Nat => (a.1, a.2.1 ++ [c.id], a.2.2 + 1)) (joined _)

theorem cmdOf_id {part : Nat} {d : List Byte} : (s.cmdOf p n part d).id = s.nextCmd := by
  unfold State.cmdOf
  dsimp only
  split <;> rfl

/-! ## The outcomes of one descriptor -/

/-- The command of the descriptor at the head of a ring. -/
def State.headCmd (s : State) (p n : Nat) : Cmd := s.cmdOf p n ((s.portPart p).getD 4) (s.descAt p n)

/-- The completion ring of a submission ring. -/
def State.cqOf (s : State) (p n : Nat) : Nat := fld ((s.port p).sq n).cfg 21 16

theorem examine_full (h : ((s.port p).cq (s.cqOf p n)).hasPlace = false) : s.examine p n =
    (let t := s.holdRing p n (s.portPart p)
     t.setPort p ((t.port p).filled (s.cqOf p n)), false, none) := if_pos h

/-- What a verdict makes of the descriptor at the head of a ring that has a completion place. -/
def State.examined (s : State) (p n : Nat) : Verdict → State × Bool × Option Entry
  | .hold => (s.holdRing p n (s.portPart p), false, none)
  | .consume st =>
    let t := (s.reserve p (s.cqOf p n)).passHead p n
    (if st = stDeadline then t.hubInc (rService + 0x40 * (s.headCmd p n).part + 0x14) 1 else t, true,
      some ((s.headCmd p n).entryOf (Result.plain st (s.headCmd p n).named)))
  | .take => (((s.reserve p (s.cqOf p n)).passHead p n).admitCmd (s.headCmd p n), true, none)

section
variable (h : ((s.port p).cq (s.cqOf p n)).hasPlace = true)
include h

theorem examine_placed : s.examine p n = s.examined p n (s.verdict (s.headCmd p n) (s.portPart p).isSome) := by
  refine (if_neg (by simpa [State.cqOf] using h)).trans ?_
  unfold State.examined
  rfl

theorem examine_held (hv : s.verdict (s.headCmd p n) (s.portPart p).isSome = .hold) :
    s.examine p n = (s.holdRing p n (s.portPart p), false, none) :=
  (examine_placed h).trans (congrArg (s.examined p n) hv)

theorem examine_consumed {st : Nat} (hv : s.verdict (s.headCmd p n) (s.portPart p).isSome = .consume st) : ∃ hub e,
    s.examine p n = ({ (s.reserve p (s.cqOf p n)).passHead p n with hub := hub }, true, some e) := by
  have e := (examine_placed h).trans (congrArg (s.examined p n) hv)
  by_cases late : st = stDeadline
  · exact ⟨_, _, e.trans (congrArg (·, true, _) (if_pos late))⟩
  · exact ⟨_, _, e.trans (congrArg (·, true, _) (if_neg late))⟩

theorem examine_admitted (hv : s.verdict (s.headCmd p n) (s.portPart p).isSome = .take) :
    s.examine p n = (((s.reserve p (s.cqOf p n)).passHead p n).admitCmd (s.headCmd p n), true, none) :=
  (examine_placed h).trans (congrArg (s.examined p n) hv)

end

end

/-- Settles O29, outcome by outcome: the port with the ring that waits or has moved, and what joins the commands. -/
theorem descriptorHeldConsumedOrTaken : Obligations.DescriptorHeldConsumedOrTaken := by
  intro s p n hp q cq c t
  have waits := port_holdRing (n := n) (part := s.portPart p) hp
  have moves := port_moved (n := n) (cq := cq) hp
  refine ⟨fun hplace => ?_, fun hplace => ⟨fun hv => ?_, fun st hv => ?_, fun hv => ?_⟩⟩
  · have full := examine_full hplace
    have room : p < (s.holdRing p n (s.portPart p)).ports.length := by rwa [length_holdRing]
    have port : t.port p = ((s.port p).held n).filled cq := by
      rw [← waits]
      exact (congrArg (fun a => State.port (Prod.fst a) p) full).trans (State.port_setPort room)
    rw [port, sq_filled, sq_held]
    exact ⟨congrArg Prod.snd full, rfl, rfl, full_filled, (congrArg (fun a => State.cmds (Prod.fst a)) full).trans holdRing_cmds⟩
  · have held := examine_held hplace hv
    have state : t = s.holdRing p n (s.portPart p) := congrArg Prod.fst held
    rw [state, waits, sq_held]
    exact ⟨congrArg Prod.snd held, rfl, rfl, holdRing_cmds, holdRing_streams⟩
  · obtain ⟨hub, e, consumed⟩ := examine_consumed hplace hv
    have state : t = { (s.reserve p cq).passHead p n with hub := hub } := congrArg Prod.fst consumed
    have port : t.port p = (s.port p).moved n cq := (congrArg (State.port · p) state).trans moves
    rw [port, sq_moved, cq_moved, consumed, state]
    exact ⟨rfl, rfl, rfl, rfl, rfl, rfl, rfl⟩
  · have admitted := examine_admitted hplace hv
    have state : t = ((s.reserve p cq).passHead p n).admitCmd c := congrArg Prod.fst admitted
    have intake : t.intake = (((s.reserve p cq).passHead p n).ports, s.cmds.map (·.id) ++ [c.id], s.nextCmd + 1) := by
      rw [state]
      exact admitCmd_intake
    have port : t.port p = (s.port p).moved n cq := (congrArg (fun a => a.1.getD p Port.init) intake).trans moves
    have ids : t.cmds.map (·.id) = s.cmds.map (·.id) ++ [s.nextCmd] := cmdOf_id (s := s) ▸ congrArg (fun a => a.2.1) intake
    rw [port, sq_moved, cq_moved]
    exact ⟨congrArg Prod.snd admitted, rfl, rfl, rfl, ids, congrArg (fun a => a.2.2) intake⟩

end Sys2Proof.Machine
end

section
/-!
The tests of R317 in their order: what a descriptor that fails one is answered, and what one that is admitted has passed; O30.
-/
namespace Sys2Proof.Machine

section
variable {s : State} {c : Cmd} {st : Nat}

theorem firstStatus_eq_none {l : List (Option Nat)} : firstStatus l = none ↔ ∀ x ∈ l, x = none := by
  induction l with
  | nil => simp [firstStatus]
  | cons a l ih => cases a <;> simp [firstStatus, ih]

/-! ## The verdict -/

theorem verdict_unowned : s.verdict c false = .consume stAccessDenied := if_pos rfl

theorem verdict_malformed (h : c.malformed (s.corpus? c.part).isSome = true) : s.verdict c true = .consume stBadDescriptor :=
  (if_neg (by decide)).trans (if_pos h)

/-- A port's partition and a well-formed descriptor leave the tests that give a status, and then those that wait. -/
theorem verdict_wellFormed (h : c.malformed (s.corpus? c.part).isSome = false) : s.verdict c true =
    match firstStatus [s.streamTest c, s.commandTest c, s.quotaTest c, if s.late c then some stDeadline else none] with
    | some st => .consume st
    | none => if s.mustWait c then .hold else .take :=
  (if_neg (by decide)).trans (if_neg (by simp [h]))

theorem verdict_streamTest (h : c.malformed (s.corpus? c.part).isSome = false) (ht : s.streamTest c = some st) :
    s.verdict c true = .consume st := by
  rw [verdict_wellFormed h, ht, firstStatus]

/-- A command that is admitted passed every test. -/
theorem passed_of_verdict_take (h : s.verdict c true = .take) : c.malformed (s.corpus? c.part).isSome = false ∧
    s.streamTest c = none ∧ s.commandTest c = none ∧ s.quotaTest c = none ∧ s.late c = false ∧ s.mustWait c = false := by
  cases hm : c.malformed (s.corpus? c.part).isSome with
  | true => rw [verdict_malformed hm] at h; cases h
  | false =>
    rw [verdict_wellFormed hm] at h
    split at h
    next => cases h
    next passed =>
      obtain ⟨stream, command, quota, late⟩ : s.streamTest c = none ∧ s.commandTest c = none ∧ s.quotaTest c = none ∧ s.late c = false := by
        simpa using firstStatus_eq_none.1 passed
      refine ⟨rfl, stream, command, quota, late, ?_⟩
      cases hw : s.mustWait c with
      | true => rw [hw] at h; cases h
      | false => rfl

/-! ## Waiting (R317 test 4, R440) -/

/-- Where nothing makes it wait, the block is awake and the partition has room for a query or a stream. -/
theorem room_of_not_mustWait (h : s.mustWait c = false) : s.sleepy = false ∧
    (c.op = 0x10 ∨ c.op = 0x11 → s.queriesInFlight c.part < (s.part c.part).queryInflight) ∧
    (c.op = 0x01 → s.streamsCharged c.part < (s.part c.part).streams) := by
  simp only [State.mustWait, Bool.or_eq_false_iff] at h
  obtain ⟨⟨-, awake⟩, quota⟩ := h
  refine ⟨awake, fun hop => ?_, fun hop => ?_⟩
  · rcases hop with hop | hop
    · simpa [hop] using quota
    · simpa [hop] using quota
  · rw [hop] at quota
    exact (by simpa using quota : _ ∧ _).1

/-! ## Stream tests (R287, R290, R292) -/

/-- STREAM_CLOSE commands of the stream that a command names, among those admitted. -/
def State.closesOf (s : State) (c : Cmd) : List Cmd := s.cmds.filter fun e => e.op == 0x04 && e.named == c.named

section
variable (names : c.names = true) (inTable : c.named < s.nStreams) (opened : (s.stream c.named).state ≠ .free)
include names inTable opened

/-- The tests that follow once the command names an open stream. -/
theorem streamTest_open : s.streamTest c =
    if (s.stream c.named).part ≠ c.part then some stAccessDenied
    else if s.closesOf c ≠ [] ∧ ((c.op == 0x04 && c.flag 0) = false ∨ (s.closesOf c).any (·.flag 0) = true) then some stBadStream
    else if (s.stream c.named).state = .failed ∧ c.op ≠ 0x04 then some stStreamFailed
    else if kindAccepts (s.stream c.named).kind c.op = false then some stBadStream
    else none :=
  (if_neg (by simp [names])).trans (if_neg (by simp [inTable, opened]))

theorem streamTest_foreign (h : (s.stream c.named).part ≠ c.part) : s.streamTest c = some stAccessDenied :=
  (streamTest_open names inTable opened).trans (if_pos h)

section
variable (own : (s.stream c.named).part = c.part)
include own

theorem streamTest_closing (h : ∃ e ∈ s.cmds, e.op = 0x04 ∧ e.named = c.named) (ha : ¬(c.op = 0x04 ∧ c.flag 0 = true)) :
    s.streamTest c = some stBadStream := by
  obtain ⟨e, he, hop, hn⟩ := h
  have closing : e ∈ s.closesOf c := List.mem_filter.2 ⟨he, by simp [hop, hn]⟩
  have noAbort : (c.op == 0x04 && c.flag 0) = false := by simpa using ha
  rw [streamTest_open names inTable opened, if_neg (by simp [own]), if_pos ⟨List.ne_nil_of_mem closing, .inl noAbort⟩]

theorem streamTest_failed (h : ∀ e ∈ s.cmds, e.op = 0x04 → e.named ≠ c.named) (hf : (s.stream c.named).state = .failed)
    (hop : c.op ≠ 0x04) : s.streamTest c = some stStreamFailed := by
  have none : s.closesOf c = [] := List.filter_eq_nil_iff.2 fun e he => by simpa using h e he
  rw [streamTest_open names inTable opened, if_neg (by simp [own]), if_neg (by simp [none]), if_pos ⟨hf, hop⟩]

end

end

end

/-- Settles O30: the verdict test by test, and the stream tests of an open stream. -/
theorem admissionTestsInOrder : Obligations.AdmissionTestsInOrder := by
  intro s c
  refine ⟨verdict_unowned, verdict_malformed, fun _ => verdict_streamTest, fun h => ?_, fun names inTable opened => ⟨?_, ?_, ?_⟩⟩
  · obtain ⟨formed, stream, command, quota, intime, room⟩ := passed_of_verdict_take h
    exact ⟨formed, stream, command, quota, intime, room_of_not_mustWait room⟩
  · exact streamTest_foreign names inTable opened
  · exact streamTest_closing names inTable opened
  · exact streamTest_failed names inTable opened

end Sys2Proof.Machine
end

section
/-!
One completion (R289, R290, R359-R361, R364): the entry in its ring, the head word, and the books of its stream; O31.
-/
namespace Sys2Proof.Machine

/-! ## The books -/

section
variable {s : State} {c : Cmd} {r : Result} {n : Nat}

theorem countCompletion_eq {part op status : Nat} : ∃ hub, s.countCompletion part op status = { s with hub := hub } := by
  have late : ∃ hub, (if status = stDeadline then s.hubInc (rService + 0x40 * part + 0x14) 1 else s) = { s with hub := hub } := by
    split
    · exact ⟨_, rfl⟩
    · exact ⟨s.hub, rfl⟩
  obtain ⟨hub, e⟩ := late
  unfold State.countCompletion
  dsimp only
  rw [e]
  split
  · exact ⟨_, rfl⟩
  · exact ⟨hub, rfl⟩

/-- The stream table in which the stream of a command has the record of its completion. -/
def State.streamBooked (s : State) (c : Cmd) (r : Result) : State :=
  match c.stream? with
  | some n => s.setStream n ((s.stream n).ended r s.time.now)
  | none => s

/-- Of the books of a completion all but a counter is the stream's record and the command's leaving. -/
theorem bookOut_eq : ∃ hub, s.bookOut c r = { s.without c.id with hub := hub, streams := (s.streamBooked c r).streams } := by
  obtain ⟨hub, e⟩ := countCompletion_eq (s := s) (part := c.part) (op := c.op) (status := r.status)
  unfold State.bookOut State.streamBooked
  rw [e]
  cases c.stream? with
  | none => exact ⟨hub, rfl⟩
  | some n => exact ⟨hub, rfl⟩

theorem stream_streamBooked (h : c.stream? = some n) : (s.streamBooked c r).stream n = (s.stream n).ended r s.time.now := by
  rw [State.streamBooked, h]
  exact State.stream_setStream.trans (if_pos rfl)

theorem stream_streamBooked_other (h : c.stream? ≠ some n) : (s.streamBooked c r).stream n = s.stream n := by
  unfold State.streamBooked
  split
  next m hm => exact State.stream_setStream.trans (if_neg fun e => h (hm.trans (congrArg some e.symm)))
  next => rfl

end

/-! ## The entry, the head word and the message -/

/-- Of a port: the host's memory, and the count and the reserved places of a completion ring. -/
def Port.ledger (x : Port) (k : Nat) : Mem × Word × Nat := (x.host, (x.cq k).count, (x.cq k).reserved)

section
variable {s : State} {p n k a : Nat} {bs : List Byte} {e : Entry}

/-- A port whose host has been written to. -/
def Port.wrote (x : Port) (a : Nat) (bs : List Byte) : Port := { x with host := x.host.write a bs, l1 := false }

theorem port_hostWrite (hd : (s.port p).dmaOn = true) :
    (s.hostWrite p a bs).port p = (s.port p).wrote a bs := by
  unfold State.hostWrite
  rw [if_pos hd]
  exact State.port_setPort (lt_length_of_dmaOn hd)

theorem length_hostWrite : (s.hostWrite p a bs).ports.length = s.ports.length := by
  unfold State.hostWrite
  dsimp only
  split
  · exact List.length_set
  · exact List.length_set

/-- The address of a ring's next entry. -/
def CplRing.slotAddr (c : CplRing) : Nat := c.base.toNat + 32 * (c.count.toNat % c.size)

/-- The bytes of an entry at the count of its ring. -/
def State.entryBytes (s : State) (e : Entry) : List Byte :=
  e.result.entry e.tag e.sq s.time.now ((s.port e.port).cq e.cq).count.toNat ((s.port e.port).cq e.cq).size

/-- A completion ring with one entry more. -/
def CplRing.counted (c : CplRing) : CplRing := { c with count := c.count + 1, reserved := c.reserved - 1 }

theorem port_writeEntry (hd : (s.port e.port).dmaOn = true) : (s.writeEntry e).port e.port =
    ((s.port e.port).wrote ((s.port e.port).cq e.cq).slotAddr (s.entryBytes e)).setCq e.cq ((s.port e.port).cq e.cq).counted := by
  have room : e.port < (s.hostWrite e.port ((s.port e.port).cq e.cq).slotAddr (s.entryBytes e)).ports.length := by
    rw [length_hostWrite]
    exact lt_length_of_dmaOn hd
  refine (State.port_setPort room).trans ?_
  rw [port_hostWrite hd]
  rfl

theorem port_headWord (hd : (s.port p).dmaOn = true) : (s.headWord p n).port p =
    ((s.port p).wrote ((s.port p).sq n).headword.toNat (toLe 8 (((s.port p).sq n).word s.beat))).setSq n
      { (s.port p).sq n with dbErr := false, headDirty := false } := by
  have room : p < (s.hostWrite p ((s.port p).sq n).headword.toNat (toLe 8 (((s.port p).sq n).word s.beat))).ports.length := by
    rw [length_hostWrite]
    exact lt_length_of_dmaOn hd
  refine (State.port_setPort room).trans ?_
  rw [port_hostWrite hd]

theorem ledger_setPort {x : Port} (h : x.ledger k = (s.port p).ledger k) : ((s.setPort p x).port p).ledger k = (s.port p).ledger k := by
  by_cases hp : p < s.ports.length
  · rw [State.port_setPort hp, h]
  · rw [port_setPort_out (not_lt.1 hp)]

theorem ledger_sendMsix {v : Nat} : ((s.sendMsix p v).port p).ledger k = (s.port p).ledger k := by
  unfold State.sendMsix
  dsimp only
  split
  · exact ledger_setPort rfl
  · split
    · exact ledger_setPort rfl
    · rfl

theorem ledger_setCq {x : Port} {c : CplRing} (h : (c.count, c.reserved) = ((x.cq n).count, (x.cq n).reserved)) :
    (x.setCq n c).ledger k = x.ledger k := by
  have ring : (((x.setCq n c).cq k).count, ((x.setCq n c).cq k).reserved) = ((x.cq k).count, (x.cq k).reserved) := by
    rw [Port.cq_setCq]
    split
    next e => rw [e, h]
    next => rfl
  exact congrArg (x.host, ·) ring

theorem ledger_signal {m : Nat} : ((s.signal p n m).port p).ledger k = (s.port p).ledger k := by
  unfold State.signal
  dsimp only
  split
  · exact ledger_sendMsix.trans (ledger_setPort (ledger_setCq rfl))
  · exact ledger_setPort (ledger_setCq rfl)

theorem writeEntries_singleton : s.writeEntries [e] = ((s.writeEntry e).headWord e.port e.sq).signal e.port e.cq 1 := by
  have one (a : Nat × Nat) : [a].eraseDups = [a] := rfl
  simp [State.writeEntries, one]

/-- One entry: the host's memory with the entry and then the head word, and the ring with one entry more. -/
theorem ledger_writeEntries_singleton (hd : (s.port e.port).dmaOn = true) : ∃ word : List Byte, word.length = 8 ∧
    ((s.writeEntries [e]).port e.port).ledger e.cq =
      (((s.port e.port).host.write ((s.port e.port).cq e.cq).slotAddr (s.entryBytes e)).write ((s.port e.port).sq e.sq).headword.toNat word,
        ((s.port e.port).cq e.cq).count + 1, ((s.port e.port).cq e.cq).reserved - 1) := by
  have entry := port_writeEntry hd
  have stillOn : ((s.writeEntry e).port e.port).dmaOn = true := by
    rw [entry]
    exact hd
  have head := port_headWord (n := e.sq) stillOn
  refine ⟨toLe 8 ((((s.writeEntry e).port e.port).sq e.sq).word (s.writeEntry e).beat), length_toLe _ _, ?_⟩
  have ring : (((s.writeEntry e).port e.port).cq e.cq) = ((s.port e.port).cq e.cq).counted := by
    rw [entry]
    exact Port.cq_setCq.trans (if_pos rfl)
  have host : ((s.writeEntry e).port e.port).host = (s.port e.port).host.write ((s.port e.port).cq e.cq).slotAddr (s.entryBytes e) :=
    congrArg Port.host entry
  have sq : ((s.writeEntry e).port e.port).sq e.sq = (s.port e.port).sq e.sq := by
    rw [entry]
    rfl
  rw [writeEntries_singleton, ledger_signal, head, ← host, ← sq]
  exact congrArg (fun c : CplRing => (_, c.count, c.reserved)) ring

end

/-! ## The completion -/

section
variable {s : State} {c : Cmd} {r : Result}

theorem length_entry {tag sq time n size : Nat} : (r.entry tag sq time n size).length = 32 := by
  simp [Result.entry, length_toLe]

theorem complete_written (h : c.discard = false) : s.complete c r = (s.bookOut c r).writeEntries [c.entryOf r] := by
  simp [State.complete, State.completeAll, h]

/-- What a completion leaves beside its report is what its books leave. -/
theorem complete_fields (h : c.discard = false) :
    (s.complete c r).unreported = { s.unreported.without c.id with streams := (s.streamBooked c r).streams } := by
  obtain ⟨hub, e⟩ := bookOut_eq (s := s) (c := c) (r := r)
  rw [complete_written h, writeEntries_unreported, e]
  rfl

theorem port_complete_other {p : Nat} (h : c.discard = false) (hp : p ≠ c.port) : (s.complete c r).port p = s.port p := by
  obtain ⟨hub, e⟩ := bookOut_eq (s := s) (c := c) (r := r)
  rw [complete_written h]
  refine (port_of_besidePoll (writeEntries_besidePoll (by simp [Cmd.entryOf])) hp).trans ?_
  rw [e]
  rfl

theorem ledger_complete (h : c.discard = false) (hd : (s.port c.port).dmaOn = true) : ∃ word : List Byte, word.length = 8 ∧
    ((s.complete c r).port c.port).ledger c.cq =
      (((s.port c.port).host.write ((s.port c.port).cq c.cq).slotAddr (s.entryBytes (c.entryOf r))).write
          ((s.port c.port).sq c.sq).headword.toNat word,
        ((s.port c.port).cq c.cq).count + 1, ((s.port c.port).cq c.cq).reserved - 1) := by
  obtain ⟨hub, e⟩ := bookOut_eq (s := s) (c := c) (r := r)
  have written := ledger_writeEntries_singleton (s := s.bookOut c r) (e := c.entryOf r) (by rw [e]; exact hd)
  rw [← complete_written h, e] at written
  exact written

end

/-- A write leaves what is read outside the written bytes. -/
theorem read_write_outside {m : Mem} {a b k : Nat} {bs : List Byte} (h : b + bs.length ≤ a ∨ a + k ≤ b) :
    (m.write b bs).read a k = m.read a k := by
  unfold Mem.read tabulate
  refine List.map_congr_left fun i hi => Mem.byte_write_outside ?_
  have := List.mem_range.1 hi
  omega

/-- Settles O31: the ring by the two writes that a completion makes, the rest by its books. -/
theorem completionEntersRing : Obligations.CompletionEntersRing := by
  intro s c r hc hd hp cq q a t
  have kept := complete_fields (s := s) (r := r) hc
  have streams (n : Nat) : t.stream n = (s.streamBooked c r).stream n := (congrArg (State.stream · n) kept :)
  obtain ⟨word, size, ledger⟩ := ledger_complete (s := s) (r := r) hc hd
  obtain ⟨host, count, reserved⟩ :
      (t.port c.port).host = ((s.port c.port).host.write a (s.entryBytes (c.entryOf r))).write q.headword.toNat word ∧
      ((t.port c.port).cq c.cq).count = cq.count + 1 ∧ ((t.port c.port).cq c.cq).reserved = cq.reserved - 1 := by
    obtain ⟨host, rings⟩ := Prod.mk.inj ledger
    exact ⟨host, Prod.mk.inj rings⟩
  have entry : (s.entryBytes (c.entryOf r)).length = 32 := length_entry
  refine ⟨(congrArg State.cmds kept :), count, reserved, fun apart => ?_, fun x ha hq => ?_, fun p hp => port_complete_other hc hp,
    (congrArg State.time kept :), (congrArg State.cores kept :), (congrArg State.regions kept :), (congrArg State.plans kept :),
    (congrArg State.runs kept :), (congrArg State.corpora kept :), (congrArg State.staging kept :), fun n hn => ?_, fun n hn => ?_⟩
  · rw [host]
    refine (read_write_outside (by rwa [size])).trans ?_
    exact (Mem.read_write (o := 0) (by rw [entry])).trans (List.take_of_length_le entry.le)
  · rw [host, Mem.byte_write_outside (by rwa [size]), Mem.byte_write_outside (by rwa [entry])]
  · rw [streams, stream_streamBooked hn]
  · rw [streams, stream_streamBooked_other hn]

end Sys2Proof.Machine
end

section
/-!
STREAM_APPEND and STREAM_GENERATE: the start of their work (R294, R296, R300, R367); O33.
-/
namespace Sys2Proof.Machine

section
variable {s t : State} {id : Nat} {c : Cmd}

/-- A stream with the pages that a command needs. -/
def State.pagesTaken (s : State) (c : Cmd) : State :=
  s.setStream c.named { s.stream c.named with pages := max (s.stream c.named).pages (s.pagesNow c) }

theorem reservePages_eq (h : s.reservePages c = some t) : t = s.pagesTaken c := by
  unfold State.reservePages at h
  dsimp only at h
  split at h
  · exact (Option.some.inj h).symm
  · cases h

theorem stream_pagesTaken : (s.pagesTaken c).stream c.named =
    { s.stream c.named with pages := max (s.stream c.named).pages (s.pagesNow c) } := State.stream_setStream.trans (if_pos rfl)

theorem stream_pagesTaken_other {m : Nat} (h : m ≠ c.named) : (s.pagesTaken c).stream m = s.stream m :=
  State.stream_setStream.trans (if_neg h)

/-- A stream whose pending token is the first of an append. -/
def State.firstTaken (s : State) (c : Cmd) : State :=
  (s.pagesTaken c).setStream c.named { (s.pagesTaken c).stream c.named with pending := some (s.appendToken c 0) }

theorem stream_firstTaken : (s.firstTaken c).stream c.named =
    { s.stream c.named with pages := max (s.stream c.named).pages (s.pagesNow c), pending := some (s.appendToken c 0) } := by
  rw [State.firstTaken, State.stream_setStream, if_pos rfl, stream_pagesTaken]

theorem stream_begin_ {n : Nat} : (s.begin_ c).stream n = s.stream n := rfl

theorem cmds_of_streams (h : ∃ streams, t = { s with streams := streams }) : t.cmds = s.cmds := by
  obtain ⟨streams, rfl⟩ := h
  rfl

/-- Work that begins after a change of the stream table changes that table and the commands. -/
theorem begin_eq {d : Cmd} (h : ∃ streams, t = { s with streams := streams }) :
    t.begin_ d = { s with streams := (t.begin_ d).streams, cmds := (t.begin_ d).cmds } := by
  obtain ⟨streams, rfl⟩ := h
  rfl

/-- An admitted command whose work begins runs. -/
theorem begun_of_admitted {op : Nat} {d : Cmd} (ha : s.admitted id op = some c) (hc : t.cmds = s.cmds) (hd : d.id = c.id) :
    (t.begin_ d).cmd? id = some { d with phase := .running } := by
  have found : t.cmd? id = some c := (congrArg (List.find? _) hc).trans (cmd?_of_admitted ha)
  have mine := hd.trans (id_of_admitted ha)
  subst mine
  exact cmd?_begin_ (Option.isSome_of_eq_some found)

section
variable (hw : c.phase = .waiting) (hm : s.mayStart c = true)
include hw hm

/-! ## STREAM_APPEND -/

section
variable (ha : s.admitted id 0x02 = some c)
include ha

theorem streamAppend_exceeds
    (h : (s.stream c.named).limit < (s.stream c.named).length + c.par 0x20 4 - b2n (s.stream c.named).pending.isNone) :
    streamAppend id s = s.endGen c stContextExceeded 3 := by
  unfold streamAppend
  rw [ha]
  exact (if_neg (by simp [hw, hm])).trans (if_pos h)

section
variable (h : (s.stream c.named).length + c.par 0x20 4 - b2n (s.stream c.named).pending.isNone ≤ (s.stream c.named).limit)
  (hr : s.reservePages c = some t)
include h hr

theorem streamAppend_continues (hp : (s.stream c.named).pending.isSome = true) : streamAppend id s = (s.pagesTaken c).begin_ c := by
  unfold streamAppend
  rw [ha]
  refine ((if_neg (by simp [hw, hm])).trans (if_neg (not_lt.2 h))).trans ?_
  rw [hr, reservePages_eq hr]
  exact if_pos hp

theorem streamAppend_first (hp : (s.stream c.named).pending = none) (hn : c.par 0x20 4 ≠ 1) :
    streamAppend id s = (s.firstTaken c).begin_ { c with done := 1 } := by
  unfold streamAppend
  rw [ha]
  refine ((if_neg (by simp [hw, hm])).trans (if_neg (not_lt.2 h))).trans ?_
  rw [hr, reservePages_eq hr]
  exact (if_neg (by simp [hp])).trans (if_neg hn)

end

end

/-! ## STREAM_GENERATE -/

section
variable (ha : s.admitted id 0x03 = some c)
include ha

theorem streamGenerate_noInput (hp : (s.stream c.named).pending = none) : streamGenerate id s = s.endGen c stNoInput 3 := by
  unfold streamGenerate
  rw [ha]
  exact (if_neg (by simp [hw, hm])).trans (if_pos (by simp [hp]))

theorem streamGenerate_exceeds (hp : (s.stream c.named).pending.isSome = true) (h : (s.stream c.named).limit ≤ (s.stream c.named).length) :
    streamGenerate id s = s.endGen c stContextExceeded 3 := by
  unfold streamGenerate
  rw [ha]
  exact (if_neg (by simp [hw, hm])).trans ((if_neg (by simp [Option.isNone_eq_false_iff.2 hp])).trans (if_pos h))

theorem streamGenerate_begins {p : Plan} (hp : (s.stream c.named).pending.isSome = true) (h : (s.stream c.named).length < (s.stream c.named).limit)
    (hplan : s.planOf c.named = some p) (hs : planStepped p.image = true) (hr : s.reservePages c = some t) :
    streamGenerate id s = ((s.pagesTaken c).takeParams c).begin_ c := by
  unfold streamGenerate
  rw [ha]
  refine (if_neg (by simp [hw, hm])).trans ((if_neg (by simp [Option.isNone_eq_false_iff.2 hp])).trans ((if_neg (not_le.2 h)).trans ?_))
  rw [hplan, hr, reservePages_eq hr]
  exact if_neg (by simp [hs])

end

end

theorem takeParams_none (h : c.par 0x28 8 = 0) : s.takeParams c = s := if_pos h

/-- A generate's parameters replace SAMPLING and STOP_TOKENS of its stream (R367). -/
theorem takeParams_cases : s.takeParams c = s ∨
    ∃ sampling stop, s.takeParams c = s.setStream c.named { s.stream c.named with sampling := sampling, stop := stop } := by
  unfold State.takeParams
  dsimp only
  split
  · exact .inl rfl
  · exact .inr ⟨_, _, rfl⟩

/-- What a generate leaves as it begins: the other streams, the tokens of its own, and all else. -/
structure ParamsTaken (s t : State) (n : Nat) : Prop where
  others : ∀ m, m ≠ n → t.stream m = s.stream m
  pages : (t.stream n).pages = (s.stream n).pages
  length : (t.stream n).length = (s.stream n).length
  pending : (t.stream n).pending = (s.stream n).pending
  beside : ∃ streams, t = { s with streams := streams }

theorem takeParams_leaves : ParamsTaken s (s.takeParams c) c.named := by
  obtain e | ⟨sampling, stop, e⟩ := takeParams_cases (s := s) (c := c)
  · rw [e]
    exact ⟨fun _ _ => rfl, rfl, rfl, rfl, ⟨_, rfl⟩⟩
  · rw [e]
    have mine := State.stream_setStream (s := s) (n := c.named) (m := c.named) (x := { s.stream c.named with sampling := sampling, stop := stop })
    rw [if_pos rfl] at mine
    exact ⟨fun m hm => State.stream_setStream.trans (if_neg hm), by rw [mine], by rw [mine], by rw [mine], ⟨_, rfl⟩⟩

end

/-- Settles O33, command by command: the equation of its start, and what that leaves. -/
theorem generationCommandsBegin : Obligations.GenerationCommandsBegin := by
  intro s id c s1 hw hm x pages
  refine ⟨fun ha h => ?_, fun ha h hr => ⟨fun hp => ?_, fun hp hn => ?_⟩, fun ha hp => ?_, fun ha hp h => ?_,
    fun p ha hp h hplan hs hr => ?_⟩
  case refine_1 => exact congrArg Host.Outcome.next (streamAppend_exceeds hw hm ha h)
  case refine_4 => exact congrArg Host.Outcome.next (streamGenerate_noInput hw hm ha hp)
  case refine_5 => exact congrArg Host.Outcome.next (streamGenerate_exceeds hw hm ha hp h)
  case refine_2 =>
    refine ⟨_, congrArg Host.Outcome.next (streamAppend_continues hw hm ha h hr hp), begin_eq ⟨_, rfl⟩, ?_, ?_, fun m hm => ?_⟩
    · exact begun_of_admitted (d := c) ha (cmds_of_streams ⟨_, rfl⟩) rfl
    · exact stream_begin_.trans stream_pagesTaken
    · exact stream_begin_.trans (stream_pagesTaken_other hm)
  case refine_3 =>
    refine ⟨_, congrArg Host.Outcome.next (streamAppend_first hw hm ha h hr hp hn), begin_eq ⟨_, rfl⟩, ?_, ?_⟩
    · exact begun_of_admitted (d := { c with done := 1 }) ha (cmds_of_streams ⟨_, rfl⟩) rfl
    · exact stream_begin_.trans stream_firstTaken
  case refine_6 =>
    obtain ⟨others, kept, length, pending, beside⟩ := takeParams_leaves (s := s.pagesTaken c) (c := c)
    rw [stream_pagesTaken] at kept length pending
    refine ⟨_, congrArg Host.Outcome.next (streamGenerate_begins hw hm ha hp h hplan hs hr), begin_eq ?_, ?_, ?_, ?_, ?_,
      fun h0 => ?_, fun m hm => ?_⟩
    · exact beside
    · exact begun_of_admitted (d := c) ha (cmds_of_streams beside) rfl
    · rw [stream_begin_, kept]
    · rw [stream_begin_, length]
    · rw [stream_begin_, pending]
    · rw [stream_begin_, takeParams_none h0, stream_pagesTaken]
    · rw [stream_begin_, others m hm, stream_pagesTaken_other hm]

end Sys2Proof.Machine
end

section
/-!
CORPUS_DELETE, epochs and measurements (R303, R310, R312, R424): the changes that wait, and what an epoch makes of them; O39.
-/
namespace Sys2Proof.Machine

/-! ## CORPUS_DELETE (R312) -/

section
variable {s t : State} {id : Nat} {c : Cmd} {k : Corpus} {remove tomb : List Nat}

/-- The change that a delete adds: vectors to be tombstoned, decks to be erased. -/
def Cmd.deletes (c : Cmd) (remove tomb : List Nat) : CorpusChange :=
  { cmd := c.id, add := [], remove := remove, tomb := tomb, last := remove == [] }

theorem addChange_begins : s.addChange c k remove tomb =
    (s.setCorpus c.part { k with changes := k.changes ++ [c.deletes remove tomb] }).begin_ { c with done := remove.length } := rfl

theorem corpus?_addChange : (s.addChange c k remove tomb).corpus? c.part = some { k with changes := k.changes ++ [c.deletes remove tomb] } :=
  corpus?_setCorpus

theorem addChange_eq : s.addChange c k remove tomb =
    { s with corpora := (s.addChange c k remove tomb).corpora, cmds := (s.addChange c k remove tomb).cmds } := rfl

section
variable (ha : s.admitted id 0x21 = some c)
include ha

theorem running_addChange : ((s.addChange c k remove tomb).cmd? id).map (·.phase) = some .running := by
  rw [addChange_begins, begun_of_admitted (d := { c with done := remove.length }) ha (by simp) rfl]
  rfl

theorem filter_of_admitted {p : Cmd → Bool} (h : p c = true) : (s.admitted id 0x21).filter p = some c := by
  rw [ha, Option.filter_some, if_pos h]

/-- A tombstone command that may start waits as a change, or names a vector outside the corpus. -/
theorem corpusDeleteTomb_starts (hf : c.flag 0 = false) (hw : c.phase = .waiting) (hm : s.mayStart c = true) (hd : (s.port c.port).dmaOn = true)
    (hk : s.corpus? c.part = some k) : corpusDeleteTomb id s =
      if (s.hostWords c.port (c.par 0x18 8) (c.par 0x20 4)).all fun i => (k.index? (i / 1024)).isSome then
        s.addChange c k [] (s.hostWords c.port (c.par 0x18 8) (c.par 0x20 4))
      else s.complete c (c.result stAccessDenied 0 0) := by
  unfold corpusDeleteTomb
  rw [filter_of_admitted ha (by simp [hf, hw])]
  refine (if_neg (by simp [hm, hd])).trans ?_
  rw [hk]

theorem corpusDeleteErase_starts {es : List (Nat × Nat)} (hf : c.flag 0 = true) (hw : c.phase = .waiting) (hm : s.mayStart c = true)
    (hk : s.corpus? c.part = some k) (he : c.decks.eraseDups.mapM (fun d => (k.index? d).map fun j => (d, j)) = some es) :
    corpusDeleteErase id s =
      if es.all (s.allTombed k) then s.addChange c k c.decks.eraseDups [] else s.complete c (c.result stDeckLive 0 0) := by
  unfold corpusDeleteErase
  rw [filter_of_admitted ha hf]
  dsimp only
  rw [hw]
  refine (if_neg (by simp [hm])).trans ?_
  rw [hk]
  dsimp only
  rw [he]

/-- An erase whose decks are erased completes. -/
theorem corpusDeleteErase_ends (hf : c.flag 0 = true) (hp : c.phase = .finished) (hl : s.eraseLeft c = false) :
    ∃ r, corpusDeleteErase id s = s.complete c r := by
  unfold corpusDeleteErase
  rw [filter_of_admitted ha hf]
  dsimp only
  rw [hp]
  exact ⟨_, if_neg (by simp [hl])⟩

end

end

/-! ## Epochs (R310) -/

section
variable {s t : State} {p id : Nat} {k : Corpus} {e : CorpusChange}

/-- Device time and the corpora. -/
def State.clockAndCorpora (s : State) : TimeBase × SMap Corpus := (s.time, s.corpora)

theorem abandonRefresh_clockAndCorpora {i : Nat} : (s.abandonRefresh i).clockAndCorpora = s.clockAndCorpora := by
  obtain e | e | ⟨k, -, e⟩ := abandonRefresh_cases (s := s) (i := i)
  · rw [e]
  · rw [e]
    rfl
  · rw [e]
    rfl

theorem eraseRemoved_clockAndCorpora {d : Nat} : (s.eraseRemoved id d).clockAndCorpora = s.clockAndCorpora := by
  unfold State.eraseRemoved
  dsimp only
  split
  · split <;> rfl
  · exact abandonRefresh_clockAndCorpora

theorem setTomb_clockAndCorpora {i : Nat} : (s.setTomb k i).clockAndCorpora = s.clockAndCorpora := by
  unfold State.setTomb
  split <;> rfl

theorem complete_clockAndCorpora {c : Cmd} {r : Result} : (s.complete c r).clockAndCorpora = s.clockAndCorpora := by
  obtain ⟨streams, e⟩ := complete_books (s := s) (c := c) (x := r)
  exact (congrArg State.clockAndCorpora e :)

theorem hostWrite_clockAndCorpora {q a : Nat} {bs : List Byte} : (s.hostWrite q a bs).clockAndCorpora = s.clockAndCorpora :=
  (congrArg State.clockAndCorpora hostWrite_unreported :)

/-- A corpus to which a change has happened. -/
def Corpus.changed (k : Corpus) (e : CorpusChange) : Corpus :=
  { k with decks := (k.decks.filter fun d => !(e.remove.contains d.1)) ++ e.add, epoch := k.epoch + 1 }

/-- Of device time and the corpora a change writes its own corpus alone. -/
theorem applyChange_clockAndCorpora (hk : s.corpus? p = some k) :
    (s.applyChange p e).clockAndCorpora = (s.time, sins s.corpora p (k.changed e)) := by
  have tombed : (e.tomb.foldl (fun s i => s.setTomb k i) s).clockAndCorpora = s.clockAndCorpora :=
    foldl_keeps State.clockAndCorpora (fun _ _ => setTomb_clockAndCorpora) _ _
  have erased (u : State) : (e.remove.foldl (fun s d => s.eraseRemoved e.cmd d) u).clockAndCorpora = u.clockAndCorpora :=
    foldl_keeps State.clockAndCorpora (fun _ _ => eraseRemoved_clockAndCorpora) _ _
  have written : ((e.tomb.foldl (fun s i => s.setTomb k i) s).setCorpus p (k.changed e)).clockAndCorpora =
      (s.time, sins s.corpora p (k.changed e)) :=
    congrArg (fun a : TimeBase × SMap Corpus => (a.1, sins a.2 p (k.changed e))) tombed
  have changed := (erased _).trans written
  unfold State.applyChange
  rw [hk]
  dsimp only
  split
  · exact changed
  · split
    · exact changed
    · split
      · split
        · exact complete_clockAndCorpora.trans (hostWrite_clockAndCorpora.trans changed)
        · exact complete_clockAndCorpora.trans changed
      · exact changed

/-- The corpora after the changes of one of them: it has counted each, and the others are as before. -/
theorem foldl_applyChange {l : List CorpusChange} (hk : s.corpus? p = some k) : ∃ k',
    (l.foldl (fun s e => s.applyChange p e) s).corpus? p = some k' ∧
    k'.changes = k.changes ∧ k'.epochBeat = k.epochBeat ∧ k'.epoch = k.epoch + BitVec.ofNat 32 l.length ∧
    (l.foldl (fun s e => s.applyChange p e) s).time = s.time ∧
    ∀ n, n ≠ p → (l.foldl (fun s e => s.applyChange p e) s).corpus? n = s.corpus? n := by
  induction l generalizing s k with
  | nil => exact ⟨k, hk, rfl, rfl, (BitVec.add_zero _).symm, rfl, fun _ _ => rfl⟩
  | cons e l ih =>
    have step := applyChange_clockAndCorpora (e := e) hk
    have mine : (s.applyChange p e).corpus? p = some (k.changed e) :=
      (congrArg (fun a => mget (Prod.snd a) p) step).trans (mget_sins.trans (if_pos rfl))
    obtain ⟨k', found, changes, beat, epoch, time, others⟩ := ih mine
    refine ⟨k', found, changes, beat, ?_, time.trans (congrArg Prod.fst step), fun n hn => (others n hn).trans ?_⟩
    · rw [epoch]
      have one : BitVec.ofNat 32 (e :: l).length = 1 + BitVec.ofNat 32 l.length := by
        rw [List.length_cons, Nat.add_comm, BitVec.ofNat_add]
        rfl
      rw [one, ← BitVec.add_assoc]
      rfl
    · exact (congrArg (fun a => mget (Prod.snd a) n) step).trans (mget_sins.trans (if_neg hn))

/-- The state in which an epoch of a partition begins: no change waits in its corpus any more. -/
def State.epochOpened (s : State) (p : Nat) (k : Corpus) : State :=
  (s.advanceTo s.nextBoundary).setCorpus p { k with changes := [], epochBeat := some (s.advanceTo s.nextBoundary).beat }

theorem corpusEpoch_applies (hs : s.serving = true) (hb : mget s.batches p = none) (hk : s.corpus? p = some k) (hc : k.changes ≠ [])
    (hr : ∀ c ∈ s.cmds, c.op = 0x20 → c.part = p → c.phase ≠ .running) :
    corpusEpoch p s = (k.changes.foldl (fun s e => s.applyChange p e) (s.epochOpened p k)).fitService p := by
  have settled : (s.cmds.filter fun c => c.op == 0x20 && c.part == p && decide (c.phase = .running)) = [] :=
    List.filter_eq_nil_iff.2 fun c hm => by simpa using hr c hm
  unfold corpusEpoch
  rw [settled]
  refine (if_neg (by simp [hs, hb])).trans ?_
  dsimp only [List.foldl_nil]
  rw [hk]
  exact if_neg hc

/-! ## Measurements (R424) -/

/-- The decks of a corpus among all of the device. -/
def State.corpusDecks (s : State) (k : Corpus) : List Nat := (List.range (192 * s.nCores)).filter fun d => (k.index? d).isSome

theorem corpusMeasurement_measures (hs : s.serving = true) (hk : s.corpus? p = some k) (hm : (List.range s.nRegions).any s.inMaintenance = true) :
    corpusMeasurement p s = s.setCorpus p { k with measured := some (k.epoch, s.contentsDigest (s.corpusDecks k)) } := by
  unfold corpusMeasurement
  rw [hk]
  exact if_neg (by simp [hs, hm])

end

/-- Settles O39: the deletes by the change that each adds, an epoch by the corpora that its changes leave, and the measurement. -/
theorem corpusChangesTakeEffect : Obligations.CorpusChangesTakeEffect := by
  intro s hs
  refine ⟨fun id c k ha hf hw hm hd hk => ?_, fun id c k es ha hf hw hm hk hne he => ?_, fun id c ha hf hp hl => ?_,
    fun p k hk hb hc hr => ?_, fun p k hk hm => ?_⟩
  · intro l
    have starts := corpusDeleteTomb_starts ha hf hw hm hd hk
    split
    next inside =>
      rw [if_pos inside] at starts
      exact ⟨_, _, congrArg Host.Outcome.next starts, addChange_eq, corpus?_addChange, id_of_admitted ha, rfl, rfl, rfl, running_addChange ha⟩
    next outside =>
      rw [if_neg outside] at starts
      exact congrArg Host.Outcome.next starts
  · have starts := corpusDeleteErase_starts ha hf hw hm hk he
    split
    next tombed =>
      rw [if_pos tombed] at starts
      exact ⟨_, _, congrArg Host.Outcome.next starts, addChange_eq, corpus?_addChange, id_of_admitted ha, rfl, rfl⟩
    next live =>
      rw [if_neg live] at starts
      exact congrArg Host.Outcome.next starts
  · obtain ⟨r, ends⟩ := corpusDeleteErase_ends ha hf hp hl
    obtain ⟨streams, books⟩ := complete_books (s := s) (c := c) (x := r)
    refine ⟨_, congrArg Host.Outcome.next ends, ?_, (congrArg State.corpora books :)⟩
    rw [← id_of_admitted ha]
    exact (congrArg State.cmds books :)
  · have applies := corpusEpoch_applies hs hb hk hc hr
    obtain ⟨k', found, changes, beat, epoch, time, others⟩ := foldl_applyChange (s := s.epochOpened p k) (l := k.changes) corpus?_setCorpus
    have fitted := eq_of_shell (congrArg Prod.fst (fitService_shelved (p := p.val)
      (s := k.changes.foldl (fun s e => s.applyChange p e) (s.epochOpened p k))))
    refine ⟨_, k', congrArg Host.Outcome.next (applies.trans fitted), found, changes, epoch, beat, time, fun n hn => (others n hn).trans ?_⟩
    exact mget_sins.trans (if_neg hn)
  · exact ⟨_, congrArg Host.Outcome.next (corpusMeasurement_measures hs hk hm), rfl, corpus?_setCorpus⟩

end Sys2Proof.Machine
end

section
/-!
Writes of SQ_CFG and CQ_CFG (R350, R351): one equation for each answer; O27.
-/
namespace Sys2Proof.Machine

/-! ## The word that is written -/

section
variable {v mask cfg : Word}

theorem bitAt_enable (h : bitAt mask 31 = true) : bitAt ((v ||| 0x80000000) &&& mask) 31 = true := by
  have set : bitAt (0x80000000 : Word) 31 = true := rfl
  simp only [bitAt] at h set ⊢
  rw [BitVec.getLsbD_and, BitVec.getLsbD_or, set, h, Bool.or_true, Bool.and_true]

theorem bitAt_disable : bitAt ((v &&& 0x7FFFFFFF) &&& mask) 31 = false := by
  have clear : bitAt (0x7FFFFFFF : Word) 31 = false := rfl
  simp only [bitAt] at clear ⊢
  rw [BitVec.getLsbD_and, BitVec.getLsbD_and, clear, Bool.and_false, Bool.false_and]

/-- A disable that repeats the fields of the register changes none of them. -/
theorem fields_kept (h : (v &&& 0x7FFFFFFF) &&& mask = cfg &&& 0x7FFFFFFF) :
    ((v &&& 0x7FFFFFFF) &&& mask ^^^ cfg) &&& 0x7FFFFFFF = 0 := by
  rw [h]
  refine (BitVec.eq_of_getLsbD_eq fun i _ => ?_ : _ = 0#32)
  rw [BitVec.getLsbD_and, BitVec.getLsbD_xor, BitVec.getLsbD_and, BitVec.getLsbD_zero]
  cases BitVec.getLsbD (0x7FFFFFFF : Word) i
  · exact Bool.and_false _
  · rw [Bool.and_true, Bool.and_true, Bool.xor_self]

end

section
variable {s : State} {p n : Nat} {v : Word}

/-! ## SQ_CFG -/

/-- The write changes a field other than ENABLE of a ring that is active (R350). -/
def State.sqFieldsChanged (s : State) (p n : Nat) (w : Word) : Prop :=
  s.sqActive p n = true ∧ (w ^^^ ((s.port p).sq n).cfg) &&& 0x7FFFFFFF ≠ 0

theorem writeSqCfg_changed (h : s.sqFieldsChanged p n (v &&& sqCfgBits)) : s.writeSqCfg p n v = s.setupError p 1 (0x1000 + 0x40 * n + 8) :=
  if_pos h

theorem writeSqCfg_disables (h : ¬s.sqFieldsChanged p n (v &&& sqCfgBits)) (off : bitAt (v &&& sqCfgBits) 31 = false) :
    s.writeSqCfg p n v = s.setPort p ((s.port p).setSq n { (s.port p).sq n with cfg := v &&& sqCfgBits }) :=
  (if_neg h).trans (if_neg (by simp [off]))

theorem writeSqCfg_stillActive (h : ¬s.sqFieldsChanged p n (v &&& sqCfgBits)) (on : bitAt (v &&& sqCfgBits) 31 = true)
    (active : s.sqActive p n = true) (disabled : bitAt ((s.port p).sq n).cfg 31 = false) :
    s.writeSqCfg p n v = s.setupError p 5 (0x1000 + 0x40 * n + 8) :=
  (if_neg h).trans ((if_pos on).trans (if_pos ⟨active, disabled⟩))

theorem writeSqCfg_noCompletionRing (idle : s.sqActive p n = false) (on : bitAt (v &&& sqCfgBits) 31 = true)
    (closed : bitAt ((s.port p).cq (fld (v &&& sqCfgBits) 21 16)).cfg 31 = false) :
    s.writeSqCfg p n v = s.setupError p 2 (0x1000 + 0x40 * n + 8) :=
  (if_neg fun h => by simp [idle] at h).trans ((if_pos on).trans ((if_neg (by simp [idle])).trans (if_pos (.inl closed))))

theorem writeSqCfg_enables (on : bitAt (v &&& sqCfgBits) 31 = true)
    (idle : s.sqActive p n = false ∨ bitAt ((s.port p).sq n).cfg 31 = true ∧ ((v &&& sqCfgBits) ^^^ ((s.port p).sq n).cfg) &&& 0x7FFFFFFF = 0)
    (completion : bitAt ((s.port p).cq (fld (v &&& sqCfgBits) 21 16)).cfg 31 = true)
    (least : 6 ≤ fld (v &&& sqCfgBits) 4 0) (most : fld (v &&& sqCfgBits) 4 0 ≤ 16) (base : ((s.port p).sq n).base ≠ 0)
    (headword : ((s.port p).sq n).headword ≠ 0) (doorbell : (s.port p).doorbellBase ≠ 0) :
    s.writeSqCfg p n v = s.setPort p ((s.port p).setSq n { (s.port p).sq n with cfg := v &&& sqCfgBits }) := by
  have kept : ¬s.sqFieldsChanged p n (v &&& sqCfgBits) := by
    rintro ⟨active, changed⟩
    rcases idle with idle | ⟨-, same⟩
    · simp [idle] at active
    · exact changed same
  have settled : ¬(s.sqActive p n = true ∧ bitAt ((s.port p).sq n).cfg 31 = false) := by
    rintro ⟨active, disabled⟩
    rcases idle with idle | ⟨enabled, -⟩
    · simp [idle] at active
    · simp [disabled] at enabled
  have valid : ¬(bitAt ((s.port p).cq (fld (v &&& sqCfgBits) 21 16)).cfg 31 = false ∨ fld (v &&& sqCfgBits) 4 0 < 6 ∨
      16 < fld (v &&& sqCfgBits) 4 0 ∨ ((s.port p).sq n).base = 0 ∨ ((s.port p).sq n).headword = 0) := by
    simp only [not_or, not_lt]
    exact ⟨by simp [completion], least, most, base, headword⟩
  exact (if_neg kept).trans ((if_pos on).trans ((if_neg settled).trans ((if_neg valid).trans (if_neg doorbell))))

/-! ## CQ_CFG -/

theorem writeCqCfg_enables (disabled : bitAt ((s.port p).cq n).cfg 31 = false) (on : bitAt (v &&& cqCfgBits) 31 = true)
    (least : 6 ≤ fld (v &&& cqCfgBits) 4 0) (most : fld (v &&& cqCfgBits) 4 0 ≤ 16) (base : ((s.port p).cq n).base ≠ 0) :
    s.writeCqCfg p n v = s.setPort p ((s.port p).setCq n { (s.port p).cq n with cfg := v &&& cqCfgBits }) := by
  have valid : ¬(fld (v &&& cqCfgBits) 4 0 < 6 ∨ 16 < fld (v &&& cqCfgBits) 4 0 ∨ ((s.port p).cq n).base = 0) := by
    simp only [not_or, not_lt]
    exact ⟨least, most, base⟩
  exact (if_neg (by simp [disabled])).trans ((if_pos on).trans (if_neg valid))

theorem writeCqCfg_invalid (disabled : bitAt ((s.port p).cq n).cfg 31 = false) (on : bitAt (v &&& cqCfgBits) 31 = true)
    (invalid : fld (v &&& cqCfgBits) 4 0 < 6 ∨ 16 < fld (v &&& cqCfgBits) 4 0 ∨ ((s.port p).cq n).base = 0) :
    s.writeCqCfg p n v = s.setupError p 6 (0x2000 + 0x40 * n + 8) :=
  (if_neg (by simp [disabled])).trans ((if_pos on).trans (if_pos invalid))

/-- The two answers to a disable that changes no other field: an active submission ring names the completion ring, or none does. -/
theorem writeCqCfg_disables (same : ((v &&& cqCfgBits) ^^^ ((s.port p).cq n).cfg) &&& 0x7FFFFFFF = 0)
    (off : bitAt (v &&& cqCfgBits) 31 = false) :
    s.writeCqCfg p n v =
      if (List.range 64).any fun k => s.sqActive p k && fld ((s.port p).sq k).cfg 21 16 == n then s.setupError p 4 (0x2000 + 0x40 * n + 8)
      else s.setPort p ((s.port p).setCq n { (s.port p).cq n with cfg := v &&& cqCfgBits, inEffect := false }) :=
  (if_neg fun h => h.2 same).trans (if_neg (by simp [off]))

/-! ## A refusal -/

/-- A refusal records its code and the offset of the register of ring n, and sets the port event (R350). -/
theorem setupError_at {code base : Nat} : s.setupError p code (base + 0x40 * n + 8) =
    (s.setPort p { s.port p with setupErr := BitVec.ofNat 32 (code * 0x10000 + (base + 8 + 0x40 * n)) }).portEvent p 3 := by
  rw [Nat.add_right_comm base]
  rfl

end

/-- Settles O27: each form is a write of SQ_CFG or CQ_CFG, by the equation for its answer. -/
theorem ringSetupWrites : Obligations.RingSetupWrites := by
  intro s p n v writable hp q c on onC error
  have gate (t : State) : (if s.portWritable p = false then s else t) = t := if_neg (by simp [writable])
  have onSq : bitAt on 31 = true := bitAt_enable rfl
  have onCq : bitAt onC 31 = true := bitAt_enable rfl
  refine ⟨fun idle completion least most base headword doorbell => ?_, fun idle closed => ?_, fun active changed => ?_,
    fun active disabled same => ?_, fun same => ?_, fun disabled least most base => ?_, fun disabled invalid => ?_,
    fun same => ⟨fun free => ?_, fun k hk active names => ?_⟩⟩ <;> refine congrArg Host.Outcome.next ((gate _).trans ?_)
  · exact writeSqCfg_enables onSq idle completion least most base headword doorbell
  · exact (writeSqCfg_noCompletionRing idle onSq closed).trans setupError_at
  · exact (writeSqCfg_changed ⟨active, changed⟩).trans setupError_at
  · exact (writeSqCfg_stillActive (fun h => h.2 same) onSq active disabled).trans setupError_at
  · exact writeSqCfg_disables (fun h => h.2 (fields_kept same)) bitAt_disable
  · exact writeCqCfg_enables disabled onCq least most base
  · exact (writeCqCfg_invalid disabled onCq invalid).trans setupError_at
  · refine (writeCqCfg_disables (fields_kept same) bitAt_disable).trans (if_neg ?_)
    simpa using free
  · refine (writeCqCfg_disables (fields_kept same) bitAt_disable).trans ((if_pos ?_).trans setupError_at)
    exact List.any_eq_true.2 ⟨k, List.mem_range.2 hk, by simp [active, names]⟩

end Sys2Proof.Machine
end

section
/-!
What the host's configuration and a failed read do to a port (R341-R343, R439); O23.
-/
namespace Sys2Proof.Machine

section
variable {s : State} {p : Nat}

theorem not_dead_of_answers (h : s.answers p = true) : s.dead = false := by
  simp only [State.answers, Bool.and_eq_true, Bool.not_eq_true'] at h
  exact h.1.1.1

theorem reachable_of_answers (h : s.answers p = true) : s.reachable p = true := by
  have powered := (Bool.or_eq_false_iff.1 (not_dead_of_answers h)).1
  simp only [State.answers, Bool.and_eq_true] at h
  obtain ⟨⟨⟨-, present⟩, link⟩, ready⟩ := h
  simp [State.reachable, powered, present, link, ready]

/-! ## Bus mastering -/

/-- With no write waiting there is none to send. -/
theorem flushPort_empty (hp : p < s.ports.length) (h : (s.port p).queued = []) : s.flushPort p = s := by
  have self : ({ s.port p with queued := [] } : Port) = s.port p := by rw [← h]
  unfold State.flushPort
  dsimp only
  split
  · rfl
  · rw [h, List.foldl_nil, self, setPort_port hp]

/-! ## D3hot -/

theorem dmaOn_d3hot {x : Port} (h : x.d3hot = true) : x.dmaOn = false := by
  simp [Port.dmaOn, h]

/-! ## Failed reads -/

theorem aerOn_single {fatal : Bool} :
    s.aerOn [p] fatal = (s.setPort p { s.port p with aer := (s.port p).aer + 1 }).emit (.aer p fatal) := rfl

theorem mem_out_emit {m : Msg} : m ∈ (s.emit m).out := List.mem_cons_self

theorem hostDmaError_ends {id : Nat} {c : Cmd} (hs : s.serving = true) (hc : s.cmd? id = some c) (hp : c.port = p)
    (hr : c.readsHost = true) : hostDmaError p id s = (s.endCmd c stHostDmaError).aerOn [p] false := by
  have found : ((s.cmd? id).filter fun c => c.port == p && c.readsHost) = some c := by simp [hc, hp, hr]
  unfold hostDmaError
  rw [found]
  exact if_neg (by simp [hs])

end

/-- Settles O23: every form passes the test that the function answers; the port is then the one that is set. -/
theorem portsAnswerConfiguration : Obligations.PortsAnswerConfiguration := by
  intro s p answers
  have gate (t : State) : (if s.answers p = false then s else t) = t := if_neg (by simp [answers])
  have reached (t : State) : (if s.reachable p = false then s else t) = t := if_neg (by simp [reachable_of_answers answers])
  refine ⟨fun on => ⟨congrArg Host.Outcome.next (gate _), fun hp idle => ?_⟩, fun hp => ⟨?_, ?_⟩, congrArg Host.Outcome.next (gate _),
    congrArg Host.Outcome.next (gate _), fun enter => congrArg Host.Outcome.next (gate _), congrArg Host.Outcome.next (reached _),
    fun id c kind hs hc hport hr => ?_⟩
  · have flushed : (s.setPort p { s.port p with busMaster := on }).flushPort p = _ :=
      flushPort_empty (by simpa using hp) (by rw [State.port_setPort hp]; exact idle)
    exact ⟨_, congrArg Host.Outcome.next ((gate _).trans flushed), rfl, State.port_setPort hp⟩
  · have port : (s.setPort p { s.port p with d3hot := true, resuming := false }).port p = _ := State.port_setPort hp
    exact ⟨_, congrArg Host.Outcome.next (gate _), rfl, port, dmaOn_d3hot (congrArg Port.d3hot port)⟩
  · exact ⟨_, congrArg Host.Outcome.next (gate _), rfl, State.port_setPort hp⟩
  · exact ⟨_, congrArg Host.Outcome.next (hostDmaError_ends hs hc hport hr), rfl, mem_out_emit⟩

end Sys2Proof.Machine
end

section
/-!
What still acts in a block that has tripped (R392): of the rows that may change the trip latch, POWER_ON alone; O5.
-/
namespace Sys2Proof.Machine

section
variable {s : State} (trip : s.latches.tripped = true)
include trip

theorem dead_of_tripped : s.dead = true := by simp [State.dead, trip]

theorem managed_of_tripped : s.managed = false := by simp [State.managed, trip]

theorem manageable_of_tripped : s.manageable = false := by simp [State.manageable, managed_of_tripped trip]

theorem updatable_of_tripped : s.updatable = false := by simp [State.updatable, dead_of_tripped trip]

theorem applyComplete_tripped {ok : Bool} : applyComplete ok s = s := by
  unfold applyComplete
  split
  · exact if_pos (updatable_of_tripped trip)
  · rfl

theorem aliasCertSign_tripped : aliasCertSign s = s := by
  unfold aliasCertSign
  split
  · exact if_pos (.inl (dead_of_tripped trip))
  · rfl

/-- Resets other than a power-on, keys, fuses, the firmware image, tamper and the trip itself change nothing after a trip. -/
theorem exec_tripped {i : Instr} {t : State} (hi : changesStable i = true) (h : exec i s = .next t) :
    t = s ∨ ∃ b p lc up, i = .powerOn b p lc up := by
  have hdead := dead_of_tripped trip
  have hmanageable := manageable_of_tripped trip
  cases i with
  | powerOn b p lc up => exact .inr ⟨b, p, lc, up, rfl⟩
  | deviceReady | fuseBlow => exact .inl ((Host.Outcome.next.inj h).symm.trans (if_pos (.inl hdead)))
  | temperatureRead => exact .inl ((execTemperatureRead_next h).trans (if_pos hdead))
  | deviceReset | activateFirmware | tamper | thermTrip => exact .inl ((Host.Outcome.next.inj h).symm.trans (if_pos (.inl trip)))
  | deviceResetMessage => exact .inl ((Host.Outcome.next.inj h).symm.trans (if_pos (managed_of_tripped trip)))
  | keySet | keyClear | keyRevoke | lcTransition => exact .inl ((Host.Outcome.next.inj h).symm.trans (if_pos hmanageable))
  | applyComplete => exact .inl ((Host.Outcome.next.inj h).symm.trans (applyComplete_tripped trip))
  | aliasCertSign => exact .inl ((Host.Outcome.next.inj h).symm.trans (aliasCertSign_tripped trip))
  | _ => cases hi

end

/-- Settles O5: a row either leaves the bundle with the trip latch, or does nothing after a trip, or is POWER_ON. -/
theorem tripStaysUntilPowerOn : Obligations.TripStaysUntilPowerOn := by
  intro i s t trip h
  cases hi : changesStable i with
  | false => exact .inl ((congrArg Stable.tripped (exec_stable hi h)).trans trip)
  | true => exact (exec_tripped trip hi h).imp_left fun same => (congrArg (·.latches.tripped) same).trans trip

end Sys2Proof.Machine
end

section
/-!
How the boot ends after a power-on and after a device reset, and what the resets keep (R416, R420, R437); O20.
-/
namespace Sys2Proof.Machine

/-- The phase in which the boot ROM's run ends (R416). -/
def bootEnd : Nat → BootPhase
  | 0 => .booted
  | c => .failed c

/-- What is sampled at power-on: LC_ENABLE and the straps. -/
def Boot.sampled (b : Boot) : Bool × BitVec 2 × BitVec 2 := (b.lcEnable, b.strapBif, b.strapPart)

/-- What a power-on sets and a start-up leaves: the trip latch, the install keys, and what is sampled. -/
def Stable.poweredOn (x : Stable) : Bool × SMap (Option (List Byte × Nat)) × Bool × BitVec 2 × BitVec 2 :=
  (x.tripped, x.verm.slots, x.boot.sampled)

section
variable {s t : State} {up : StartUp} {b p : BitVec 2} {lc : Bool} {c : ResetCause}

/-- The parts of what a power-on sets. -/
theorem poweredOn_iff {trip : Bool} {keys : SMap (Option (List Byte × Nat))} : s.stable.poweredOn = (trip, keys, lc, b, p) ↔
    s.latches.tripped = trip ∧ s.verm.slots = keys ∧ s.boot.lcEnable = lc ∧ s.boot.strapBif = b ∧ s.boot.strapPart = p := by
  simp [State.stable, Stable.poweredOn, Boot.sampled]

/-! ## The start-up -/

/-- The boot depends on the fuses and the flash. -/
theorem bootCode_of_lasting (h : t.stable.lasting = s.stable.lasting) : t.bootCode up = s.bootCode up := by
  obtain ⟨-, -, fuses, flash⟩ := lasting_iff.1 h
  have bytes : t.flashBytes = s.flashBytes := by
    unfold State.flashBytes State.flashByte
    rw [flash]
  unfold State.bootCode
  rw [fuses, bytes]

theorem deriveKeys_boot : s.deriveKeys.boot = s.boot := by
  unfold State.deriveKeys
  split <;> rfl

theorem bootRom_boot : (s.bootRom up).boot.phase = bootEnd (s.bootCode up) ∧ (s.bootRom up).boot.sampled = s.boot.sampled := by
  unfold State.bootRom
  split
  next booted =>
    rw [booted, deriveKeys_boot]
    exact ⟨rfl, rfl⟩
  next failed => exact ⟨(bootEnd.eq_2 _ failed).symm, rfl⟩

/-- What follows the boot ROM's run leaves the running image. -/
theorem startUp_bootRom : (s.startUp up).boot = (s.readConfig.bootRom up).boot := by
  unfold State.startUp
  extract_lets booted
  split
  · exact congrArg Stable.boot (by simp : State.stable _ = booted.stable)
  · rfl

theorem startUp_phase : (s.startUp up).boot.phase = bootEnd (s.bootCode up) := by
  rw [startUp_bootRom, bootRom_boot.1, bootCode_of_lasting (congrArg Stable.lasting State.readConfig_stable)]

theorem startUp_poweredOn : (s.startUp up).stable.poweredOn = s.stable.poweredOn := by
  obtain ⟨-, tripped, slots⟩ := held_iff.1 (State.startUp_held (s := s) (up := up))
  have read : s.readConfig.boot = s.boot := congrArg Stable.boot State.readConfig_stable
  have sampled : (s.startUp up).boot.sampled = s.boot.sampled := by rw [startUp_bootRom, bootRom_boot.2, read]
  exact Prod.ext tripped (Prod.ext slots sampled)

/-! ## Power-on -/

/-- A power-on is the start-up of a state whose trip latch and keys are clear and whose straps and LC_ENABLE have been sampled. -/
theorem powerOn_startUp : ∃ u : State, powerOn b p lc up s = u.startUp up ∧ u.stable.poweredOn = (false, [], lc, b, p) := by
  have replayed (u : State) (lost : List Nat) : ((List.range u.nRegions).foldl (fun (v : State) r => v.replayRepairs lost r) u).stable = u.stable :=
    foldl_stable (fun _ _ => State.replayRepairs_stable) rfl
  unfold powerOn
  refine ⟨_, rfl, (congrArg Stable.poweredOn (replayed _ _)).trans ?_⟩
  split
  · rfl
  · exact congrArg Stable.poweredOn State.reportOnly_stable

theorem powerOn_poweredOn : (powerOn b p lc up s).stable.poweredOn = (false, [], lc, b, p) := by
  obtain ⟨u, run, set⟩ := powerOn_startUp (s := s) (up := up) (b := b) (p := p) (lc := lc)
  rw [run, startUp_poweredOn, set]

theorem powerOn_phase : (powerOn b p lc up s).boot.phase = bootEnd (s.cutUpdate.bootCode up) := by
  obtain ⟨u, run, -⟩ := powerOn_startUp (s := s) (up := up) (b := b) (p := p) (lc := lc)
  have kept : u.stable.lasting = s.cutUpdate.stable.lasting := by
    rw [← powerOn_lasting (b := b) (p := p) (lc := lc) (up := up), run, State.startUp_lasting]
  rw [run, startUp_phase, bootCode_of_lasting kept]

/-! ## Device resets -/

/-- A device reset is the start-up of a state that keeps what was sampled at power-on. -/
theorem resetDevice_startUp : ∃ u : State, s.resetDevice c up = u.startUp up ∧ u.boot.sampled = s.boot.sampled := by
  have cleared (u : State) : (u.clearAll false).boot.sampled = u.boot.sampled := rfl
  unfold State.resetDevice
  extract_lets cut suspects v w
  refine ⟨_, rfl, ?_⟩
  exact cleared cut

theorem resetDevice_sampled : (s.resetDevice c up).boot.sampled = s.boot.sampled := by
  obtain ⟨u, run, sampled⟩ := resetDevice_startUp (s := s) (c := c) (up := up)
  rw [run, ← sampled]
  exact congrArg (·.2.2) startUp_poweredOn

theorem resetDevice_phase : (s.resetDevice c up).boot.phase = bootEnd (s.cutUpdate.bootCode up) := by
  obtain ⟨u, run, -⟩ := resetDevice_startUp (s := s) (c := c) (up := up)
  have kept : u.stable.lasting = s.cutUpdate.stable.lasting := by
    rw [← State.resetDevice_lasting (c := c) (up := up), run, State.startUp_lasting]
  rw [run, startUp_phase, bootCode_of_lasting kept]

/-- What every device reset leaves: the fuses, the flash but for a write that it cuts, and the install keys. -/
theorem resetDevice_keeps : (s.resetDevice c up).fuses = s.fuses ∧ (s.resetDevice c up).flash = s.cutFlash ∧
    (s.resetDevice c up).verm.slots = s.verm.slots := by
  obtain ⟨lasting, -, slots⟩ := held_iff.1 (State.resetDevice_held (s := s) (c := c) (up := up))
  obtain ⟨-, -, fuses, flash⟩ := lasting_iff.1 lasting
  exact ⟨fuses, flash, slots⟩

theorem cutFlash_applied (h : s.mgmt.update = .applied) : s.cutFlash = s.flash := by
  simp [State.cutFlash, Mgmt.applying, h]

end

/-- Settles O20: each reset by the start-up that it ends with. -/
theorem resetsKeepWhatLasts : Obligations.ResetsKeepWhatLasts := by
  intro s up after
  have ended : bootEnd (s.cutUpdate.bootCode up) = after := by
    dsimp only [after]
    cases s.cutUpdate.bootCode up <;> rfl
  clear_value after
  refine ⟨fun b p lc => ?_, fun c trip hphase => ?_, fun hm => ?_, fun trip hphase hu => ?_⟩
  · have set := powerOn_poweredOn (s := s) (b := b) (p := p) (lc := lc) (up := up)
    obtain ⟨pending, grade, fuses, flash⟩ := lasting_iff.1 (powerOn_lasting (s := s) (b := b) (p := p) (lc := lc) (up := up))
    obtain ⟨tripped, slots, lcEnable, ports, parts⟩ := poweredOn_iff.1 set
    exact ⟨_, rfl, pending, grade, fuses, flash, slots, tripped, ports, parts, lcEnable, powerOn_phase.trans ended⟩
  · have run : deviceReset c up s = s.resetDevice c up := if_neg (by simp [trip, hphase])
    obtain ⟨fuses, flash, slots⟩ := resetDevice_keeps (s := s) (c := c) (up := up)
    exact ⟨_, congrArg Host.Outcome.next run, fuses, flash, slots, congrArg Prod.fst resetDevice_sampled, resetDevice_phase.trans ended⟩
  · have run : deviceResetMessage up s = (s.answer ccSuccess []).resetDevice .message up := if_neg (by simp [hm])
    obtain ⟨fuses, flash, slots⟩ := resetDevice_keeps (s := s.answer ccSuccess []) (c := .message) (up := up)
    exact ⟨_, congrArg Host.Outcome.next run, fuses, flash, slots, resetDevice_phase.trans ended⟩
  · have run : activateFirmware up s = (s.emit (.update 4 0)).resetDevice .fwActivate up := if_neg (by simp [trip, hphase, hu])
    obtain ⟨fuses, flash, slots⟩ := resetDevice_keeps (s := s.emit (.update 4 0)) (c := .fwActivate) (up := up)
    exact ⟨_, congrArg Host.Outcome.next run, fuses, flash.trans (cutFlash_applied hu), slots, resetDevice_phase.trans ended⟩

end Sys2Proof.Machine
end

section
/-!
Changes of point (R379), and the answers to droop, dip and the regulators (R380, R388, R389); O15 and O16.
-/
namespace Sys2Proof.Machine

section
variable {s : State} {r : Nat}

/-! ## Changes of point -/

/-- Region r after a change of its point at the next beat boundary. -/
def State.pointSet (s : State) (r v : Nat) (x : Region) : State := (s.advanceTo s.nextBoundary).setRegion r { x with point := v, raise := none }

theorem vfRaise_reached {v b core sram : Nat} (hd : s.dead = false) (hr : (s.region r).raise = some (v, some b)) (hb : s.beat ≤ b + 4)
    (hcore : ((core : Int) - vfCoreMv v).natAbs ≤ 5) (hsram : ((sram : Int) - vfSramMv v).natAbs ≤ 5) :
    vfRaise r core sram s =
      if s.stepEdge r = true then s.pointSet r v (s.region r) else s.setRegion r { s.region r with raise := some (v, none) } := by
  unfold vfRaise
  rw [hr]
  refine (if_neg (by simp [hd, hb, hcore, hsram])).trans ?_
  cases s.stepEdge r <;> rfl

theorem vfRaise_waiting {v core sram : Nat} (hd : s.dead = false) (hr : (s.region r).raise = some (v, none)) (he : s.stepEdge r = true) :
    vfRaise r core sram s = s.pointSet r v (s.region r) := by
  unfold vfRaise
  rw [hr]
  exact (if_neg (by simp [hd])).trans (if_neg (by simp [he]))

theorem vfAbandon_late {v b : Nat} (hd : s.dead = false) (hr : (s.region r).raise = some (v, some b)) (hb : b + 4 ≤ s.beat) :
    vfAbandon r s =
      (((s.setRegion r { s.region r with raise := none }).command r (s.region r).point).hubInc rVfAbandon 1).hubOr rPwrEvents 0x20 := by
  unfold vfAbandon
  rw [hr]
  exact if_neg (by simp [hd, hb])

theorem vfLower_edge {v : Nat} (hd : s.dead = false) (hl : (s.region r).lower = some v) (he : s.stepEdge r = true) :
    vfLower r s = (s.pointSet r v { s.region r with lower := none }).command r v := by
  unfold vfLower
  rw [hl]
  exact if_neg (by simp [hd, he])

/-! ## Droop -/

theorem droop_deep {depth : Nat} (hd : s.dead = false) (h : s.droopMv < depth) :
    droop r depth s = (s.setRegion r { s.region r with droop := some ((s.region r).droop.getD s.time.now) }).hubInc (rDroopCount + 4 * r) 1 :=
  if_neg (by simp [hd, h])

theorem droopRecovery_inTime {ns d : Nat} (hd : s.dead = false) (hr : (s.region r).droop = some d) (h : ns ≤ s.beatNs) :
    droopRecovery r ns s =
      (s.advanceTo (d + ns + ceilDiv 2560 (vfMhz100 (s.region r).point))).setRegion r { s.region r with droop := none } := by
  unfold droopRecovery
  rw [hr]
  exact (if_neg (by simp [hd])).trans (if_neg (Nat.not_lt.2 h))

/-! ## Dip -/

/-- An event of a source whose Severe handling is its report. -/
theorem faultEvent_reportOnly {src inst lvl : Nat} (h : src = 2 ∨ src = 3 ∨ src = 4) : s.faultEvent src inst lvl = s.reportOnly src inst lvl := by
  rcases h with rfl | rfl | rfl <;> rfl

/-- What the control of the levels leaves. -/
theorem setLevels_fields : s.setLevels.power = s.power ∧ s.setLevels.cmds = s.cmds ∧ s.setLevels.streams = s.streams ∧
    s.setLevels.hub = s.hub ∧ s.setLevels.time = s.time := by
  have left : s.setLevels.unregioned = s.unregioned := congrArg Prod.fst setLevels_besideLevels
  exact ⟨(congrArg State.power left :), (congrArg State.cmds left :), (congrArg State.streams left :), (congrArg State.hub left :),
    (congrArg State.time left :)⟩

/-- A dip with its beat, its event and its count. -/
def State.dipped (s : State) : State := (({ s with power := { s.power with dip := some s.beat } } : State).hubOr rPwrEvents 1).hubInc rDipCount 1

theorem supplyDip_alive {rail : Rail} (hd : s.dead = false) : supplyDip rail s = (s.dipped.reportOnly 3 0 0).setLevels := by
  rw [← faultEvent_reportOnly (by decide)]
  exact if_neg (by simp [hd])

theorem dipRecovery_clean {b : Nat} (hd : s.dead = false) (hp : s.power.dip = some b) (hb : b + 4 ≤ s.beat) :
    dipRecovery s =
      ({ s.advanceTo ((s.beat + 1) * s.beatNs) with power := { s.power with dip := none } } : State).setLevels := by
  unfold dipRecovery
  rw [hp]
  exact if_neg (by simp [hd, hb])

/-! ## Regulators -/

theorem pmbAlert_alive {rail : Rail} {w : BitVec 16} (hd : s.dead = false) :
    pmbAlert rail w s = (s.hubOr rPwrEvents 0x10).reportOnly 4 0 1 := by
  rw [← faultEvent_reportOnly (by decide)]
  exact if_neg (by simp [hd])

/-- The readings of the regulators that answered take the place of their earlier ones. -/
def State.metered (s : State) (l : List Telemetry) : State :=
  let new := l.filter fun t => t.reading.isSome
  { s with power := { s.power with
      readAt := some s.beat, readings := (s.power.readings.filter fun t => !(new.any fun u => u.rail == t.rail)) ++ new } }

theorem pmbusTelemetry_due {l : List Telemetry} (hd : s.dead = false) (h : ∀ b, s.power.readAt = some b → b + 16 ≤ s.beat) :
    pmbusTelemetry l s = s.metered l := by
  unfold pmbusTelemetry
  cases hr : s.power.readAt with
  | none => exact if_neg (by simp [hd])
  | some b => exact if_neg (by simp [hd, h b hr])

theorem pmbusTelemetry_early {l : List Telemetry} {b : Nat} (hr : s.power.readAt = some b) (hle : b ≤ s.beat) (hlt : s.beat < b + 16) :
    pmbusTelemetry l s = s := by
  unfold pmbusTelemetry
  rw [hr]
  exact if_pos (.inr (by simp; omega))

end

/-- Settles O15, command by command. -/
theorem voltageAndFrequencyMove : Obligations.VoltageAndFrequencyMove := by
  intro s r hd hlen
  refine ⟨fun v b core sram hr hb hcore hsram => ?_, fun v core sram hr he => ?_, fun v b hr hb => ?_, fun v hl he => ?_⟩
  · have run := vfRaise_reached hd hr hb hcore hsram
    refine ⟨_, congrArg Host.Outcome.next run, fun q hq => ?_, ?_⟩
    · split
      · exact State.region_setRegion_other hq
      · exact State.region_setRegion_other hq
    · split
      · exact ⟨rfl, State.region_setRegion hlen⟩
      · exact ⟨rfl, State.region_setRegion hlen⟩
  · exact ⟨_, congrArg Host.Outcome.next (vfRaise_waiting hd hr he), rfl, State.region_setRegion hlen, fun q hq => State.region_setRegion_other hq⟩
  · refine ⟨_, congrArg Host.Outcome.next (vfAbandon_late hd hr hb), rfl, State.region_setRegion hlen,
      fun q hq => State.region_setRegion_other hq, ?_, ?_, rfl⟩
    · rw [State.hubWord_hubOr, if_neg (by decide), State.hubWord_hubInc, if_pos rfl]
      rfl
    · rw [State.hubWord_hubOr, if_pos rfl, State.hubWord_hubInc, if_neg (by decide)]
      rfl
  · exact ⟨_, congrArg Host.Outcome.next (vfLower_edge hd hl he), rfl, State.region_setRegion hlen,
      fun q hq => State.region_setRegion_other hq, rfl⟩

/-- Settles O16, command by command: the events of dips and regulators are reports, and the levels' control leaves the rest. -/
theorem droopAndDipRespond : Obligations.DroopAndDipRespond := by
  intro s hd
  refine ⟨fun r depth h hlen => ?_, fun r ns d hr h hlen => ?_, fun rail => ?_, fun b hp hb => ?_, fun rail w => ?_, fun l h => ?_,
    fun l b hr hle hlt => congrArg Host.Outcome.next (pmbusTelemetry_early hr hle hlt)⟩
  · exact ⟨_, congrArg Host.Outcome.next (droop_deep hd h), rfl, State.region_setRegion hlen, State.hubWord_hubInc.trans (if_pos rfl)⟩
  · exact ⟨_, congrArg Host.Outcome.next (droopRecovery_inTime hd hr h), rfl, State.region_setRegion hlen, State.le_now_advanceTo⟩
  · have left := reportOnly_unreported (s := s.dipped) (src := 3) (inst := 0) (lvl := 0) (by decide) (by decide)
    obtain ⟨power, cmds, streams, -, -⟩ := setLevels_fields (s := s.dipped.reportOnly 3 0 0)
    refine ⟨_, congrArg Host.Outcome.next (supplyDip_alive hd), ?_, cmds.trans (congrArg State.cmds left :),
      streams.trans (congrArg State.streams left :)⟩
    rw [power]
    exact (congrArg (·.power.dip) left :)
  · obtain ⟨power, cmds, streams, hub, time⟩ := setLevels_fields
      (s := { s.advanceTo ((s.beat + 1) * s.beatNs) with power := { s.power with dip := none } })
    refine ⟨_, congrArg Host.Outcome.next (dipRecovery_clean hd hp hb), power, ?_, cmds, streams, hub⟩
    rw [time]
    exact (now_advanceTo now_lt_nextBeat.le).trans (max_eq_right now_lt_nextBeat.le).symm
  · have left := reportOnly_unreported (s := s.hubOr rPwrEvents 0x10) (src := 4) (inst := 0) (lvl := 1) (by decide) (by decide)
    refine ⟨_, congrArg Host.Outcome.next (pmbAlert_alive hd), ?_, (congrArg State.cmds left :), (congrArg State.power left :)⟩
    rw [hubWord_reportOnly (.inl (by decide)), State.hubWord_hubOr, if_pos rfl]
    exact bitAt_or_two_pow (i := 4) (by decide)
  · exact ⟨_, congrArg Host.Outcome.next (pmbusTelemetry_due hd h), rfl, rfl,
      fun x hx hs => List.mem_append_right _ (List.mem_filter.2 ⟨hx, hs⟩)⟩

end Sys2Proof.Machine
end

section
/-!
The budget of a beat, estimates, conservative mode and the writes of PWR_CFG (R381, R382, R386); O18.
-/
namespace Sys2Proof.Machine

/-! ## 64-bit registers -/

theorem hub64_setHub64 {s : State} {o n : Nat} : (s.setHub64 o n).hub64 o = n % 2 ^ 64 := by
  simp only [State.hub64, State.setHub64, State.hubWord_setHub, Nat.left_eq_add, OfNat.ofNat_ne_zero, ↓reduceIte, BitVec.toNat_ofNat]
  omega

theorem hub64_setHub {s : State} {o j : Nat} {v : Word} (h : j ≠ o) (h4 : j + 4 ≠ o) : (s.setHub o v).hub64 j = s.hub64 j := by
  rw [State.hub64, State.hub64, State.hubWord_setHub, State.hubWord_setHub, if_neg h, if_neg h4]

/-! ## One view of every region -/

section
variable {α : Type} {f : Region → α} {s t : State} {r q : Nat} {x : Region}

/-- An update of a region that a view of the regions does not show. -/
theorem map_regions_setRegion (h : f x = f (s.region r)) : (s.setRegion r x).regions.map f = s.regions.map f := by
  refine List.ext_getElem? fun i => ?_
  rw [State.setRegion, List.map_set, List.getElem?_set, h]
  by_cases hi : r = i
  · subst hi
    by_cases hr : r < s.regions.length <;> simp [State.region, List.getD, hr]
  · rw [if_neg hi]

theorem region_of_map_regions (h : t.regions.map f = s.regions.map f) : f (t.region q) = f (s.region q) := by
  have view (u : State) : f (u.region q) = (u.regions.map f).getD q (f Region.init) := by
    simp [State.region]
  rw [view, view, h]

end

/-! ## Regions whose prediction agrees with the measurement -/

section
variable {s : State} {r : Nat} {l uj : List Nat}

/-- Prediction and measurement of a region agree within 20 % (R386). -/
def State.agrees (s : State) (uj : List Nat) (r : Nat) : Prop := (((s.region r).predicted : Int) - uj.getD r 0).natAbs * 5 ≤ uj.getD r 0

/-- The regions of a list count no beat of disagreement. -/
def State.offCleared (s : State) (l : List Nat) : State :=
  { s with regions := s.regions.mapIdx fun r x => if r ∈ l then { x with offBeats := 0 } else x }

theorem disagree_agrees (h : s.agrees uj r) : s.disagree r (uj.getD r 0) = s.offCleared [r] := by
  have one : s.regions.set r { s.region r with offBeats := 0 } = s.regions.mapIdx fun i x => if i ∈ [r] then { x with offBeats := 0 } else x := by
    refine List.ext_getElem (by simp) fun i h1 h2 => ?_
    simp only [List.length_set] at h1
    simp only [List.getElem_set, List.getElem_mapIdx, List.mem_singleton, eq_comm (a := i)]
    split
    next e => subst e; simp [State.region, List.getD, h1]
    next => rfl
  refine (if_pos h).trans ?_
  exact congrArg (fun rs => ({ s with regions := rs } : State)) one

theorem offCleared_offCleared {l' : List Nat} : (s.offCleared l).offCleared l' = s.offCleared (l ++ l') := by
  refine congrArg (fun rs => ({ s with regions := rs } : State)) (List.ext_getElem (by simp [State.offCleared]) fun i _ _ => ?_)
  simp only [State.offCleared, List.getElem_mapIdx, List.mem_append]
  by_cases h : i ∈ l <;> by_cases h' : i ∈ l' <;> simp [h, h']

theorem region_offCleared (h : r < s.regions.length) :
    (s.offCleared l).region r = if r ∈ l then { s.region r with offBeats := 0 } else s.region r := by
  simp [State.offCleared, State.region, List.getD, h]

theorem predicted_offCleared : ((s.offCleared l).region r).predicted = (s.region r).predicted := by
  by_cases h : r < s.regions.length
  · rw [region_offCleared h]
    split <;> rfl
  · simp [State.offCleared, State.region, List.getD, h]

theorem offCleared_nil : s.offCleared [] = s :=
  congrArg (fun rs => ({ s with regions := rs } : State)) (List.ext_getElem (by simp) (by simp))

/-- The comparison of a beat's measured energies with their predictions. -/
def State.compare (s : State) (uj l : List Nat) : State := l.foldl (fun s r => s.disagree r (uj.getD r 0)) s

theorem compare_agrees (h : ∀ r ∈ l, s.agrees uj r) : s.compare uj l = s.offCleared l := by
  induction l generalizing s with
  | nil => exact offCleared_nil.symm
  | cons r l ih =>
    have rest : ∀ q ∈ l, (s.offCleared [r]).agrees uj q := fun q hq => by
      rw [State.agrees, predicted_offCleared]
      exact h q (List.mem_cons_of_mem _ hq)
    change State.compare (s.disagree r (uj.getD r 0)) uj l = _
    rw [disagree_agrees (h r List.mem_cons_self), ih rest, offCleared_offCleared, List.singleton_append]

end

/-! ## The comparison leaves the measured history and the settings -/

/-- What the length of the window and of the beat follow from. -/
def State.settings (s : State) : Word × Word := (s.hubWord rPwrCfg, s.hubWord rBeatCfg)

/-- What a beat's comparison leaves: the state without regions and reports, and the settings. -/
def State.besideCompare (s : State) : State × Word × Word := ({ s.unreported with regions := [] }, s.settings)

section
variable {s t : State} {r q o : Nat} {l uj : List Nat} {hub total : Nat}

theorem window_of_settings (h : t.settings = s.settings) : t.windowBeats = s.windowBeats ∧ t.windowS = s.windowS ∧ t.beatNs = s.beatNs := by
  obtain ⟨cfg, beat⟩ := Prod.mk.inj h
  have ns : t.beatNs = s.beatNs := by rw [State.beatNs, State.beatNs, State.beatCode, State.beatCode, beat]
  have secs : t.windowS = s.windowS := by rw [State.windowS, State.windowS, State.pwrField, State.pwrField, cfg]
  exact ⟨by rw [State.windowBeats, State.windowBeats, secs, ns], secs, ns⟩

theorem settings_setHub {v : Word} (h1 : o ≠ rPwrCfg) (h2 : o ≠ rBeatCfg) : (s.setHub o v).settings = s.settings :=
  Prod.ext (State.hubWord_setHub.trans (if_neg h1.symm)) (State.hubWord_setHub.trans (if_neg h2.symm))

theorem setHub_besideCompare {v : Word} (h1 : o ≠ rPwrCfg) (h2 : o ≠ rBeatCfg) : (s.setHub o v).besideCompare = s.besideCompare :=
  Prod.ext rfl (settings_setHub h1 h2)

theorem reportOnly_besideCompare : (s.reportOnly 2 r 1).besideCompare = s.besideCompare := by
  refine Prod.ext ?_ (Prod.ext (hubWord_reportOnly (.inl (by decide))) (hubWord_reportOnly (.inl (by decide))))
  exact congrArg (fun u : State => { u with regions := [] }) (reportOnly_unreported (src := 2) (lvl := 1) (by decide) (by decide))

theorem disagree_besideCompare {m : Nat} : (s.disagree r m).besideCompare = s.besideCompare := by
  unfold State.disagree
  dsimp only
  split
  · rfl
  · split
    · rfl
    · rw [faultEvent_reportOnly (.inl rfl), reportOnly_besideCompare]
      exact (setHub_besideCompare (by decide) (by decide)).trans (setHub_besideCompare (by decide) (by decide))

theorem compare_besideCompare : (s.compare uj l).besideCompare = s.besideCompare :=
  foldl_keeps State.besideCompare (fun _ _ => disagree_besideCompare) l s

/-- What the budget of a beat leaves to others. -/
def State.unbudgeted (s : State) : TimeBase × List Cmd × SMap Stream × SMap Core := (s.time, s.cmds, s.streams, s.cores)

theorem unbudgeted_iff : t.unbudgeted = s.unbudgeted ↔ t.time = s.time ∧ t.cmds = s.cmds ∧ t.streams = s.streams ∧ t.cores = s.cores := by
  simp [State.unbudgeted]

theorem compare_fields : (s.compare uj l).power = s.power ∧ (s.compare uj l).unbudgeted = s.unbudgeted ∧
    (s.compare uj l).settings = s.settings := by
  obtain ⟨left, settings⟩ := Prod.mk.inj (compare_besideCompare (s := s) (uj := uj) (l := l))
  exact ⟨(congrArg State.power left :), (congrArg State.unbudgeted left :), settings⟩

/-! ## The energy registers -/

/-- The energy of a beat enters the history and the registers (R382). -/
def State.bookEnergy (s : State) (total hubUj : Nat) : State :=
  let s := s.remember ((total :: s.power.history).take historyCap) hubUj
  let s := s.setHub64 rWindowEnergy ((s.power.history.take s.windowBeats).sum)
  let s := s.setHub rAvgPower (BitVec.ofNat 32 ((s.power.history.take s.windowBeats).sum / (1000 * s.windowS)))
  s.setHub rLastBeatPower (BitVec.ofNat 32 (1000000 * total / s.beatNs))

/-- The history of the last beats with one more. -/
def State.historyWith (s : State) (total : Nat) : List Nat := (total :: s.power.history).take historyCap

theorem bookEnergy_fields : (s.bookEnergy total hub).power = { s.power with history := s.historyWith total, hubUj := hub } ∧
    (s.bookEnergy total hub).unbudgeted = s.unbudgeted := by
  simp [State.bookEnergy, State.remember, State.historyWith, State.unbudgeted]

theorem bookEnergy_registers :
    (s.bookEnergy total hub).hub64 rWindowEnergy = ((s.historyWith total).take s.windowBeats).sum % 2 ^ 64 ∧
    (s.bookEnergy total hub).hubWord rAvgPower = BitVec.ofNat 32 (((s.historyWith total).take s.windowBeats).sum / (1000 * s.windowS)) ∧
    (s.bookEnergy total hub).hubWord rLastBeatPower = BitVec.ofNat 32 (1000000 * total / s.beatNs) := by
  unfold State.bookEnergy
  extract_lets history window avg
  have atWindow : window.settings = s.settings := (settings_setHub (by decide) (by decide)).trans (settings_setHub (by decide) (by decide))
  have atAvg : avg.settings = s.settings := (settings_setHub (by decide) (by decide)).trans atWindow
  obtain ⟨beats, seconds, -⟩ := window_of_settings atWindow
  refine ⟨?_, ?_, ?_⟩
  · rw [hub64_setHub (by decide) (by decide), hub64_setHub (by decide) (by decide)]
    exact hub64_setHub64
  · rw [State.hubWord_setHub, if_neg (by decide), State.hubWord_setHub, if_pos rfl, beats, seconds]
    rfl
  · rw [State.hubWord_setHub, if_pos rfl, (window_of_settings atAvg).2.2]

/-! ## The choice for the next beat -/

/-- A region without the choice of its levels and its point. -/
def Region.unchosen (x : Region) : Region := { x with cirque := [], want := 0 }

/-- What the choice leaves: the state without its regions, and every region but for its choice. -/
def State.besideChoice (s : State) : State × List Region := ({ s with regions := [] }, s.regions.map Region.unchosen)

theorem setRegion_besideChoice {x : Region} (h : x.unchosen = (s.region r).unchosen) : (s.setRegion r x).besideChoice = s.besideChoice :=
  Prod.ext rfl (map_regions_setRegion h)

theorem choose_besideChoice {b : Nat} {allowance : Int} : (s.choose b allowance).besideChoice = s.besideChoice := by
  unfold State.choose
  refine foldl_keeps State.besideChoice (fun u r => ?_) _ _
  dsimp only
  split
  · exact setRegion_besideChoice rfl
  · exact setRegion_besideChoice rfl

theorem choose_fields {b : Nat} {allowance : Int} : (s.choose b allowance).power = s.power ∧ (s.choose b allowance).hub = s.hub ∧
    (s.choose b allowance).unbudgeted = s.unbudgeted := by
  have left : ({ s.choose b allowance with regions := [] } : State) = _ := congrArg Prod.fst choose_besideChoice
  exact ⟨(congrArg State.power left :), (congrArg State.hub left :), (congrArg State.unbudgeted left :)⟩

theorem hubWord_congr (h : t.hub = s.hub) : t.hubWord o = s.hubWord o := by rw [State.hubWord, State.hubWord, h]

theorem hub64_congr (h : t.hub = s.hub) : t.hub64 o = s.hub64 o := by rw [State.hub64, State.hub64, hubWord_congr h, hubWord_congr h]

/-- The state without its regions, the registers of the hub and the history. -/
def State.besideEnergy (s : State) : State := { s with regions := [], hub := [], power := Power.init }

theorem eq_of_besideEnergy (h : t.besideEnergy = s.besideEnergy) : t = { s with regions := t.regions, hub := t.hub, power := t.power } := by
  have e := congrArg (fun u : State => ({ u with regions := t.regions, hub := t.hub, power := t.power } : State)) h
  exact e

theorem choose_besideEnergy {b : Nat} {allowance : Int} : (s.choose b allowance).besideEnergy = s.besideEnergy :=
  congrArg (State.besideEnergy ∘ Prod.fst) (choose_besideChoice (s := s) (b := b) (allowance := allowance))

theorem bookEnergy_besideEnergy : (s.bookEnergy total hub).besideEnergy = s.besideEnergy := by
  have set (u : State) (o : Nat) (v : Word) : (u.setHub o v).besideEnergy = u.besideEnergy := rfl
  have set64 (u : State) (o n : Nat) : (u.setHub64 o n).besideEnergy = u.besideEnergy := rfl
  unfold State.bookEnergy
  dsimp only
  rw [set, set, set64]
  rfl

theorem region_bookEnergy : (s.bookEnergy total hub).region r = s.region r := by
  unfold State.bookEnergy
  rfl

theorem region_choose {b : Nat} {allowance : Int} : ((s.choose b allowance).region r).unchosen = (s.region r).unchosen :=
  region_of_map_regions (congrArg Prod.snd choose_besideChoice)

/-- The energy of a beat is compared, booked, and the next beat's levels and points are chosen. -/
theorem cirqueBudgetEpoch_alive (hd : s.dead = false) : ∃ b allowance, cirqueBudgetEpoch uj hub s =
    ((s.compare uj ((List.range 4).filter s.active)).bookEnergy (uj.sum + hub) hub).choose b allowance :=
  ⟨_, _, if_neg (by simp [hd])⟩

end

/-! ## Estimates -/

section
variable {s : State} {x : Region} {key uj beat : Nat}

/-- The least of a start value and the uses of estimates is that value or the use of one of them. -/
theorem foldl_min_used {l : List Estimate} {m : Nat} :
    l.foldl (fun m f => min m f.used) m = m ∨ ∃ f ∈ l, f.used = l.foldl (fun m f => min m f.used) m := by
  induction l generalizing m with
  | nil => exact .inl rfl
  | cons a l ih =>
    rcases ih (m := min m a.used) with same | ⟨f, hf, used⟩
    · rw [List.foldl_cons, same]
      rcases min_choice m a.used with left | right
      · exact .inl left
      · exact .inr ⟨a, List.mem_cons_self, right.symm⟩
    · exact .inr ⟨f, List.mem_cons_of_mem _ hf, used⟩

/-- Among estimates there is a least recently used one. -/
theorem exists_leastUsed {l : List Estimate} (h : l ≠ []) :
    ∃ f ∈ l, f.used = l.foldl (fun m f => min m f.used) ((l.map (·.used)).headD 0) := by
  rcases foldl_min_used (l := l) (m := (l.map (·.used)).headD 0) with same | found
  · obtain ⟨a, l, rfl⟩ := List.exists_cons_of_ne_nil h
    exact ⟨a, List.mem_cons_self, same.symm⟩
  · exact found

/-- A new estimate at the end of a list that holds none of its key. -/
theorem find_append_estimate {l : List Estimate} {e : Estimate} (h : ∀ f ∈ l, f.key ≠ e.key) :
    (l ++ [e]).find? (fun f => f.key == e.key) = some e := by
  have none : l.find? (fun f => f.key == e.key) = none := List.find?_eq_none.2 fun f hf => by simp [h f hf]
  rw [List.find?_append, none]
  simp

theorem estimate_putEstimate : (x.putEstimate key uj beat).estimate key = some uj := by
  unfold Region.putEstimate
  dsimp only
  split
  next held =>
    obtain ⟨f, hf, hkey⟩ := List.any_eq_true.1 held
    have replaced : (fun f : Estimate => f.key == key) ∘ (fun f => if f.key = key then { key := key, used := beat, uj := uj } else f) =
        fun f => f.key == key := by
      funext f
      by_cases h : f.key = key <;> simp [h]
    obtain ⟨g, hg⟩ := Option.isSome_iff_exists.1 (List.find?_isSome (p := fun f : Estimate => f.key == key).2 ⟨f, hf, hkey⟩)
    have keyed : g.key = key := by simpa using List.find?_some hg
    simp only [Region.estimate, List.find?_map, replaced, hg, Option.map_some, if_pos keyed]
  next absent =>
    have other : ∀ f ∈ x.estimates, f.key ≠ key := by simpa using absent
    split
    · exact congrArg (Option.map (·.uj)) (find_append_estimate (e := ⟨key, beat, uj⟩) other)
    · exact congrArg (Option.map (·.uj)) (find_append_estimate (e := ⟨key, beat, uj⟩) fun f hf => other f (List.mem_filter.1 hf).1)

theorem length_putEstimate : (x.putEstimate key uj beat).estimates.length ≤ max 128 x.estimates.length := by
  unfold Region.putEstimate
  dsimp only
  split
  · simp
  · split
    next room =>
      simp only [List.length_append, List.length_singleton]
      omega
    next full =>
      obtain ⟨f, hf, used⟩ := exists_leastUsed (l := x.estimates) (by rintro e; simp [e] at full)
      obtain ⟨g, hg⟩ := Option.isSome_iff_exists.1 (List.find?_isSome (p := fun f => f.used == _).2 ⟨f, hf, beq_iff_eq.2 used⟩)
      have shorter := List.length_filter_lt_length_iff_exists (p := fun f : Estimate => some f.key != some g.key).2
        ⟨g, List.mem_of_find?_eq_some hg, by simp⟩
      rw [hg]
      simp only [Option.map_some, List.length_append, List.length_singleton]
      omega

end

/-! ## The meanings of the other commands -/

section
variable {s : State} {r uj : Nat} {run : RegionRun}

theorem cirqueEstimateUpdate_idle (hd : s.dead = false) (ha : s.active r = true) (hr : (s.region r).run = some run) (hk : run.klass = 0) :
    cirqueEstimateUpdate r uj s = (s.setRegion r { s.region r with staticUj := (s.free 0).toNat }).tookFree := by
  unfold cirqueEstimateUpdate
  rw [if_neg (by simp [hd, ha]), hr]
  exact if_pos hk

/-- The energy of a slot scaled to full rate and VF0 (R381). -/
def State.slotUj (s : State) (r uj : Nat) (run : RegionRun) : Nat :=
  let f := vfFactor (s.region r).point
  (uj - (s.region r).staticUj) * 16 * f.2 / (max 1 (s.runLevel r run.klass run.part) * f.1)

/-- The estimate of a run's key moved towards the energy of a slot. -/
def State.learned (s : State) (r uj : Nat) (run : RegionRun) : Nat :=
  let key := s.runKey r run.klass run.part
  let est := ((s.region r).estimate key.1).getD key.2
  ((est : Int) + (8 * (s.slotUj r uj run : Int) - (est : Int)) / 16).toNat

theorem cirqueEstimateUpdate_run (hd : s.dead = false) (ha : s.active r = true) (hr : (s.region r).run = some run) (hk : run.klass ≠ 0) :
    cirqueEstimateUpdate r uj s =
      s.setRegion r ((s.region r).putEstimate (s.runKey r run.klass run.part).1 (s.learned r uj run) s.beat) := by
  unfold cirqueEstimateUpdate
  rw [if_neg (by simp [hd, ha]), hr]
  exact if_neg hk

theorem conservativeEnd_due {b : Nat} (hd : s.dead = false) (hc : (s.region r).conservative = some b) (hb : b ≤ s.beat) :
    conservativeEnd r s = s.setRegion r { s.region r with conservative := none } := by
  unfold conservativeEnd
  rw [hc]
  exact if_neg (by simp [hd, hb])

end

/-- Settles O18: a beat's energies by what their comparison and the choice leave, the other commands by their equations. -/
theorem cirqueKeepsItsBudget : Obligations.CirqueKeepsItsBudget := by
  intro s hd
  refine ⟨fun uj hub hlen => ?_, fun uj hub hlen hagree => ?_, fun uj hub hlen => if_neg hlen, fun r uj run ha hr hrun hk => ?_,
    fun r uj run ha hr hrun hk => ?_, fun r b hc hb => congrArg Host.Outcome.next (conservativeEnd_due hd hc hb),
    fun v hm => congrArg Host.Outcome.next (if_neg (by simp [hm]))⟩
  · obtain ⟨b, allowance, run⟩ := cirqueBudgetEpoch_alive (uj := uj) (hub := hub) hd
    obtain ⟨power, left, settings⟩ := compare_fields (s := s) (uj := uj) (l := (List.range 4).filter s.active)
    generalize s.compare uj ((List.range 4).filter s.active) = c at *
    obtain ⟨beats, seconds, ns⟩ := window_of_settings settings
    have history : c.historyWith (uj.sum + hub) = ((uj.sum + hub) :: s.power.history).take historyCap := by rw [State.historyWith, power]
    obtain ⟨bookedPower, booked⟩ := bookEnergy_fields (s := c) (total := uj.sum + hub) (hub := hub)
    obtain ⟨window, avg, last⟩ := bookEnergy_registers (s := c) (total := uj.sum + hub) (hub := hub)
    rw [history, power] at bookedPower
    rw [beats, history] at window
    rw [beats, history, seconds] at avg
    rw [ns] at last
    obtain ⟨chosenPower, chosenHub, chosen⟩ := choose_fields (s := c.bookEnergy (uj.sum + hub) hub) (b := b) (allowance := allowance)
    obtain ⟨time, cmds, streams, cores⟩ := unbudgeted_iff.1 (chosen.trans (booked.trans left))
    exact ⟨_, (if_pos hlen).trans (congrArg Host.Outcome.next run), chosenPower.trans bookedPower, (hub64_congr chosenHub).trans window,
      (hubWord_congr chosenHub).trans avg, (hubWord_congr chosenHub).trans last, time, cmds, streams, cores⟩
  · obtain ⟨b, allowance, run⟩ := cirqueBudgetEpoch_alive (uj := uj) (hub := hub) hd
    have agree : ∀ r ∈ (List.range 4).filter s.active, s.agrees uj r := fun r hr => by
      obtain ⟨lt, active⟩ := List.mem_filter.1 hr
      exact (Nat.mul_comm ..).trans_le (hagree r (List.mem_range.1 lt) active)
    rw [compare_agrees agree] at run
    refine ⟨_, (if_pos hlen).trans (congrArg Host.Outcome.next run), eq_of_besideEnergy ?_, fun r hr hlt => ?_⟩
    · rw [choose_besideEnergy, bookEnergy_besideEnergy]
      rfl
    · have region := region_choose (s := (s.offCleared ((List.range 4).filter s.active)).bookEnergy (uj.sum + hub) hub) (r := r) (b := b)
        (allowance := allowance)
      rw [region_bookEnergy, region_offCleared hlt] at region
      refine ⟨(congrArg Region.estimates region :).trans ?_, (congrArg Region.conservative region :).trans ?_, fun active =>
        (congrArg Region.offBeats region :).trans ?_⟩
      · split <;> rfl
      · split <;> rfl
      · rw [if_pos (List.mem_filter.2 ⟨List.mem_range.2 hr, active⟩)]
        rfl
  · exact ⟨_, congrArg Host.Outcome.next (cirqueEstimateUpdate_idle hd ha hrun hk), rfl, State.region_setRegion hr,
      fun q hq => State.region_setRegion_other hq⟩
  · refine ⟨_, congrArg Host.Outcome.next (cirqueEstimateUpdate_run hd ha hrun hk), rfl, ?_, ?_, fun q hq => State.region_setRegion_other hq⟩
    · rw [State.region_setRegion hr]
      exact estimate_putEstimate
    · rw [State.region_setRegion hr]
      exact length_putEstimate

end Sys2Proof.Machine
end

section
/-!
What a command can do to the fuses (R418, R419, R425, R426), to the running image (R416), to the flash (R420) and to the install keys
(R427, R430, R437); O3, O4, O6, O7.
-/
namespace Sys2Proof.Machine

/-! ## The fuses -/

/-- What one command can make of the fuses of s: they stay, one SVN fuse is blown (R418), a key slot is revoked (R419), or the life cycle
moves as R425 allows. -/
inductive FuseMove (s : State) : Fuses → Prop
  | stay : FuseMove s s.fuses
  | blow (below : s.fuses.svn < s.boot.svn) : FuseMove s { s.fuses with svn := s.fuses.svn + 1 }
  | revoke (index : Nat) : FuseMove s { s.fuses with revoked := s.fuses.revoked.set index true }
  | transition (life : LifeCycle) (secret : List Byte) (allowed : lifeAllowed s.fuses.life life = true) :
      FuseMove s { s.fuses with life := life, secret := secret }

theorem FuseMove.of_eq {s : State} {f : Fuses} (same : f = s.fuses) : FuseMove s f := by
  rw [same]
  exact .stay

theorem exec_fuses {i : Instr} {s t : State} (h : exec i s = .next t) : FuseMove s t.fuses := by
  cases hw : writesLasting i with
  | false =>
    rcases exec_lasting hw h with kept | cut
    · exact .of_eq (lasting_iff.1 kept).2.2.1
    · exact .of_eq (lasting_iff (s := s.cutUpdate).1 cut).2.2.1
  | true =>
    cases i with
    | keyRevoke index =>
      obtain rfl := Host.Outcome.next.inj h
      obtain ⟨-, -, -, same | revoked⟩ := keyRevoke_keeps (n := index) (s := s)
      · exact .of_eq same
      · exact revoked ▸ .revoke index
    | fuseBlow =>
      obtain rfl := Host.Outcome.next.inj h
      obtain ⟨-, -, -, same | ⟨below, blown⟩⟩ := fuseBlow_keeps (s := s)
      · exact .of_eq same
      · exact blown ▸ .blow below
    | applyComplete ok =>
      obtain rfl := Host.Outcome.next.inj h
      exact .of_eq (applyComplete_keeps (b := ok)).2.2
    | lcTransition target lc up =>
      obtain rfl := Host.Outcome.next.inj h
      obtain ⟨-, -, -, same | ⟨allowed, moved⟩⟩ := lcTransition_keeps (target := target) (lc := lc) (up := up) (s := s)
      · exact .of_eq same
      · exact moved ▸ .transition target _ allowed
    | _ => cases hw

/-- A step of the block is a command on the state without the front of its queue, or the idle tick. -/
theorem step_cases {s t : State} (h : step s = .next t) :
    t = idleTick s ∨ ∃ c rest, s.pending = c :: rest ∧ exec c { s with pending := rest } = .next t := by
  cases hq : s.pending with
  | nil => exact .inl (Host.Outcome.next.inj ((step_nil hq).symm.trans h)).symm
  | cons c rest => exact .inr ⟨c, rest, rfl, (step_cons hq).symm.trans h⟩

/-- The queue plays no part in what may become of the fuses. -/
theorem FuseMove.of_pending {s : State} {q : List Instr} {f : Fuses} : FuseMove { s with pending := q } f → FuseMove s f
  | .stay => .stay
  | .blow below => .blow below
  | .revoke index => .revoke index
  | .transition life secret allowed => .transition life secret allowed

theorem step_fuses {s t : State} (h : step s = .next t) : FuseMove s t.fuses := by
  rcases step_cases h with rfl | ⟨c, rest, -, run⟩
  · exact .of_eq (stable_iff.1 idleTick_stable).2.2.2.2.1
  · exact (exec_fuses run).of_pending

/-- A revoked key slot stays revoked when another is revoked. -/
theorem getD_set_true {l : List Bool} {n k : Nat} (h : l.getD k false = true) : (l.set n true).getD k false = true := by
  simp only [List.getD_eq_getElem?_getD, List.getElem?_set] at h ⊢
  split
  · rename_i same
    subst same
    split
    · rfl
    · simp_all
  · exact h

/-- A revoke bit is permanent (R419). -/
theorem step_keeps_revoked {s t : State} {k : Nat} (h : step s = .next t) (revoked : s.fuses.revoked.getD k false = true) :
    t.fuses.revoked.getD k false = true := by
  have move := step_fuses h
  generalize t.fuses = f at move
  cases move with
  | revoke index => exact getD_set_true revoked
  | _ => exact revoked

/-- Settles O3: each of the four moves of the fuses goes one way. -/
theorem fusesMoveOneWay : Obligations.FusesMoveOneWay := by
  intro s t h
  refine ⟨?_, fun k => step_keeps_revoked h, ?_⟩
  all_goals
    have move := step_fuses h
    generalize t.fuses = f at move
  · cases move with
    | blow _ => exact Nat.le_succ _
    | _ => exact le_rfl
  · cases move with
    | transition life secret allowed => exact ⟨rfl, .inr allowed⟩
    | _ => exact ⟨rfl, .inl rfl⟩

/-! ## The running image's SVN -/

section
variable {s : State} {up : StartUp}

/-- An image that passes the checks of R416 has an SVN of at most 64. -/
theorem svn_of_imageCheck {f : Fuses} {rd : Nat → Nat → List Byte} (h : imageCheck f rd = 0) : (imageOf rd).svn ≤ 64 := by
  unfold imageCheck at h
  extract_lets image at h
  split at h
  · cases h
  next ok =>
    simp only [imageHeaderOk, Bool.not_eq_false, Bool.and_eq_true, decide_eq_true_eq] at ok
    exact ok.1.2

theorem imageCheck_of_bootCode (h : s.bootCode up = 0) : imageCheck s.fuses s.flashBytes = 0 := by
  unfold State.bootCode at h
  split at h
  · cases h
  · split at h
    · cases h
    · split at h
      · assumption
      · contradiction

/-- The boot ROM leaves the SVN or takes that of an image that passed its checks. -/
theorem bootRom_svn (h : s.boot.svn ≤ 64) : (s.bootRom up).boot.svn ≤ 64 := by
  unfold State.bootRom
  split
  next booted =>
    rw [deriveKeys_boot]
    exact svn_of_imageCheck (imageCheck_of_bootCode booted)
  next => exact h

theorem startUp_svn (h : s.boot.svn ≤ 64) : (s.startUp up).boot.svn ≤ 64 := by
  rw [startUp_bootRom]
  exact bootRom_svn ((congrArg (·.boot.svn) (State.readConfig_stable (x0 := s))).trans_le h)

theorem powerOn_svn {b p : BitVec 2} {lc : Bool} : (powerOn b p lc up s).boot.svn ≤ 64 := by
  unfold powerOn
  refine startUp_svn (le_of_eq_of_le (congrArg (·.boot.svn) (foldl_stable (fun _ _ => State.replayRepairs_stable) rfl)) ?_)
  split
  · exact Nat.zero_le _
  · exact le_of_eq_of_le (congrArg (·.boot.svn) State.reportOnly_stable) (Nat.zero_le 64)

theorem resetDevice_svn {c : ResetCause} : (s.resetDevice c up).boot.svn ≤ 64 := by
  unfold State.resetDevice
  exact startUp_svn (Nat.zero_le _)

section
variable (bound : s.boot.svn ≤ 64)
include bound

theorem deviceReset_svn {c : ResetCause} : (deviceReset c up s).boot.svn ≤ 64 := by
  unfold deviceReset
  split
  · exact bound
  · exact resetDevice_svn

theorem deviceResetMessage_svn : (deviceResetMessage up s).boot.svn ≤ 64 := by
  unfold deviceResetMessage
  split
  · exact bound
  · exact resetDevice_svn

theorem activateFirmware_svn : (activateFirmware up s).boot.svn ≤ 64 := by
  unfold activateFirmware
  split
  · exact bound
  · exact resetDevice_svn

theorem lcTransition_svn {target : LifeCycle} {lc : Bool} : (lcTransition target lc up s).boot.svn ≤ 64 := by
  unfold lcTransition
  split
  · exact bound
  · split
    · exact bound
    · exact resetDevice_svn

end

end

/-! ## Rows that change the bundle and leave the running image -/

section
variable {s : State}

theorem keySet_boot {n o : Nat} {k : List Byte} : (keySet n o k s).boot = s.boot := by
  unfold keySet
  (repeat' split) <;> rfl

theorem keyClear_boot {n : Nat} : (keyClear n s).boot = s.boot := by
  unfold keyClear
  (repeat' split) <;> rfl

theorem keyRevoke_boot {n : Nat} : (keyRevoke n s).boot = s.boot := by
  unfold keyRevoke
  (repeat' split) <;> rfl

theorem fuseBlow_boot : (fuseBlow s).boot = s.boot := by
  unfold fuseBlow
  split <;> rfl

theorem applyComplete_boot {ok : Bool} : (applyComplete ok s).boot = s.boot := by
  unfold applyComplete
  (repeat' split) <;> rfl

theorem aliasCertSign_boot : (aliasCertSign s).boot = s.boot := by
  unfold aliasCertSign
  (repeat' split) <;> rfl

theorem tamper_boot {c : TamperCause} : (tamper c s).boot = s.boot := by
  unfold tamper
  split
  · rfl
  · extract_lets cleared recorded zero reported
    have kept : reported.boot = s.boot := congrArg Stable.boot State.reportOnly_stable
    clear_value reported zero
    cases zero <;> exact kept

theorem temperatureRead_boot {xs ys : List Int} : (temperatureRead xs ys s).boot = s.boot := by
  rcases temperatureRead_trips (xs := xs) (ys := ys) (s := s) with kept | tripped
  · exact congrArg Stable.boot kept
  · exact congrArg Stable.boot tripped

theorem thermTrip_boot {c : Int} : (thermTrip c s).boot = s.boot := by
  unfold thermTrip
  split <;> rfl

theorem deviceReady_svn : (deviceReady s).boot.svn = s.boot.svn := by
  unfold deviceReady
  split
  · rfl
  · exact congrArg (·.boot.svn) (State.portEvents_stable.trans (foldl_stable (fun _ _ => State.setPort_stable) rfl))

end

/-- A command leaves the SVN of the running image, or boots an image that passed the checks of R416. -/
theorem exec_svn {i : Instr} {s t : State} (bound : s.boot.svn ≤ 64) (h : exec i s = .next t) : t.boot.svn ≤ 64 := by
  cases hc : changesStable i with
  | false => exact (congrArg (·.boot.svn) (exec_stable hc h)).trans_le bound
  | true =>
    cases i with
    | powerOn => obtain rfl := Host.Outcome.next.inj h; exact powerOn_svn
    | deviceReady => obtain rfl := Host.Outcome.next.inj h; exact deviceReady_svn.trans_le bound
    | deviceReset => obtain rfl := Host.Outcome.next.inj h; exact deviceReset_svn bound
    | deviceResetMessage => obtain rfl := Host.Outcome.next.inj h; exact deviceResetMessage_svn bound
    | activateFirmware => obtain rfl := Host.Outcome.next.inj h; exact activateFirmware_svn bound
    | lcTransition => obtain rfl := Host.Outcome.next.inj h; exact lcTransition_svn bound
    | keySet => obtain rfl := Host.Outcome.next.inj h; exact (congrArg Boot.svn keySet_boot).trans_le bound
    | keyClear => obtain rfl := Host.Outcome.next.inj h; exact (congrArg Boot.svn keyClear_boot).trans_le bound
    | keyRevoke => obtain rfl := Host.Outcome.next.inj h; exact (congrArg Boot.svn keyRevoke_boot).trans_le bound
    | fuseBlow => obtain rfl := Host.Outcome.next.inj h; exact (congrArg Boot.svn fuseBlow_boot).trans_le bound
    | applyComplete => obtain rfl := Host.Outcome.next.inj h; exact (congrArg Boot.svn applyComplete_boot).trans_le bound
    | aliasCertSign => obtain rfl := Host.Outcome.next.inj h; exact (congrArg Boot.svn aliasCertSign_boot).trans_le bound
    | tamper => obtain rfl := Host.Outcome.next.inj h; exact (congrArg Boot.svn tamper_boot).trans_le bound
    | temperatureRead => rw [execTemperatureRead_next h]; exact (congrArg Boot.svn temperatureRead_boot).trans_le bound
    | thermTrip => obtain rfl := Host.Outcome.next.inj h; exact (congrArg Boot.svn thermTrip_boot).trans_le bound
    | _ => cases hc

/-- Settles O4: the counter rises only below the running image's SVN, and a boot takes no image above 64. -/
theorem svnInvariant : Obligations.SvnInvariant := by
  intro s t ⟨fused, running⟩ h
  constructor
  · have move := step_fuses h
    generalize t.fuses = f at move
    cases move with
    | blow below => exact (Nat.succ_le_of_lt below).trans running
    | _ => exact fused
  · rcases step_cases h with rfl | ⟨c, rest, -, run⟩
    · exact (congrArg (·.boot.svn) idleTick_stable).trans_le running
    · exact exec_svn (s := { s with pending := rest }) running run

/-! ## The flash -/

section
variable {s : State}

/-- A reset leaves the flash, or cuts a write that is under way. -/
theorem cutFlash_cases : s.cutFlash = s.flash ∨ s.mgmt.applying = true ∧ s.cutFlash = [] := by
  unfold State.cutFlash
  split
  next applying => exact .inr ⟨applying, rfl⟩
  next => exact .inl rfl

/-- The flash after a command whose lasting part is that of s, or of s with its flash write cut. -/
theorem flash_of_lasting {t : State} (h : t.stable.lasting = s.stable.lasting ∨ t.stable.lasting = s.cutUpdate.stable.lasting) :
    t.flash = s.flash ∨ s.mgmt.applying = true ∧ t.flash = [] := by
  rcases h with kept | cut
  · exact .inl (lasting_iff.1 kept).2.2.2
  · rw [(lasting_iff (s := s.cutUpdate).1 cut).2.2.2]
    exact cutFlash_cases

end

/-- The rows that can cut a write of the flash: those that reset the device before the write is done. -/
def cutsFlash : Instr → Bool
  | .powerOn .. | .deviceReset .. | .deviceResetMessage _ | .lcTransition .. => true
  | _ => false

theorem cutsFlash_iff {i : Instr} : cutsFlash i = true ↔ (∃ b p lc up, i = .powerOn b p lc up) ∨ (∃ c up, i = .deviceReset c up) ∨
    (∃ up, i = .deviceResetMessage up) ∨ ∃ g lc up, i = .lcTransition g lc up := by
  cases i <;> simp [cutsFlash]

/-- Outside the rows that reset the device and APPLY_COMPLETE, a command leaves the flash. -/
theorem exec_flash {i : Instr} {s t : State} (noCut : cutsFlash i = false) (noApply : ∀ ok, i ≠ .applyComplete ok) (h : exec i s = .next t) :
    t.flash = s.flash := by
  cases hc : changesStable i with
  | false => exact congrArg Stable.flash (exec_stable hc h)
  | true =>
    cases i with
    | powerOn | deviceReset | deviceResetMessage | lcTransition => cases noCut
    | applyComplete ok => exact absurd rfl (noApply ok)
    | keyRevoke => obtain rfl := Host.Outcome.next.inj h; exact keyRevoke_keeps.2.2.1
    | fuseBlow => obtain rfl := Host.Outcome.next.inj h; exact fuseBlow_keeps.2.2.1
    | temperatureRead => rw [execTemperatureRead_next h]; exact (lasting_iff.1 temperatureRead_lasting).2.2.2
    | deviceReady | activateFirmware | keySet | keyClear | aliasCertSign | tamper | thermTrip =>
      obtain rfl := Host.Outcome.next.inj h
      exact (lasting_iff.1 (by simp)).2.2.2
    | _ => cases hc

/-- A command that resets the device leaves the flash or cuts a write under way. -/
theorem exec_flash_cut {i : Instr} {s t : State} (cuts : cutsFlash i = true) (h : exec i s = .next t) :
    t.flash = s.flash ∨ s.mgmt.applying = true ∧ t.flash = [] := by
  cases i with
  | lcTransition target lc up =>
    obtain rfl := Host.Outcome.next.inj h
    obtain ⟨-, -, kept | cut, -⟩ := lcTransition_keeps (target := target) (lc := lc) (up := up) (s := s)
    · exact .inl kept
    · exact (show _ = s.cutFlash from cut) ▸ cutFlash_cases
  | powerOn | deviceReset | deviceResetMessage => exact flash_of_lasting (exec_lasting rfl h)
  | _ => cases cuts

/-- Settles O6: the rows that reset the device apart, every row but APPLY_COMPLETE leaves the flash. -/
theorem flashChangesOnlyByApply : Obligations.FlashChangesOnlyByApply := by
  intro i s t h
  cases cuts : cutsFlash i with
  | false =>
    by_cases apply : ∃ ok, i = .applyComplete ok
    · exact .inr (.inl apply)
    · exact .inl (exec_flash cuts (not_exists.1 apply) h)
  | true =>
    rcases exec_flash_cut cuts h with kept | ⟨applying, cut⟩
    · exact .inl kept
    · exact .inr (.inr ⟨applying, cut, cutsFlash_iff.1 cuts⟩)

/-! ## The install keys -/

section
variable {s : State}

theorem keyRevoke_slots {n : Nat} : (keyRevoke n s).verm.slots = s.verm.slots := by
  unfold keyRevoke
  (repeat' split) <;> rfl

theorem fuseBlow_slots : (fuseBlow s).verm.slots = s.verm.slots := by
  unfold fuseBlow
  split <;> rfl

theorem applyComplete_slots {ok : Bool} : (applyComplete ok s).verm.slots = s.verm.slots := by
  unfold applyComplete
  (repeat' split) <;> rfl

theorem thermTrip_slots {c : Int} : (thermTrip c s).verm.slots = s.verm.slots := by
  unfold thermTrip
  split <;> rfl

theorem temperatureRead_slots {xs ys : List Int} : (temperatureRead xs ys s).verm.slots = s.verm.slots := by
  rcases temperatureRead_trips (xs := xs) (ys := ys) (s := s) with kept | tripped
  · exact congrArg (·.verm.slots) kept
  · exact congrArg (·.verm.slots) tripped

/-- The install keys of a state that holds what a device reset holds. -/
theorem slots_of_held {t : State} (h : t.stable.held = s.stable.held ∨ t.stable.held = s.cutUpdate.stable.held) :
    t.verm.slots = s.verm.slots := by
  rcases h with kept | cut
  · exact (held_iff.1 kept).2.2
  · exact (held_iff (s := s.cutUpdate).1 cut).2.2

end

/-- Settles O7: a row that leaves the bundle leaves the keys, and so does each of the others that is not named. -/
theorem installKeysChangeOnlyByName : Obligations.InstallKeysChangeOnlyByName := by
  intro i s t h
  cases hc : changesStable i with
  | false => exact .inl (congrArg (·.verm.slots) (exec_stable hc h))
  | true =>
    cases i with
    | keySet n o k => exact .inr (.inl ⟨n, o, k, rfl⟩)
    | keyClear n => exact .inr (.inr (.inl ⟨n, rfl⟩))
    | tamper c => exact .inr (.inr (.inr (.inl ⟨c, rfl⟩)))
    | powerOn b p lc up => exact .inr (.inr (.inr (.inr (.inl ⟨b, p, lc, up, rfl⟩))))
    | lcTransition g lc up => exact .inr (.inr (.inr (.inr (.inr ⟨g, lc, up, rfl⟩))))
    | deviceReset => obtain rfl := Host.Outcome.next.inj h; exact .inl (slots_of_held deviceReset_held)
    | deviceResetMessage => obtain rfl := Host.Outcome.next.inj h; exact .inl (slots_of_held deviceResetMessage_held)
    | activateFirmware => obtain rfl := Host.Outcome.next.inj h; exact .inl (slots_of_held (.inl activateFirmware_held))
    | deviceReady => obtain rfl := Host.Outcome.next.inj h; exact .inl (slots_of_held (.inl deviceReady_held))
    | aliasCertSign => obtain rfl := Host.Outcome.next.inj h; exact .inl (slots_of_held (.inl aliasCertSign_held))
    | keyRevoke => obtain rfl := Host.Outcome.next.inj h; exact .inl keyRevoke_slots
    | fuseBlow => obtain rfl := Host.Outcome.next.inj h; exact .inl fuseBlow_slots
    | applyComplete => obtain rfl := Host.Outcome.next.inj h; exact .inl applyComplete_slots
    | temperatureRead => rw [execTemperatureRead_next h]; exact .inl temperatureRead_slots
    | thermTrip => obtain rfl := Host.Outcome.next.inj h; exact .inl thermTrip_slots
    | _ => cases hc

end Sys2Proof.Machine
end


section
/-!
An event at its level (R397-R401): what the record of a Fatal event is, and the counters that any event writes.
-/
namespace Sys2Proof.Machine

section
variable {s : State} {src inst lvl o : Nat}

theorem l3_of_alive (h : s.dead = false) : s.latches.l3 = false := (Bool.or_eq_false_iff.1 h).2

/-- A Fatal event is counted and stops the device. -/
theorem reportOnly_fatal (h : s.latches.l3 = false) : s.reportOnly src inst 3 = (s.countEvent src inst).fatal src := by
  simp [State.reportOnly, State.recordEvent, h]

theorem reportOnly_l3 (h : s.latches.l3 = true) : s.reportOnly src inst lvl = s := by
  simp [State.reportOnly, State.recordEvent, h]

/-- The state at L3 (R401). -/
def State.atL3 (s : State) : State := { s with latches := { s.latches with l3 := true } }

/-- The Fatal level beside what reports write. -/
theorem fatal_unreported : (s.fatal src).unreported = s.unreported.atL3 := by
  have told (u : State) : (if u.mgmt.eventsOn then u.emit (.platformEvent src 3) else u).unreported = u.unreported := by split <;> rfl
  exact congrArg State.atL3 ((told _).trans aerOn_unreported)

/-- At L3, and after every Fatal event, the device stands still. -/
theorem reportOnly_fatal_stops : (s.reportOnly src inst 3).latches.l3 = true := by
  cases h : s.latches.l3 with
  | true => rw [reportOnly_l3 h, h]
  | false => rw [reportOnly_fatal h]; rfl

end

end Sys2Proof.Machine
end

section
/-!
Keys, the certificate, the life cycle, the SVN fuses and tamper (R418, R419, R425 to R430); O57 and O59.
-/
namespace Sys2Proof.Machine

section
variable {s : State} {n o index : Nat} {k cert : List Byte} {c : TamperCause} {g : LifeCycle} {lc : Bool} {up : StartUp}

/-! ## KEY_REVOKE -/

theorem keyRevoke_refused (hm : s.manageable = true) (h : index = s.boot.keyIndex ∨ s.fuses.keyDigests.getD index [] = []) :
    keyRevoke index s = s.answer ccRefused [] := by
  unfold keyRevoke
  rw [if_neg (by simp [hm]), if_pos h]

theorem keyRevoke_accepted (hm : s.manageable = true) (hi : index ≠ s.boot.keyIndex) (hk : s.fuses.keyDigests.getD index [] ≠ []) :
    keyRevoke index s = ({ s with fuses := { s.fuses with revoked := s.fuses.revoked.set index true } } : State).answer ccSuccess [] := by
  unfold keyRevoke
  rw [if_neg (by simp [hm]), if_neg (by simp only [hi, hk, or_self, not_false_eq_true])]

/-! ## Install keys -/

/-- The state with what a slot of the key store holds. -/
def State.withKey (s : State) (n : Nat) (v : Option (List Byte × Nat)) : State :=
  { s with verm := { s.verm with slots := sput none s.verm.slots n v } }

theorem slots_withKey {v : Option (List Byte × Nat)} {j : Nat} :
    sget none (s.withKey n v).verm.slots j = if j = n then v else sget none s.verm.slots j := sget_sput

theorem keySet_free (hm : s.manageable = true) (hk : k.length = 32) (hb : s.keyBusy n = false) :
    keySet n o k s = (s.withKey n (some (k, o))).answer ccSuccess [] := by
  simp [keySet, hm, hk, hb, State.withKey]

theorem keySet_busy (hm : s.manageable = true) (hk : k.length = 32) (hb : s.keyBusy n = true) : keySet n o k s = s.answer ccRefused [] := by
  simp [keySet, hm, hk, hb]

theorem keySet_length (hm : s.manageable = true) (hk : k.length ≠ 32) : keySet n o k s = s.answer ccInvalid [] := by
  simp [keySet, hm, hk]

theorem keyClear_free (hm : s.manageable = true) (hb : s.keyBusy n = false) :
    keyClear n s = (s.withKey n none).answer ccSuccess [] := by
  simp [keyClear, hm, hb, State.withKey]

theorem keyClear_busy (hm : s.manageable = true) (hb : s.keyBusy n = true) : keyClear n s = s.answer ccRefused [] := by
  simp [keyClear, hm, hb]

/-! ## Certificates -/

theorem certWrite_provisioned (hm : s.manageable = true) (hl : s.fuses.life = .provisioned) :
    certWrite cert s = ({ s with config := ({ s.config with cert := cert } : Config).put (.cert cert) } : State).answer ccSuccess [] := by
  simp [certWrite, hm, hl]

theorem certWrite_refused (hm : s.manageable = true) (hl : s.fuses.life ≠ .provisioned) : certWrite cert s = s.answer ccRefused [] := by
  simp [certWrite, hm, hl]

theorem aliasCertSign_unsigned {a b : List Byte} (hd : s.dead = false) (hr : s.boot.phase = .ready) (ha : s.verm.identity = some a)
    (hb : s.verm.aliasKey = some b) (hc : s.verm.certSigned = none) :
    ∃ signed, aliasCertSign s = ({ s with verm := { s.verm with certSigned := some signed } } : State).tookFree := by
  unfold aliasCertSign
  rw [ha, hb]
  dsimp only
  rw [if_neg (by simp [hd, hr, hc])]
  exact ⟨_, rfl⟩

/-! ## The life cycle and the SVN fuses -/

theorem lcTransition_refused (hm : s.manageable = true)
    (h : lc = false ∨ s.boot.lcEnable = false ∨ lifeAllowed s.fuses.life g = false ∨ (g = .rma ∧ s.allErased = false)) :
    lcTransition g lc up s = s.answer ccRefused [] := by
  unfold lcTransition
  rw [if_neg (by simp [hm]), if_pos h]

/-- An allowed transition is a device reset of the state with the new life-cycle state. -/
theorem lcTransition_allowed (hm : s.manageable = true) (he : s.boot.lcEnable = true) (ha : lifeAllowed s.fuses.life g = true)
    (hr : g = .rma → s.allErased = true) : ∃ data, lcTransition g true up s = ((s.lcMove g).answer ccSuccess data).resetDevice .lc up := by
  unfold lcTransition
  rw [if_neg (by simp [hm]), if_neg]
  · exact ⟨_, rfl⟩
  · rintro (h | h | h | ⟨rma, erased⟩)
    · cases h
    · cases he.symm.trans h
    · cases ha.symm.trans h
    · cases (hr rma).symm.trans erased

theorem fuseBlow_due (hd : s.dead = false) (hr : s.boot.phase = .ready) (hv : s.fuses.svn < s.boot.svn) :
    let t := s.advanceTo (second / 100 + s.mgmt.lastFuse)
    fuseBlow s = { t with fuses := { s.fuses with svn := s.fuses.svn + 1 }, mgmt := { s.mgmt with lastFuse := t.time.now } } :=
  if_neg (by simp [hd, hr, hv])

/-! ## Tamper -/

/-- The state after an enabled tamper event, before the SRAM is cleared: no keys, the cause recorded, the device at L3. -/
def State.tampered (s : State) (c : TamperCause) : State :=
  (({ s with verm := Vermilion.init } : State).hubOr rTamperCause (BitVec.ofNat 32 (2 ^ tamperBit c))).reportOnly 26 0 3

theorem tamper_off (h : bitAt (s.hubWord rTamperCfg) (tamperEnable c) = false) : tamper c s = s := if_pos (.inr h)

theorem tamper_on (ht : s.latches.tripped = false) (h : bitAt (s.hubWord rTamperCfg) (tamperEnable c) = true) :
    tamper c s = if bitAt (s.hubWord rTamperCfg) 4 then (s.tampered c).zeroise else s.tampered c := by
  have cfg : (({ s with verm := Vermilion.init } : State).hubOr rTamperCause (BitVec.ofNat 32 (2 ^ tamperBit c))).hubWord rTamperCfg =
      s.hubWord rTamperCfg := State.hubWord_hubOr.trans (if_neg (by decide))
  refine (if_neg (by simp [ht, h])).trans ?_
  dsimp only
  rw [cfg]
  rfl

theorem tampered_verm : (s.tampered c).verm = Vermilion.init := congrArg Stable.verm (State.reportOnly_stable.trans State.hubOr_stable)

theorem tampered_fuses : (s.tampered c).fuses = s.fuses := congrArg Stable.fuses (State.reportOnly_stable.trans State.hubOr_stable)

theorem tampered_cause : bitAt ((s.tampered c).hubWord rTamperCause) (tamperBit c) = true := by
  have bit : tamperBit c < 32 := by cases c <;> decide
  have cause : (s.tampered c).hubWord rTamperCause = s.hubWord rTamperCause ||| BitVec.ofNat 32 (2 ^ tamperBit c) :=
    (hubWord_reportOnly (.inr (by decide))).trans (State.hubWord_hubOr.trans (if_pos rfl))
  rw [cause]
  exact bitAt_or_two_pow bit

/-- Every SRAM of every core reads zero. -/
theorem core_zeroise : ((s.zeroise).core n).scratch = [] ∧ ((s.zeroise).core n).side = [] ∧ ((s.zeroise).core n).dcm = [] := by
  refine sget_of_forall (P := fun x : Core => x.scratch = [] ∧ x.side = [] ∧ x.dcm = []) ⟨rfl, rfl, rfl⟩ (fun e he => ?_) n
  obtain ⟨x, -, rfl⟩ := List.mem_map.1 (List.mem_filter.1 he).1
  exact ⟨rfl, rfl, rfl⟩

end

/-- Settles O57: the two outcomes of KEY_REVOKE; a step moves no revoke bit back. -/
theorem keyRevokeIsPermanent : Obligations.KeyRevokeIsPermanent := by
  intro s hm hlen
  refine ⟨fun index h => congrArg Host.Outcome.next (keyRevoke_refused hm h), fun index hi hk => ?_⟩
  refine ⟨_, congrArg Host.Outcome.next (keyRevoke_accepted hm hi hk), rfl, rfl, ?_, fun k hne => ?_, fun u v set run => step_keeps_revoked run set⟩
  · change (s.fuses.revoked.set index true).getD index false = true
    simp [List.getD_eq_getElem?_getD, hlen]
  · change (s.fuses.revoked.set index true).getD k false = _
    rw [List.getD_eq_getElem?_getD, List.getElem?_set_ne hne.symm, ← List.getD_eq_getElem?_getD]

/-- Settles O59: command by command, by their equations; a life-cycle transition by what every device reset keeps. -/
theorem keysLifeCycleAndTamper : Obligations.KeysLifeCycleAndTamper := by
  intro s
  refine ⟨fun hm n o k => ⟨fun hk hb => ⟨?_, ?_⟩, fun hk hb => ⟨?_, ?_⟩, fun hk => ?_⟩, fun hm cert => ⟨fun hl => ?_, fun hl => ?_⟩,
    fun hm g up => ⟨fun he ha hr => ?_, fun lc h => ?_⟩, fun hd hr hv => ?_, fun a b hd hr ha hb hc => ?_, fun c ht => ⟨fun on => ?_, fun off => ?_⟩⟩
  · exact ⟨_, congrArg Host.Outcome.next (keySet_free hm hk hb), rfl, slots_withKey.trans (if_pos rfl), fun j hj => slots_withKey.trans (if_neg hj)⟩
  · exact ⟨_, congrArg Host.Outcome.next (keyClear_free hm hb), rfl, slots_withKey.trans (if_pos rfl), fun j hj => slots_withKey.trans (if_neg hj)⟩
  · exact congrArg Host.Outcome.next (keySet_busy hm hk hb)
  · exact congrArg Host.Outcome.next (keyClear_busy hm hb)
  · exact congrArg Host.Outcome.next (keySet_length hm hk)
  · exact ⟨_, congrArg Host.Outcome.next (certWrite_provisioned hm hl), rfl, rfl⟩
  · exact congrArg Host.Outcome.next (certWrite_refused hm hl)
  · obtain ⟨data, run⟩ := lcTransition_allowed (up := up) hm he ha hr
    obtain ⟨fuses, flash, slots⟩ := resetDevice_keeps (s := (s.lcMove g).answer ccSuccess data) (c := .lc) (up := up)
    exact ⟨_, congrArg Host.Outcome.next run, (congrArg Fuses.life fuses :), (congrArg Fuses.svn fuses :), (congrArg Fuses.revoked fuses :), slots, flash⟩
  · exact congrArg Host.Outcome.next (lcTransition_refused hm h)
  · exact ⟨_, congrArg Host.Outcome.next (fuseBlow_due hd hr hv), rfl, rfl, State.le_now_advanceTo⟩
  · obtain ⟨signed, run⟩ := aliasCertSign_unsigned hd hr ha hb hc
    exact ⟨_, congrArg Host.Outcome.next run, rfl, rfl, rfl⟩
  · have run := tamper_on ht on
    cases clears : bitAt (s.hubWord rTamperCfg) 4 with
    | true =>
      rw [clears] at run
      exact ⟨_, congrArg Host.Outcome.next run, tampered_verm, reportOnly_fatal_stops, tampered_cause, tampered_fuses, fun _ => ⟨rfl, rfl, fun n => core_zeroise⟩⟩
    | false =>
      rw [clears] at run
      exact ⟨_, congrArg Host.Outcome.next run, tampered_verm, reportOnly_fatal_stops, tampered_cause, tampered_fuses, fun h => nomatch h⟩
  · exact congrArg Host.Outcome.next (tamper_off off)

end Sys2Proof.Machine
end


section
/-!
Escalation, acknowledgement, link retries and the watchdogs (R396 to R401, R413); O52.
-/
namespace Sys2Proof.Machine

section
variable {s : State} {src inst lvl o core p : Nat}

/-! ## What is held of a source -/

theorem faultInst_key : (s.faultInst src inst).source = src ∧ (s.faultInst src inst).inst = inst := by
  unfold State.faultInst
  cases h : s.faults.find? fun f => f.source == src && f.inst == inst with
  | none => exact ⟨rfl, rfl⟩
  | some f => simpa using List.find?_some h

/-- What is set of a source reads back with its history and its marks, also where nothing is left to be listed. -/
theorem faultInst_setFaultInst {f : FaultInst} (hs : f.source = src) (hi : f.inst = inst) :
    ((s.setFaultInst f).faultInst src inst).beats = f.beats ∧ ((s.setFaultInst f).faultInst src inst).pending = f.pending ∧
    ((s.setFaultInst f).faultInst src inst).severe = f.severe := by
  unfold State.setFaultInst
  split
  next empty =>
    have unlisted : (s.faults.filter fun g => !(g.source == f.source && g.inst == f.inst)).find?
        (fun g => g.source == src && g.inst == inst) = none := by
      refine List.find?_eq_none.2 fun g hg => ?_
      have other := (List.mem_filter.1 hg).2
      rw [hs, hi] at other
      simpa [imp_iff_not_or] using other
    dsimp only
    unfold State.faultInst
    rw [unlisted]
    obtain ⟨beats, pending, severe⟩ := empty
    exact ⟨beats.symm, pending.symm, severe.symm⟩
  next =>
    dsimp only
    unfold State.faultInst
    rw [List.find?_cons_of_pos (by simp [hs, hi])]
    exact ⟨rfl, rfl, rfl⟩

/-- A Severe report marks what it reports and ends the event that was pending (log entry 26). -/
theorem faultInst_severeReport :
    ((s.severeReport src inst).faultInst src inst).pending = none ∧ ((s.severeReport src inst).faultInst src inst).severe = true := by
  unfold State.severeReport
  extract_lets parts counted told reported
  exact (faultInst_setFaultInst (s := reported) (f := { reported.faultInst src inst with severe := true, pending := none })
    faultInst_key.1 faultInst_key.2).2

/-- The end of a handling clears the history and the mark. -/
theorem faultInst_severeEnd :
    ((s.severeEnd src inst).faultInst src inst).beats = [] ∧ ((s.severeEnd src inst).faultInst src inst).severe = false := by
  obtain ⟨beats, -, severe⟩ := faultInst_setFaultInst (s := s) (f := { s.faultInst src inst with beats := [], severe := false })
    faultInst_key.1 faultInst_key.2
  exact ⟨beats, severe⟩

theorem hubWord_severeReport_count : (s.severeReport src inst).hubWord rSevereCount = satAdd (s.hubWord rSevereCount) 1 := by
  simp [State.severeReport]

/-! ## Escalation -/

theorem escalation_due {b : Nat} (hp : (s.faultInst src inst).pending = some b) (hd : s.dead = false) (ht : b + 1 + s.ackTimer ≤ s.beat) :
    escalation src inst s = ((s.hubInc rEscalateCount 1).severeReport src inst).handleSevere src inst := by
  unfold escalation
  rw [hp]
  exact if_neg (by simp [hd, ht])

theorem escalation_early {b : Nat} (hp : (s.faultInst src inst).pending = some b) (ht : s.beat < b + 1 + s.ackTimer) :
    escalation src inst s = s := by
  unfold escalation
  rw [hp]
  exact if_pos (.inr ht)

/-! ## Acknowledgement (R400) -/

section
variable {names : FaultInst → Bool} {f : FaultInst}

/-- Nothing that the predicate names is pending after the acknowledgement. -/
theorem pending_of_mem_ackEvents (h : f ∈ (s.ackEvents names).faults)
    (hn : names f = true) : f.pending = none := by
  obtain ⟨g, -, rfl⟩ := List.mem_map.1 (List.mem_filter.1 h).1
  by_cases named : names g = true
  · rw [if_pos named]
  · rw [if_neg named] at hn
    exact absurd hn named

/-- What the predicate does not name stays as it was, where anything is held of it. -/
theorem mem_ackEvents (h : f ∈ s.faults) (hn : names f = false) (held : ¬(f.beats = [] ∧ f.pending = none ∧ f.severe = false)) :
    f ∈ (s.ackEvents names).faults := by
  refine List.mem_filter.2 ⟨List.mem_map.2 ⟨f, h, if_neg (by simp [hn])⟩, ?_⟩
  simpa [or_assoc, imp_iff_not_or, Option.isSome_iff_ne_none] using held

end

theorem attentionAck_of_part {q : Nat} (hd : s.dead = false) (hq : s.portPart p = some q) :
    attentionAck p s =
      (s.setPort p { s.port p with eventStatus := setFld (s.port p).eventStatus 1 1 0 }).ackEvents fun f => f.parts.contains q := by
  have part (x : Port) : (s.setPort p x).portPart p = some q := hq
  unfold attentionAck
  rw [if_neg (by simp [hd])]
  dsimp only
  rw [part]

theorem fltAck_manageable {v : Word} (hm : s.manageable = true) : fltAck v s = s.ackEvents fun f => bitAt v f.source :=
  if_neg (by simp [hm])

/-! ## What the record of an event counts -/

theorem countEvent_unreported (hs : ¬(6 ≤ src ∧ src ≤ 20)) : (s.countEvent src inst).unreported = s.unreported := by
  simp only [State.countEvent, if_neg hs]
  rfl

theorem countEvent_hub : (s.countEvent src inst).hub =
    ((s.hubOr rFltSticky (BitVec.ofNat 32 (2 ^ src))).hubInc (rFltCount + 4 * src) 1).hub := by
  unfold State.countEvent
  dsimp only
  split <;> rfl

theorem sticky_countEvent (h : src < 32) : bitAt ((s.countEvent src inst).hubWord rFltSticky) src = true := by
  have sticky : (s.countEvent src inst).hubWord rFltSticky = s.hubWord rFltSticky ||| BitVec.ofNat 32 (2 ^ src) := by
    rw [hubWord_congr countEvent_hub, State.hubWord_hubInc, if_neg (by unfold rFltSticky rFltCount; omega), State.hubWord_hubOr, if_pos rfl]
  rw [sticky]
  exact bitAt_or_two_pow h

theorem count_countEvent : (s.countEvent src inst).hubWord (rFltCount + 4 * src) = satAdd (s.hubWord (rFltCount + 4 * src)) 1 := by
  rw [hubWord_congr countEvent_hub, State.hubWord_hubInc, if_pos rfl, State.hubWord_hubOr, if_neg (by unfold rFltSticky rFltCount; omega)]

section
variable (hl : s.latches.l3 = false) (hsev : o ≠ rSevereCount) (hesc : o ≠ rEscalateCount)
include hl hsev hesc

/-- Beside the counts of Severe reports and of escalations, the record of an event writes the registers that its count writes. -/
theorem hubWord_recordEvent_counted : (s.recordEvent src inst lvl).1.hubWord o = (s.countEvent src inst).hubWord o := by
  have severe (u : State) : (u.severeReport src inst).hubWord o = u.hubWord o := by simp [State.severeReport, hsev]
  unfold State.recordEvent
  rw [if_neg (by simp [hl])]
  simp only [apply_ite Prod.fst, apply_ite (State.hubWord · o), severe, hubWord_fatal, State.hubWord_hubInc, if_neg hesc,
    hubWord_reportAttention, hubWord_setFaultInst, ite_self]

theorem hubWord_reportOnly_counted : (s.reportOnly src inst lvl).hubWord o = (s.countEvent src inst).hubWord o := by
  unfold State.reportOnly
  dsimp only
  split
  · rw [hubWord_severeEnd, hubWord_recordEvent_counted hl hsev hesc]
  · exact hubWord_recordEvent_counted hl hsev hesc

end

/-- The registers of a source of events. -/
structure Counted (s t : State) (src : Nat) : Prop where
  sticky : bitAt (t.hubWord rFltSticky) src = true
  count : t.hubWord (rFltCount + 4 * src) = satAdd (s.hubWord (rFltCount + 4 * src)) 1

/-- A state with the counts of an event of `src` in its registers. -/
theorem Counted.of_hubWord {t : State} (h : src < 32)
    (hub : ∀ o, o ≠ rSevereCount → o ≠ rEscalateCount → o ≠ rReplayCount → o ≠ rSuspectPage → o ≠ rResetCause →
      t.hubWord o = (s.countEvent src inst).hubWord o) : Counted s t src where
  sticky := by
    rw [hub rFltSticky (by decide) (by decide) (by decide) (by decide) (by decide)]
    exact sticky_countEvent h
  count := by
    rw [hub (rFltCount + 4 * src)]
    · exact count_countEvent
    all_goals unfold rFltCount
    · unfold rSevereCount; omega
    · unfold rEscalateCount; omega
    · unfold rReplayCount; omega
    · unfold rSuspectPage; omega
    · unfold rResetCause; omega

theorem reportOnly_counted (hl : s.latches.l3 = false) (h : src < 32) : Counted s (s.reportOnly src inst lvl) src :=
  .of_hubWord (inst := inst) h fun _ severe escalated _ _ _ => hubWord_reportOnly_counted hl severe escalated

/-- A Fatal event of a source that no core counts leaves all but the latches and what reports write. -/
theorem reportOnly_fatal_unreported (hl : s.latches.l3 = false) (hs : ¬(6 ≤ src ∧ src ≤ 20)) :
    (s.reportOnly src inst 3).unreported = s.unreported.atL3 := by
  rw [reportOnly_fatal hl, fatal_unreported, countEvent_unreported hs]

/-! ## Link retries and the management watchdog -/

theorem linkFlitRetry_present {e : Bool} (hd : s.dead = false) (hp : s.hopPresent inst = true) :
    linkFlitRetry inst e s = s.reportOnly 21 inst (if e then 3 else 0) := if_neg (by simp [hd, hp])

theorem linkFlitRetry_absent {e : Bool} (hp : s.hopPresent inst = false) : linkFlitRetry inst e s = s := if_pos (.inr (by simp [hp]))

theorem managementWatchdogExpiry_alive (hd : s.dead = false) : managementWatchdogExpiry s = s.reportOnly 24 0 3 := if_neg (by simp [hd])

/-! ## The completion watchdog -/

/-- The hub registers, the physical cores and the binding of the logical ones. -/
def State.bindings (s : State) : SMap Word × SMap Phys × SMap (Option (Option Nat)) := (s.hub, s.phys, s.coreMap)

theorem breakUnit_bindings {n : Nat} : (s.breakUnit n).bindings = s.bindings := by
  unfold State.breakUnit
  split
  · exact foldl_keeps State.bindings (fun _ _ => (rfl : (State.modCore (State.modTask _ _ _ _) _ _).bindings = _)) _ _
  · rfl

/-- The units that are broken on a core leave its binding, and beside the replays counted the hub. -/
theorem breakUnits_keeps : (s.breakUnits core).phys = s.phys ∧ (s.breakUnits core).coreMap = s.coreMap ∧
    ∀ o, o ≠ rReplayCount → (s.breakUnits core).hubWord o = s.hubWord o := by
  have broken := foldl_keeps State.bindings (g := fun s n => s.breakUnit n) (fun _ _ => breakUnit_bindings) (s.plansOn core) s
  refine ⟨congrArg (·.2.1) broken, congrArg (·.2.2) broken, fun o ho => ?_⟩
  exact (State.hubWord_hubInc.trans (if_neg ho)).trans (hubWord_congr (congrArg (·.1) broken))

theorem physCore_regionOut {r : Nat} : (s.regionOut r).physCore p = s.physCore p := by
  have phys : (s.regionOut r).phys = s.phys := by
    unfold State.regionOut
    extract_lets failed cut cleared caused
    calc caused.phys = cut.phys := rfl
      _ = failed.phys := rfl
      _ = s.phys := rfl
  unfold State.physCore
  rw [phys]

theorem hubWord_regionOut (suspect : o ≠ rSuspectPage) (cause : o ≠ rResetCause) : (s.regionOut p).hubWord o = s.hubWord o := by
  have swept (u : State) (on : Nat → Bool) : (u.cutAndCount on true).hubWord o = u.hubWord o := State.hubWord_hubInc.trans (if_neg suspect)
  unfold State.regionOut
  extract_lets failed cut cleared caused
  calc caused.hubWord o = cleared.hubWord o := State.hubWord_hubOr.trans (if_neg cause)
    _ = failed.hubWord o := swept failed _

/-- The physical core of a bound core retires; of the hub only the counts of a region that leaves service are written. -/
theorem retireCore_retires (h : s.physOf core = some p) : ((s.retireCore core src).physCore p).state = .retired ∧
    ∀ o, o ≠ rSuspectPage → o ≠ rResetCause → (s.retireCore core src).hubWord o = s.hubWord o := by
  have retired : ((s.retired core p).physCore p).state = .retired := retired_physCore_same
  unfold State.retireCore
  rw [h]
  dsimp only
  split
  · exact ⟨retired, fun _ _ _ => rfl⟩
  · exact ⟨(congrArg Phys.state physCore_regionOut).trans retired, fun o suspect cause => hubWord_regionOut suspect cause⟩

theorem serves_physOf (h : s.serves p = some core) : s.physOf core = some p := by
  obtain ⟨c, found, rfl⟩ := Option.map_eq_some_iff.1 h
  simpa using List.find?_some found

theorem severeEnd_phys : (s.severeEnd src inst).phys = s.phys :=
  (congrArg State.phys severeEnd_unreported :)

theorem handleSevere_bound (h : s.serves p = some core) :
    s.handleSevere 8 p = ((s.breakUnits core).retireCore core 8).severeEnd 8 p := by
  simp [State.handleSevere, h]

theorem handleSevere_spare (h : s.serves p = none) :
    s.handleSevere 8 p = (s.setPhys p { s.physCore p with state := .retired }).severeEnd 8 p := by
  simp [State.handleSevere, h]

/-- The handling of the Severe event of CORE_LOGIC retires the physical core. -/
theorem handleSevere_coreLogic : ((s.handleSevere 8 p).physCore p).state = .retired ∧
    ∀ o, o ≠ rReplayCount → o ≠ rSuspectPage → o ≠ rResetCause → (s.handleSevere 8 p).hubWord o = s.hubWord o := by
  have ended (u : State) (h : (u.physCore p).state = .retired) : ((u.severeEnd 8 p).physCore p).state = .retired := by
    unfold State.physCore at h ⊢
    rwa [severeEnd_phys]
  cases serves : s.serves p with
  | some c =>
    obtain ⟨-, coreMap, broken⟩ := breakUnits_keeps (s := s) (core := c)
    have bound : (s.breakUnits c).physOf c = some p := by
      unfold State.physOf
      rw [coreMap]
      exact serves_physOf serves
    obtain ⟨retired, kept⟩ := retireCore_retires (src := 8) bound
    rw [handleSevere_bound serves]
    exact ⟨ended _ retired, fun o replays suspect cause => hubWord_severeEnd.trans ((kept o suspect cause).trans (broken o replays))⟩
  | none =>
    rw [handleSevere_spare serves]
    exact ⟨ended _ (congrArg Phys.state (State.physCore_setPhys.trans (if_pos rfl))), fun o _ _ _ => hubWord_severeEnd⟩

/-- A Severe event of CORE_LOGIC in a block that runs is counted, and retires the physical core. -/
theorem faultEvent_coreLogic (hl : s.latches.l3 = false) :
    Counted s (s.faultEvent 8 p 2) 8 ∧ ((s.faultEvent 8 p 2).physCore p).state = .retired := by
  have severe : (s.recordEvent 8 p 2).2 = true := by simp [State.recordEvent, hl]
  have event : s.faultEvent 8 p 2 = (s.recordEvent 8 p 2).1.handleSevere 8 p := if_pos severe
  obtain ⟨retired, kept⟩ := handleSevere_coreLogic (s := (s.recordEvent 8 p 2).1) (p := p)
  rw [event]
  exact ⟨.of_hubWord (inst := p) (by decide) fun o sev esc replays suspect cause =>
    (kept o replays suspect cause).trans (hubWord_recordEvent_counted hl sev esc), retired⟩

theorem commandCompletionWatchdog_bound (hs : s.serving = true) (hb : (s.physOf core).isSome = true) :
    commandCompletionWatchdog core s = s.faultEvent 8 (s.physInst core) 2 := if_pos ⟨hs, hb⟩

end

/-- Settles O52, event by event: a report by what its record counts, the handling of CORE_LOGIC by the retirement of its core. -/
theorem faultsEscalateAndAcknowledge : Obligations.FaultsEscalateAndAcknowledge := by
  intro s
  refine ⟨fun src inst b hp hd ht => congrArg Host.Outcome.next (escalation_due hp hd ht),
    fun src inst b hp ht => congrArg Host.Outcome.next (escalation_early hp ht), fun src inst => ?_, fun p q hd hq hlen => ?_, fun v hm => ?_,
    fun hd hop hp => ⟨?_, ?_⟩, fun hop e hp => congrArg Host.Outcome.next (linkFlitRetry_absent hp), fun hd => ?_, fun core hs hb => ?_⟩
  · exact ⟨hubWord_severeReport_count, faultInst_severeReport.2, faultInst_severeReport.1, faultInst_severeEnd⟩
  · refine ⟨_, congrArg Host.Outcome.next (attentionAck_of_part hd hq), rfl, State.port_setPort hlen, fun f hf hn => ?_,
      fun f hf hn held => mem_ackEvents hf hn held⟩
    exact pending_of_mem_ackEvents hf hn
  · exact ⟨_, congrArg Host.Outcome.next (fltAck_manageable hm), rfl, fun f hf hn => pending_of_mem_ackEvents hf hn,
      fun f hf hn held => mem_ackEvents hf hn held⟩
  · have hl := l3_of_alive hd
    have left := reportOnly_fatal_unreported (s := s) (inst := hop) (src := 21) hl (by decide)
    refine ⟨_, congrArg Host.Outcome.next (linkFlitRetry_present hd hp), reportOnly_fatal_stops, ?_, ?_, ?_, (reportOnly_counted hl (by decide)).sticky⟩
    · exact (congrArg State.cores left :)
    · exact (congrArg State.cmds left :)
    · exact (congrArg State.streams left :)
  · have hl := l3_of_alive hd
    have left := reportOnly_unreported (s := s) (src := 21) (inst := hop) (lvl := 0) (by decide) (by decide)
    have counted := reportOnly_counted (s := s) (src := 21) (inst := hop) (lvl := 0) hl (by decide)
    refine ⟨_, congrArg Host.Outcome.next (linkFlitRetry_present hd hp), ?_, ?_, ?_, counted.count, counted.sticky⟩
    · exact (congrArg (·.latches.l3) left :).trans hl
    · exact (congrArg State.cores left :)
    · exact (congrArg State.cmds left :)
  · have hl := l3_of_alive hd
    have left := reportOnly_fatal_unreported (s := s) (inst := 0) (src := 24) hl (by decide)
    refine ⟨_, congrArg Host.Outcome.next (managementWatchdogExpiry_alive hd), reportOnly_fatal_stops,
      (reportOnly_counted hl (by decide)).sticky, ?_, ?_, ?_, ?_⟩
    · exact (congrArg State.cores left :)
    · exact (congrArg State.cmds left :)
    · exact (congrArg State.streams left :)
    · exact (congrArg State.time left :)
  · obtain ⟨counted, retired⟩ := faultEvent_coreLogic (s := s) (p := s.physInst core) (l3_of_alive (serving_iff.1 hs).1)
    exact ⟨_, congrArg Host.Outcome.next (commandCompletionWatchdog_bound hs hb), counted.sticky, counted.count, retired⟩

end Sys2Proof.Machine
end


section
/-!
Self-test on demand and the Scree walker (R408 to R412), with the bits of a register whose field is replaced (R10); O55.
-/
namespace Sys2Proof.Machine

/-! ## Bits and fields of a register -/

section
variable {v w : Word} {hi lo x i : Nat}

theorem testBit_fld : (fld v hi lo).testBit i = (decide (i < hi + 1 - lo) && bitAt v (lo + i)) := by
  rw [fld, bitsOf, Nat.testBit_mod_two_pow, Nat.testBit_shiftRight]
  rfl

/-- A field depends on its own bits alone. -/
theorem fld_congr (h : ∀ i, lo ≤ i → i ≤ hi → bitAt v i = bitAt w i) : fld v hi lo = fld w hi lo := by
  refine Nat.eq_of_testBit_eq fun i => ?_
  rw [testBit_fld, testBit_fld]
  by_cases inside : i < hi + 1 - lo
  · rw [h (lo + i) (by omega) (by omega)]
  · simp [inside]

/-- The bits of a register after its field [hi:lo] is replaced. -/
theorem bitAt_setFld (h : i < 32) : bitAt (setFld v hi lo x) i = if lo ≤ i ∧ i ≤ hi then x.testBit (i - lo) else bitAt v i := by
  simp only [bitAt, setFld, BitVec.getLsbD_or, BitVec.getLsbD_and, BitVec.getLsbD_not, BitVec.getLsbD_ofNat, Nat.testBit_shiftLeft,
    Nat.testBit_two_pow_sub_one, Nat.testBit_mod_two_pow, h, decide_true, Bool.true_and]
  by_cases low : lo ≤ i <;> by_cases high : i ≤ hi
  · have inside : i - lo < hi + 1 - lo := by omega
    simp [low, high, inside]
  · have outside : ¬i - lo < hi + 1 - lo := by omega
    simp [low, high, outside]
  · simp [low]
  · simp [low]

/-- A replaced field reads as the value that was put into it. -/
theorem fld_setFld (hb : hi < 32) (hx : x < 2 ^ (hi + 1 - lo)) : fld (setFld v hi lo x) hi lo = x := by
  refine Nat.eq_of_testBit_eq fun i => ?_
  rw [testBit_fld]
  by_cases inside : i < hi + 1 - lo
  · rw [bitAt_setFld (by omega), if_pos (by omega)]
    simp [inside]
  · have high : x.testBit i = false := Nat.testBit_lt_two_pow (hx.trans_le (Nat.pow_le_pow_right (by decide) (by omega)))
    simp [inside, high]

/-- A field stays when a field beside it is replaced. -/
theorem fld_setFld_other {hi' lo' : Nat} (hb : hi < 32) (h : hi < lo' ∨ hi' < lo) : fld (setFld v hi' lo' x) hi lo = fld v hi lo :=
  fld_congr fun i _ _ => by rw [bitAt_setFld (by omega), if_neg (by omega)]

/-- A flag reads as it was set. -/
theorem bitAt_setFlag {b : Bool} (h : i < 32) : bitAt (setFld v i i (b2n b)) i = b := by
  rw [bitAt_setFld h, if_pos ⟨le_rfl, le_rfl⟩, Nat.sub_self]
  cases b <;> rfl

theorem bitAt_setFld_other (h : i < 32) (ho : i < lo ∨ hi < i) : bitAt (setFld v hi lo x) i = bitAt v i := by
  rw [bitAt_setFld h, if_neg (by omega)]

end

/-! ## Writes of the hub alone -/

/-- The state without its hub registers. -/
def State.unhubbed (s : State) : State := { s with hub := [] }

/-- States that are alike without their hub registers differ in these alone. -/
theorem eq_of_unhubbed {s t : State} (h : t.unhubbed = s.unhubbed) : t = { s with hub := t.hub } := by
  have e := congrArg (fun u : State => ({ u with hub := t.hub } : State)) h
  exact e

@[simp] theorem setHub_unhubbed {s : State} {o : Nat} {v : Word} : (s.setHub o v).unhubbed = s.unhubbed := rfl

@[simp] theorem setHub64_unhubbed {s : State} {o n : Nat} : (s.setHub64 o n).unhubbed = s.unhubbed := rfl

section
variable {s : State} {v : Word} {r unit kind n : Nat}

/-! ## SELFTEST_GO -/

theorem selftestGo_busy (h : bitAt (s.hubWord rSelftestStatus) 31 = true) : selftestGo v s = s := if_pos (.inr h)

section
variable (hm : s.manageable = true) (hi : bitAt (s.hubWord rSelftestStatus) 31 = false) (hv : bitAt v 31 = true)
include hm hi hv

theorem selftestGo_free (hf : s.selftestFree v = true) : selftestGo v s =
    (((s.setHub rSelftestCtrl (v &&& hubRw rSelftestCtrl)).setHub rSelftestStatus
      (stBusyBit ||| (s.hubWord rSelftestStatus &&& 0x08000000))).setHub64 rSelftestFailDa 0).setHub rSelftestFailBit 0 := by
  simp [selftestGo, hm, hi, hv, hf]

theorem selftestGo_inService (hf : s.selftestFree v = false) : selftestGo v s =
    (s.setHub rSelftestCtrl (setFld (v &&& hubRw rSelftestCtrl) 31 31 0)).setHub rSelftestStatus
      (setFld (s.hubWord rSelftestStatus) 28 28 1) := by
  simp [selftestGo, hm, hi, hv, hf]

end

/-- The status of a test that has started: running, no slice counted, none failed. -/
theorem started_status (w : Word) : bitAt (stBusyBit ||| (w &&& 0x08000000)) 31 = true ∧ fld (stBusyBit ||| (w &&& 0x08000000)) 15 0 = 0 ∧
    bitAt (stBusyBit ||| (w &&& 0x08000000)) 29 = false := by
  have bit (i : Nat) : bitAt (stBusyBit ||| (w &&& 0x08000000)) i = (bitAt stBusyBit i || (bitAt w i && bitAt (0x08000000 : Word) i)) := by
    simp only [bitAt, BitVec.getLsbD_or, BitVec.getLsbD_and]
  have low (i : Nat) (h : i ≤ 15) : bitAt stBusyBit i = false ∧ bitAt (0x08000000 : Word) i = false := by
    interval_cases i <;> decide
  refine ⟨?_, ?_, ?_⟩
  · rw [bit, show bitAt stBusyBit 31 = true from by decide, Bool.true_or]
  · refine (fld_congr (w := 0) fun i _ hi => ?_).trans (by decide)
    rw [bit, (low i hi).1, (low i hi).2]
    simp [bitAt]
  · rw [bit, show bitAt stBusyBit 29 = false from by decide, show bitAt (0x08000000 : Word) 29 = false from by decide]
    simp

/-! ## SELFTEST_SLICE -/

theorem destroyTarget_shell {slice : Nat} : (s.destroyTarget r kind unit slice).shell = s.shell := by
  unfold State.destroyTarget
  split
  · split <;> rfl
  · split <;> rfl

/-- Only a test of memory in a region out of service destroys what the memory holds. -/
theorem destroyTarget_kept {slice : Nat} (h : kind = 1 ∨ kind = 2 → (s.region r).service ≠ .outOfService) :
    s.destroyTarget r kind unit slice = s := by
  unfold State.destroyTarget
  rw [if_neg fun k => h (.inl k.1) k.2, if_neg fun k => h (.inr k.1) k.2]

/-- SELFTEST_STATUS after a passing slice of a test with `slices` of them. -/
def passedStatus (st : Word) (slices : Nat) : Word :=
  let n := fld st 15 0 + 1
  let counted := setFld (setFld st 15 0 n) 29 29 (b2n (bitAt st 29))
  if slices ≤ n then setFld (setFld counted 31 31 0) 30 30 (b2n (!bitAt st 29)) else counted

theorem selftestSlice_pass (hs : s.serving = true) (hd : s.onDemand r unit kind = true) :
    let t := s.destroyTarget r kind unit (fld (s.hubWord rSelftestCtrl) 18 13)
    let u := t.setHub rSelftestStatus (passedStatus (t.hubWord rSelftestStatus) (selftestSlices kind))
    selftestSlice r unit kind none s =
      if selftestSlices kind ≤ fld (t.hubWord rSelftestStatus) 15 0 + 1 then
        u.setHub rSelftestCtrl (setFld (u.hubWord rSelftestCtrl) 31 31 0)
      else u := by
  unfold selftestSlice passedStatus
  rw [if_neg (by simp [hs]), if_pos hd]
  simp only [Option.isSome_none, Bool.or_false]

section
variable {st : Word} {slices : Nat}

theorem passedStatus_count (h : fld st 15 0 + 1 < 65536) : fld (passedStatus st slices) 15 0 = fld st 15 0 + 1 := by
  unfold passedStatus
  dsimp only
  split
  · rw [fld_setFld_other (by decide) (by decide), fld_setFld_other (by decide) (by decide), fld_setFld_other (by decide) (by decide),
      fld_setFld (by decide) h]
  · rw [fld_setFld_other (by decide) (by decide), fld_setFld (by decide) h]

theorem passedStatus_failed : bitAt (passedStatus st slices) 29 = bitAt st 29 := by
  unfold passedStatus
  dsimp only
  split
  · rw [bitAt_setFld_other (by decide) (by decide), bitAt_setFld_other (by decide) (by decide), bitAt_setFlag (by decide)]
  · rw [bitAt_setFlag (by decide)]

theorem passedStatus_goes_on (h : fld st 15 0 + 1 < slices) : bitAt (passedStatus st slices) 31 = bitAt st 31 := by
  unfold passedStatus
  dsimp only
  rw [if_neg (by omega), bitAt_setFld_other (by decide) (by decide), bitAt_setFld_other (by decide) (by decide)]

theorem passedStatus_ended (h : slices ≤ fld st 15 0 + 1) :
    bitAt (passedStatus st slices) 31 = false ∧ bitAt (passedStatus st slices) 30 = !bitAt st 29 := by
  unfold passedStatus
  dsimp only
  rw [if_pos h]
  exact ⟨by rw [bitAt_setFld_other (by decide) (by decide)]; exact bitAt_setFlag (b := false) (by decide), bitAt_setFlag (by decide)⟩

end

/-- What a passing slice on demand leaves: the target's memory where it was destroyed, and the status of the test. -/
theorem selftestSlice_leaves (hs : s.serving = true) (hd : s.onDemand r unit kind = true) :
    (selftestSlice r unit kind none s).shell = { s with cores := [], hub := (selftestSlice r unit kind none s).hub } ∧
    (selftestSlice r unit kind none s).cores = (s.destroyTarget r kind unit (fld (s.hubWord rSelftestCtrl) 18 13)).cores ∧
    (selftestSlice r unit kind none s).hubWord rSelftestStatus = passedStatus (s.hubWord rSelftestStatus) (selftestSlices kind) := by
  have run := selftestSlice_pass hs hd
  dsimp only at run
  rw [run]
  have shell := destroyTarget_shell (s := s) (r := r) (kind := kind) (unit := unit) (slice := fld (s.hubWord rSelftestCtrl) 18 13)
  have status : (s.destroyTarget r kind unit (fld (s.hubWord rSelftestCtrl) 18 13)).hubWord rSelftestStatus = s.hubWord rSelftestStatus :=
    hubWord_congr (congrArg State.hub shell :)
  generalize s.destroyTarget r kind unit (fld (s.hubWord rSelftestCtrl) 18 13) = t at shell status ⊢
  have frame (h : SMap Word) : ({ t with hub := h } : State).shell = { s with cores := [], hub := h } :=
    (congrArg (fun u : State => ({ u with hub := h } : State)) shell :)
  rw [← status]
  split
  · exact ⟨frame _, rfl, (State.hubWord_setHub.trans (if_neg (by decide))).trans (State.hubWord_setHub.trans (if_pos rfl))⟩
  · exact ⟨frame _, rfl, State.hubWord_setHub.trans (if_pos rfl)⟩

/-! ## SCREE_RANGE -/

/-- The walker of a physical core after a range that passed, where `till` is the end of its 2,000 cycles. -/
def Phys.walked (x : Phys) (total till : Nat) : Phys :=
  let n := x.range % total
  { x with range := if n + 1 = total then 0 else n + 1, walkUntil := till, passes := if n + 1 = total then x.passes + 1 else x.passes }

theorem screeRange_pass {run : RegionRun} (hs : s.serving = true) (hon : bitAt (s.hubWord rScreeCtrl) 0 = true)
    (hrun : (s.region r).run = some run) (hk : run.klass = 7) (hfit : s.runElapsed r run + 2000 ≤ run.budget)
    (hgood : (s.physCore (68 * r + unit)).state = .good) (hnow : (s.physCore (68 * r + unit)).walkUntil ≤ s.time.now)
    (hwait : s.screeWaits (68 * r + unit) ((s.physCore (68 * r + unit)).range % screeRanges (s.serves (68 * r + unit)).isSome) = false) :
    ∃ passed, screeRange r unit .pass s = (s.setPhys (68 * r + unit) ((s.physCore (68 * r + unit)).walked
      (screeRanges (s.serves (68 * r + unit)).isSome) (s.time.now + ceilDiv 20000 (vfMhz100 (s.region r).point)))).hubInc rScreePasses passed := by
  unfold screeRange
  extract_lets p fits x total n before wrap till walked after
  have goes : ¬(s.serving = false ∨ bitAt (s.hubWord rScreeCtrl) 0 = false ∨ fits = false ∨ (s.physCore p).state ≠ .good ∨
      s.time.now < (s.physCore p).walkUntil) := by
    have room : fits = true := by simp [fits, hrun, hk, hfit]
    simp [hs, hon, room, p, hgood, hnow]
  rw [if_neg goes, if_neg (by simp [n, x, p, total, hwait])]
  have same : after = walked := by
    unfold after
    split <;> rfl
  rw [same]
  exact ⟨_, rfl⟩

theorem walked_before {x : Phys} {total till : Nat} (h : x.range % total + 1 < total) :
    x.walked total till = { x with range := x.range % total + 1, walkUntil := till } := by
  simp only [Phys.walked, if_neg h.ne]

theorem walked_wraps {x : Phys} {total till : Nat} (h : x.range % total + 1 = total) :
    x.walked total till = { x with range := 0, walkUntil := till, passes := x.passes + 1 } := by
  simp only [Phys.walked, if_pos h]

end

/-- Settles O55: the start by its two equations, a slice by the status that it leaves, a range by the walker that it moves. -/
theorem selfTestsRun : Obligations.SelfTestsRun := by
  intro s
  refine ⟨fun v hm hi hv => ⟨fun hf => ?_, fun hf => ?_⟩, fun v _ hb => congrArg Host.Outcome.next (selftestGo_busy hb),
    fun r unit kind hs hd => ?_, fun r unit run hs hon hrun hk hfit hgood hnow hwait => ?_⟩
  · obtain ⟨busy, count, failed⟩ := started_status (s.hubWord rSelftestStatus)
    refine ⟨_, congrArg Host.Outcome.next (selftestGo_free hm hi hv hf), eq_of_unhubbed (by simp), ?_⟩
    simp only [State.setHub64, State.hubWord_setHub]
    exact ⟨rfl, busy, count, failed⟩
  · refine ⟨_, congrArg Host.Outcome.next (selftestGo_inService hm hi hv hf), eq_of_unhubbed (by simp), ?_⟩
    rw [State.hubWord_setHub, if_pos rfl]
    exact ⟨bitAt_setFlag (b := true) (by decide), (bitAt_setFld_other (by decide) (by decide)).trans hi⟩
  · intro n hn
    obtain ⟨left, cores, status⟩ := selftestSlice_leaves hs hd
    refine ⟨_, rfl, ?_, fun h => ?_, ?_, ?_, fun h => ?_, fun h => ?_⟩
    · exact congrArg (fun u : State => ({ u with cores := (selftestSlice r unit kind none s).cores } : State)) left
    · exact cores.trans (congrArg State.cores (destroyTarget_kept h))
    · rw [status]
      exact passedStatus_count hn
    · rw [status]
      exact passedStatus_failed
    · rw [status, passedStatus_goes_on h]
      simp only [State.onDemand, Bool.and_eq_true] at hd
      exact hd.1.1.1
    · rw [status]
      exact passedStatus_ended h
  · obtain ⟨passed, run⟩ := screeRange_pass hs hon hrun hk hfit hgood hnow hwait
    refine ⟨_, congrArg Host.Outcome.next run, rfl, fun h => ?_, fun h => ?_, fun q hq => State.physCore_setPhys.trans (if_neg hq)⟩
    · exact (State.physCore_setPhys.trans (if_pos rfl)).trans (walked_before h)
    · exact (State.physCore_setPhys.trans (if_pos rfl)).trans (walked_wraps h)

end Sys2Proof.Machine
end


section
/-!
The partition table at its beat boundary (R434, R435), and the low-power states of regions and of the block (R439, R440); O14 and O24.
-/
namespace Sys2Proof.Machine

section
variable {s : State} {r : Nat} {v : Word}

/-! ## The partition table -/

theorem ptCommitGo_go (hd : s.dead = false) (hv : bitAt v 0 = true) :
    ptCommitGo v s = { s with parts := { s.parts with commit := some (bitAt v 1) } } := if_neg (by simp [hd, hv])

section
variable {persist : Bool} (hp : s.parts.commit = some persist)
include hp

theorem partitionTableApply_waiting (hd : s.dead = false) : partitionTableApply s = (s.advanceTo s.nextBoundary).applyTable :=
  if_neg (by simp [hd, hp])

theorem applyTable_rejected (hc : s.tableCheck s.stagedTable ≠ 0) :
    s.applyTable = ({ s with parts := { s.parts with commit := none } } : State).setHub rPtStatus
      (setFld (s.hubWord rPtStatus) 7 4 (s.tableCheck s.stagedTable)) := by
  unfold State.applyTable
  rw [hp]
  exact if_pos hc

/-- The table that a passing check puts in force (R435). -/
def State.nextTable (s : State) : PartTable := { entries := s.stagedTable, seq := s.parts.seq + 1, commit := none }

theorem applyTable_accepted (hc : s.tableCheck s.stagedTable = 0) :
    s.applyTable = { s with parts := s.nextTable, config :=
      if persist then ({ s.config with partTable := some s.nextTable } : Config).put (.partTable s.nextTable) else s.config } := by
  unfold State.applyTable
  rw [hp]
  dsimp only
  rw [if_neg (by simpa using hc)]
  cases persist <;> rfl

end

/-! ## Dormant regions -/

/-- Bit 0 of a write that enters, and of one that leaves. -/
theorem bitAt_enter : bitAt (v ||| 1) 0 = true := by simp [bitAt]

theorem bitAt_leave : bitAt (v &&& 0xFFFFFFFE) 0 = false := by simp [bitAt]

/-- While a command is admitted or a write is queued, an entry waits (log entry 99). -/
theorem settleSleep_waits (h : s.drained = false) : s.settleSleep = s := if_pos (.inr h)

theorem regionPmWrite_served (hm : s.manageable = true) (hr : r < s.nRegions) : ¬(s.manageable = false ∨ s.nRegions ≤ r) := by
  simp [hm, hr]

section
variable (hm : s.manageable = true) (hr : r < s.nRegions) (hh : hibState s = 0)
include hm hr hh

theorem regionPmWrite_refused (hb : bitAt v 0 = true) (hx : (s.region r).service = .inService) (hd : s.dormantRefused r = true) :
    regionPmWrite r v s = s.setHub (pmWord r) (setFld (s.hubWord (pmWord r)) 16 16 1) := by
  unfold regionPmWrite
  rw [if_neg (regionPmWrite_served hm hr)]
  simp only [hh, hb, hx, hd]
  simp

theorem regionPmWrite_accepted (hb : bitAt v 0 = true) (hx : (s.region r).service = .inService) (hd : s.dormantRefused r = false) :
    regionPmWrite r v s =
      ((s.setHub (pmWord r) (v &&& 2 ||| 1)).setRegion r { s.region r with service := .entering }).settleSleep := by
  unfold regionPmWrite
  rw [if_neg (regionPmWrite_served hm hr)]
  simp only [hh, hb, hx, hd]
  simp

theorem regionPmWrite_wakes (hb : bitAt v 0 = false) (hx : (s.region r).service = .dormant) :
    regionPmWrite r v s = (s.setHub (pmWord r) (v &&& 2)).regionOn r [] := by
  unfold regionPmWrite
  rw [if_neg (regionPmWrite_served hm hr)]
  simp only [hh, hb, hx]
  simp

theorem regionPmWrite_cancels (hb : bitAt v 0 = false) (hx : (s.region r).service = .entering) :
    regionPmWrite r v s = (s.setHub (pmWord r) (v &&& 2)).setRegion r { s.region r with service := .inService } := by
  unfold regionPmWrite
  rw [if_neg (regionPmWrite_served hm hr)]
  simp only [hh, hb, hx]
  simp

end

/-- What calibration leaves: everything but the cores and the free values. -/
theorem calibrate_shell {on : Nat → Bool} : (s.calibrate on).shell = s.tookFree.shell :=
  foldl_keeps (fun u : State => u.tookFree.shell) (fun _ _ => by rfl) _ s

/-- A region that comes back without a failed bit-line: it serves, and registers, commands and streams stay. -/
theorem regionOn_returns : (s.regionOn r []).hub = s.hub ∧ (s.regionOn r []).cmds = s.cmds ∧ (s.regionOn r []).streams = s.streams ∧
    (s.regionOn r []).regions = (s.restartRegion r .inService).regions := by
  have left := calibrate_shell (s := s.restartRegion r .inService) (on := (· == r))
  refine ⟨?_, ?_, ?_, ?_⟩
  · exact (congrArg State.hub left :)
  · exact (congrArg State.cmds left :)
  · exact (congrArg State.streams left :)
  · exact (congrArg State.regions left :)

theorem service_regionOn (h : r < s.regions.length) : ((s.regionOn r []).region r).service = .inService := by
  have region : (s.regionOn r []).region r = (s.restartRegion r .inService).region r := by
    rw [State.region, regionOn_returns.2.2.2]
    rfl
  rw [region]
  exact congrArg Region.service (State.region_setRegion h)

/-! ## Hibernation -/

/-- The dormant regions come back one after another. -/
def State.regionsWoken (s : State) : State :=
  ((List.range s.nRegions).filter fun r => decide ((s.region r).service = .dormant)).foldl (fun s r =>
    (s.setHub (pmWord r) (setFld (s.hubWord (pmWord r)) 0 0 0)).regionOn r []) s

theorem regionsWoken_streams : s.regionsWoken.streams = s.streams := by
  have woken (u : State) (r : Nat) : ((u.setHub (pmWord r) (setFld (u.hubWord (pmWord r)) 0 0 0)).regionOn r []).streams = u.streams :=
    regionOn_returns.2.2.1
  exact foldl_keeps State.streams woken _ s

section
variable (hm : s.manageable = true)
include hm

theorem hibWrite_refused (hh : hibState s = 0) {n : Nat} {x : Stream} (hx : (n, x) ∈ s.streams) (ho : x.state ≠ .free) :
    hibWrite true s = s.setHub rHibStatus 4 := by
  have opened : (s.streams.any fun e => decide (e.2.state ≠ .free)) = true := List.any_eq_true.2 ⟨(n, x), hx, by simpa using ho⟩
  unfold hibWrite
  rw [if_neg (by simp [hm]), hh]
  exact if_pos opened

theorem hibWrite_accepted (hh : hibState s = 0) (hx : ∀ n x, (n, x) ∈ s.streams → x.state = .free) :
    hibWrite true s = ((s.setHub rHibCtrl 1).setHub rHibStatus 1).settleSleep := by
  have closed : ¬(s.streams.any fun e => decide (e.2.state ≠ .free)) = true := by
    rw [List.any_eq_true]
    rintro ⟨⟨n, x⟩, mem, free⟩
    simp [hx n x mem] at free
  unfold hibWrite
  rw [if_neg (by simp [hm]), hh]
  exact if_neg closed

theorem hibWrite_cancels (hh : hibState s = 1) : hibWrite false s = (s.setHub rHibCtrl 0).setHub rHibStatus 0 := by
  unfold hibWrite
  rw [if_neg (by simp [hm]), hh]
  rfl

theorem hibWrite_wakes (hh : hibState s = 2) : hibWrite false s = (s.regionsWoken.setHub rHibCtrl 0).setHub rHibStatus 0 := by
  unfold hibWrite
  rw [if_neg (by simp [hm]), hh]
  rfl

end

end

/-- Settles O14: the boundary only moves device time, so the table checked there is the one staged now. -/
theorem partitionTableCommits : Obligations.PartitionTableCommits := by
  intro s hd
  refine ⟨fun v hv => congrArg Host.Outcome.next (ptCommitGo_go hd hv), fun persist hp => ?_⟩
  have waiting : (s.advanceTo s.nextBoundary).parts.commit = some persist := hp
  have staged : (s.advanceTo s.nextBoundary).stagedTable = s.stagedTable := rfl
  have run := partitionTableApply_waiting hp hd
  by_cases hc : (s.advanceTo s.nextBoundary).tableCheck s.stagedTable = 0
  · rw [applyTable_accepted waiting (staged ▸ hc)] at run
    refine ⟨_, congrArg Host.Outcome.next run, rfl, rfl, rfl, ?_⟩
    dsimp only
    rw [if_pos hc]
    refine ⟨staged, rfl, rfl, ?_⟩
    cases persist <;> rfl
  · rw [applyTable_rejected waiting (staged ▸ hc)] at run
    refine ⟨_, congrArg Host.Outcome.next run, rfl, rfl, rfl, ?_⟩
    dsimp only
    rw [if_neg hc]
    exact ⟨rfl, rfl, rfl, State.hubWord_setHub.trans (if_pos rfl)⟩

/-- Settles O24: the writes of REGION_PM and HIB_CTRL case by case; an accepted entry waits while the block is not drained. -/
theorem sleepEntersAndLeaves : Obligations.SleepEntersAndLeaves := by
  intro s hm
  refine ⟨fun r v hr hh hx => ⟨fun hd => ?_, fun hd hw => ?_⟩, fun r v hr hlen hh hx => ?_, fun r v hr hh hx => ?_, fun hh => ?_,
    fun hh hx hw => ?_, fun hh => ?_, fun hh => ?_⟩
  · exact congrArg Host.Outcome.next (regionPmWrite_refused hm hr hh bitAt_enter hx hd)
  · exact congrArg Host.Outcome.next ((regionPmWrite_accepted hm hr hh bitAt_enter hx hd).trans (settleSleep_waits hw))
  · have run := regionPmWrite_wakes hm hr hh (bitAt_leave (v := v)) hx
    obtain ⟨hub, cmds, streams, -⟩ := regionOn_returns (s := s.setHub (pmWord r) (v &&& 0xFFFFFFFE &&& 2)) (r := r)
    exact ⟨_, congrArg Host.Outcome.next run, service_regionOn hlen, (hubWord_congr hub).trans (State.hubWord_setHub.trans (if_pos rfl)),
      cmds, streams⟩
  · exact congrArg Host.Outcome.next (regionPmWrite_cancels hm hr hh bitAt_leave hx)
  · rintro ⟨n, x, mem, ho⟩
    exact congrArg Host.Outcome.next (hibWrite_refused hm hh mem ho)
  · exact congrArg Host.Outcome.next ((hibWrite_accepted hm hh hx).trans (settleSleep_waits hw))
  · exact congrArg Host.Outcome.next (hibWrite_cancels hm hh)
  · refine ⟨_, congrArg Host.Outcome.next (hibWrite_wakes hm hh), ?_, State.hubWord_setHub.trans (if_pos rfl), regionsWoken_streams⟩
    exact (State.hubWord_setHub.trans (if_neg (by decide))).trans (State.hubWord_setHub.trans (if_pos rfl))

end Sys2Proof.Machine
end

section
/-!
The state after reset (R34, R40, R51, R425, R437); O8.
-/
namespace Sys2Proof.Machine

/-- Settles O8: every core reads as the initial one, every port of the reset is a present port at its initial values. -/
theorem resetState : Obligations.ResetState := by
  have core (n : Nat) : State.reset.core n = Core.init := rfl
  have port : ∀ p < 4, State.reset.port p = { Port.init with present := true } := by decide
  have beat : State.reset.beatNs = 62500 := by decide +kernel
  have sticky : State.reset.hubWord rFltSticky = 0 := by decide +kernel
  refine ⟨rfl, Nat.zero_le _, Nat.zero_le _, rfl, rfl, rfl, rfl, rfl, rfl, fun n => ?_, fun p hp => ?_, beat, sticky, rfl⟩
  · rw [core]
    exact ⟨rfl, rfl, rfl⟩
  · rw [port p hp]
    exact ⟨rfl, rfl⟩

end Sys2Proof.Machine
end


section
/-!
Firmware update, SPDM, sensors, transport and JTAG (R415 to R423, R431, R433, R454), message by message; O60.
-/
namespace Sys2Proof.Machine

section
variable {s : State} {n b l o k index : Nat} {data nonce : List Byte} {code : Byte} {ext : List ExtAsym}

/-! ## Firmware update (R420) -/

section
variable (hu : s.updatable = true)
include hu

theorem requestUpdate_placed (hb : s.stageFree 0x800000 = some b) :
    requestUpdate n s = ({ s with mgmt := { s.mgmt with update := .receiving b 0 } } : State).emit (.update 1 0) := by
  unfold requestUpdate
  rw [if_neg (by simp [hu]), hb]

theorem requestFirmwareData_more (hr : s.mgmt.update = .receiving b l) (hlen : data.length ≤ 1024) (hend : o + data.length ≤ 0x800000) :
    requestFirmwareData o data false s =
      { s with staging := s.staging.write (b + o) data, mgmt := { s.mgmt with update := .receiving b (max l (o + data.length)) } } := by
  have served : ¬(s.updatable = false ∨ 1024 < data.length ∨ 0x800000 < o + data.length) := by
    rintro (h | h | h)
    · cases h.symm.trans hu
    · omega
    · omega
  unfold requestFirmwareData
  rw [hr]
  exact if_neg served

theorem applyComplete_written (hv : s.mgmt.update = .verified b l) :
    applyComplete true s = ({ s with flash := flashOf (s.staging.read b l), mgmt := { s.mgmt with update := .applied } } : State).emit
      (.update 3 0) := by
  unfold applyComplete
  rw [hv]
  exact if_neg (by simp [hu])

end

/-! ## SPDM (R422, R423) -/

section
variable (hm : s.managed = true)
include hm

theorem getVersion_managed :
    getVersion s = ({ s with mgmt := { s.mgmt with negotiated := false } } : State).emit (.spdm .version) := if_neg (by simp [hm])

theorem getCapabilities_managed : getCapabilities s = s.emit (.spdm .capabilities) := if_neg (by simp [hm])

theorem negotiateAlgorithms_managed : negotiateAlgorithms ext s =
    ({ s with mgmt := { s.mgmt with negotiated := ext.contains slhExt } } : State).emit (.spdm (.algorithms (ext.contains slhExt))) :=
  if_neg (by simp [hm])

theorem getDigests_managed : getDigests s = s.emit (.spdm (.digests (sha3_256 s.chain))) := if_neg (by simp [hm])

theorem getCertificate_chain : getCertificate 0 o l s = s.emit (.spdm (.certificate ((s.chain.drop o).take l))) := by
  simp [getCertificate, hm]

theorem spdmServe_challenge (hn : s.mgmt.negotiated = true) : spdmServe (.challenge nonce) true s =
    if s.canSign then s.signedAnswer (sha3_256 s.chain ++ nonce) .challengeAuth else s.notReady (.challenge nonce) true := by
  simp [spdmServe, hm, hn]

theorem spdmServe_unsigned {vs : List (Nat × List Byte)} (hv : s.measureList index = some vs) :
    spdmServe (.measurements index nonce) false s = s.emit (.spdm (.measurements vs [])) := by
  simp [spdmServe, hm, hv]

theorem respondIfReady_unknown (hw : s.mgmt.waiting = none) : respondIfReady k s = s.emit (.spdm .unexpected) := by
  unfold respondIfReady
  rw [hw]
  exact if_pos hm

/-- A temperature sensor of a region answers with its reading and its two thresholds. -/
theorem getSensorReading_region (hr : n < 4) :
    ∃ warning critical, getSensorReading n none s = s.emit (.sensor n (s.region n).temp warning critical) := by
  unfold getSensorReading
  rw [if_neg (by simp [hm])]
  dsimp only
  rw [if_pos (by omega), if_pos hr]
  exact ⟨_, _, rfl⟩

end

/-- A request that was put off is served as it was asked, by its token. -/
theorem respondIfReady_waiting {w : SpdmWait} (hw : s.mgmt.waiting = some w) : respondIfReady w.token s = spdmServe w.request w.signed s := by
  unfold respondIfReady
  rw [hw]
  exact if_pos rfl

/-! ## Transport (R431) -/

theorem mctpControl_answered (ht : s.latches.tripped = false) (hp : s.boot.phase ≠ .start) : mctpControl code s = s.emit (.mctp code) :=
  if_neg (by simp [ht, hp])

theorem smbusFallback_unaddressed (hd : s.dead = false) (hs : s.mgmt.sideband = .none) :
    smbusFallback s = (s.advanceTo (second + s.mgmt.powerGoodAt)).setSideband .smbus := if_neg (by simp [hd, hs])

theorem dynamicAddress_assigned {a : BitVec 7} (ht : s.latches.tripped = false) : dynamicAddress a s = s.setSideband (.i3c a) :=
  if_neg (by simp [ht])

end

/-- Settles O60, message by message, by their equations. -/
theorem updatesAndSpdmAnswer : Obligations.UpdatesAndSpdmAnswer := by
  intro s
  refine ⟨fun hu => ⟨fun n b hb => ?_, fun o data b l hr hlen hend => ?_, fun b l hv => ?_⟩,
    fun hm => ⟨?_, ?_, fun h a ext => ?_, ?_, fun o l => ?_, fun nonce hn hc => ?_, fun nonce hn hc => ?_, fun index nonce vs hv => ?_,
      fun w nonce hw hr hs => ?_, fun k hw => ?_, fun r => ?_⟩,
    fun ht hp code data => ?_, fun hd hs => ?_, fun ht a => ?_, rfl, rfl, fun hb hr n => ?_⟩
  · exact congrArg Host.Outcome.next (requestUpdate_placed hu hb)
  · exact congrArg Host.Outcome.next (requestFirmwareData_more hu hr hlen hend)
  · exact ⟨_, congrArg Host.Outcome.next (applyComplete_written hu hv), rfl, rfl⟩
  · exact ⟨_, congrArg Host.Outcome.next (getVersion_managed hm), rfl, rfl, rfl⟩
  · exact ⟨_, congrArg Host.Outcome.next (getCapabilities_managed hm), rfl, rfl⟩
  · exact ⟨_, congrArg Host.Outcome.next (negotiateAlgorithms_managed hm), rfl, rfl, rfl⟩
  · exact congrArg Host.Outcome.next (getDigests_managed hm)
  · exact congrArg Host.Outcome.next (getCertificate_chain hm)
  · have run := (spdmServe_challenge (nonce := nonce) hm hn).trans (if_pos hc)
    exact ⟨_, _, congrArg Host.Outcome.next run, rfl, rfl, rfl⟩
  · have run := (spdmServe_challenge (nonce := nonce) hm hn).trans (if_neg (by simp [hc]))
    exact ⟨_, congrArg Host.Outcome.next run, rfl, rfl⟩
  · exact congrArg Host.Outcome.next (spdmServe_unsigned hm hv)
  · have run := respondIfReady_waiting hw
    rw [hr, hs] at run
    exact congrArg Host.Outcome.next run
  · exact congrArg Host.Outcome.next (respondIfReady_unknown hm hw)
  · obtain ⟨warning, critical, run⟩ := getSensorReading_region hm r.isLt
    exact ⟨warning, critical, congrArg Host.Outcome.next run⟩
  · exact congrArg Host.Outcome.next (mctpControl_answered ht hp)
  · exact ⟨_, congrArg Host.Outcome.next (smbusFallback_unaddressed hd hs), rfl, State.le_now_advanceTo, rfl⟩
  · exact congrArg Host.Outcome.next (dynamicAddress_assigned ht)
  · exact if_neg (by simp [hb, hr])

end Sys2Proof.Machine
end
